-- ==== Sys2Proof/Word.lean ====
section
/-!
DEFINITION. The words of the engine: bit vectors for what the manual numbers as bits, and the plain-data table
type that every sparse part of the state uses.
-/
namespace Sys2Proof

/-- A byte. -/
abbrev Byte := BitVec 8
/-- A 24-bit data word of a frond: Q1.23 (R9). -/
abbrev W24 := BitVec 24
/-- A 32-bit register or mailbox word. -/
abbrev W32 := BitVec 32
/-- A 48-bit instruction word of a frond. -/
abbrev W48 := BitVec 48
/-- A 56-bit accumulator of a frond core: Q9.47 (R9). -/
abbrev W56 := BitVec 56
/-- A 64-bit word. -/
abbrev W64 := BitVec 64

/-- A sparse table: keys strictly rising, one value a key. Plain data, so that a state can be compared. -/
abbrev Tbl (α : Type) := List (Nat × α)

end Sys2Proof
end

