-- ==== Sys2Proof/RunState.lean ====
section
/-!
DEFINITION. Run state of blocks, lanes, the mover, ports and voices: what the state copy of R338 carries besides
configuration, and the items in which STATE messages carry it (R337, R344; the manual gives no word layouts of these
regions: log entry 34).
-/
namespace Sys2Proof.Machine
open Sys2Proof

/-- A running route crossfade of a sink (R56, R57). -/
structure Xfade where
  old : Option Nat := none
  /-- The old source is read in the previous frame (R58). -/
  oldPrev : Bool := false
  /-- The held sample faded from when the source became absent (R49). -/
  hold : Option Int := none
  pos : Nat := 0
  len : Nat := 0
  deriving DecidableEq, Repr

/-- A change that waits for a running crossfade (R57). -/
structure PendChange where
  src : Option Nat
  len : Nat
  prev : Bool
  deriving DecidableEq, Repr

/-- The mover's state for one sink (R49, R56, R57, R66). -/
structure SinkState where
  /-- The source that the sink carries, after any crossfade. -/
  carried : Option Nat := none
  prevFrame : Bool := false
  xfade : Option Xfade := none
  pend : Option PendChange := none
  /-- Crossfade length of its connection, or of the one last removed (R55). -/
  len : Nat := 64
  /-- The last sample delivered. -/
  last : Int := 0
  deriving DecidableEq, Repr

/-- A linear ramp of a gain, in units of 2^−20 (R73). -/
structure Ramp where
  g0 : Int := 0
  g1 : Int := 0
  pos : Nat := 0
  len : Nat := 0
  deriving DecidableEq, Repr

/-- The state of an ASRC instance (R94, R95): its lock, the ramp of its slots, and what its converter keeps of each slot's
samples, in a form that Config alone knows. -/
structure AsrcState where
  locked : Bool := false
  ramp : Ramp := {}
  acc : Tbl Nat := []
  deriving DecidableEq, Repr

/-- What a port puts on its pins in a port frame, by BCLK period from the frame start edge (R223): the bits of DOUT, none in
high impedance, and the level of FSYNC where the port is its master. -/
structure Wire where
  dout : List (Option Bool) := []
  fsync : List Bool := []
  /-- The frame start edge rises; the receiver samples on the rising edge of BCLK. -/
  startRising : Bool := true
  sampleRising : Bool := true
  deriving DecidableEq, Repr

/-- One second-order section: words in Q3.21, numerator shift, input history Q1.23, output history Q1.47 (R80). -/
structure Section where
  b0 : Int := 0
  b1 : Int := 0
  b2 : Int := 0
  a1 : Int := 0
  a2 : Int := 0
  shift : Nat := 0
  x1 : Int := 0
  x2 : Int := 0
  y1 : Int := 0
  y2 : Int := 0
  deriving DecidableEq, Repr

/-- A dynamics channel: detector, smoothed gain and look-ahead (R88 to R90). Levels and gains in 1/65,536 dB. -/
structure DynState where
  /-- One-pole mean square of the detector, with 60 fraction bits. -/
  meanSq : Int := 0
  /-- Smoothed gain in 1/65,536 dB. -/
  gain : Int := 0
  /-- Gate open, and samples below the closing level. -/
  gateOpen : Bool := false
  below : Nat := 0
  key : Section := {}
  /-- Look-ahead line, newest first, with the gain needed for each sample and the gain at which it arrived. -/
  line : List Int := []
  need : List Int := []
  start : List Int := []
  /-- Largest gain reduction since the last read, in 0.01 dB. -/
  maxGr : Nat := 0
  /-- Gain reduction of the latest sample, in 0.01 dB. -/
  gr : Int := 0
  /-- A store saturated in the frame in process (R72). -/
  clip : Bool := false
  deriving DecidableEq, Repr

/-- A built-in or endpoint meter (R98): running peak and mean square, held peak, readings latched at the boundary. -/
structure Meter where
  peak : Int := 0
  held : Int := 0
  holdLeft : Nat := 0
  meanSq : Int := 0
  readPeak : Int := -32768
  readRms : Int := -32768
  readHeld : Int := -32768
  above : Bool := false
  /-- History for true-peak interpolation, newest first. -/
  hist : List Int := []
  deriving DecidableEq, Repr

/-- Pilot-tone detector of a zone (R100): Goertzel state over the block, latest block's readings. -/
structure PilotDet where
  count : Nat := 0
  s1 : Int := 0
  s2 : Int := 0
  band : Section := {}
  /-- The same over the named strip's output. -/
  d1 : Int := 0
  d2 : Int := 0
  dband : Section := {}
  /-- A block is complete and waits to be judged (R376). -/
  fresh : Bool := false
  /-- Readings of the latest complete block: amplitude S and drive D (Q1.23 linear), presence, ratio (Q8.8). -/
  amp : Nat := 0
  drive : Nat := 0
  present : Bool := false
  ratio : Nat := 0
  deriving DecidableEq, Repr

/-- Run state of one block page (R72 to R100). -/
structure BlkState where
  ramp : Ramp := {}
  ramp2 : Ramp := {}
  ramp3 : Ramp := {}
  ramp4 : Ramp := {}
  sections : List Section := []
  /-- Numeric filter parameters in use, by field ID in units of 2^−20 of the field's unit, and the sets still to come
  in a glide, one a frame (R74). -/
  use_ : Tbl Int := []
  glide : List (Tbl Int) := []
  /-- Delay line or FIR history, newest first. -/
  line : List Int := []
  /-- An earlier partition of a FIR: the partial sums that it committed last (R87). -/
  part : List Int := []
  /-- The last sample that a delay gave (R79). -/
  last : Int := 0
  /-- Read position in force, crossfade (old, position, length), waiting delay (R78). -/
  tap : Nat := 0
  xf : Option (Nat × Nat × Nat) := none
  waitTap : Option (Nat × Nat) := none
  dyn : List DynState := []
  /-- Presence: samples for which the flag still holds (R98). -/
  hold : Nat := 0
  /-- Ambient gain (R92): gap length so far, sum of squares, a sense source absent in it, N in 0.01 dB, gain in 2^−32 dB,
  samples of absence. -/
  gapLen : Nat := 0
  gapSum : Int := 0
  gapBad : Bool := false
  noise : Option Int := none
  anGain : Int := 0
  absent : Nat := 0
  /-- Generator phase, noise register, sweep position, pink filter states (R97). -/
  phase : Nat := 0
  noiseReg : Nat := 1
  sweepPos : Nat := 0
  /-- A store saturated in the frame in process (R72). -/
  clip : Bool := false
  deriving DecidableEq, Repr

/-- How a crosspoint moves towards its target (R114 to R117). Gains are Q4.20 words as integers. -/
structure XPoint where
  applied : Int := 0
  target : Int := 0
  /-- Gains still to be stepped to, next first. -/
  steps : List Int := []
  /-- Samples since the last step or the commit boundary. -/
  wait : Nat := 0
  /-- Timeout in samples of the running sequence. -/
  timeout : Nat := 0
  /-- Interpolation in progress: from, to, j. -/
  interp : Option (Int × Int × Nat) := none
  /-- Steps queued behind a running interpolation's end. -/
  retiring : Bool := false
  /-- The lane computes the term. -/
  live : Bool := false
  /-- Its lane-memory word failed twice: stepping is stopped (R124). -/
  frozen : Bool := false
  deriving DecidableEq, Repr

/-- Run state of a bus (R110 to R113, R120). -/
structure Bus where
  trim : Ramp := { g0 := 1048576, g1 := 1048576 }
  /-- Limiter smoothed gain in 1/65,536 dB. -/
  limGain : Int := 0
  maxGr : Nat := 0
  sat : Bool := false
  /-- Duck envelopes of levels 0 to 15 in 1/65,536 dB, those that are not 0; the lowest since the last read. -/
  env : Tbl Int := []
  envMin : Tbl Int := []
  /-- Levels triggered in the frame in process (R119). -/
  trig : List Nat := []
  /-- Partial sums of the frame: key level × 32 + position (R110); mix inputs whose term is taken. -/
  sums : Tbl Int := []
  taken : List Nat := []
  /-- The bus that the lane stored last, in the other half of its double buffer (R555). -/
  last : List Int := []
  /-- The lane has stored its bus for the frame in process. -/
  stored : Bool := false
  failed : Bool := false
  deriving DecidableEq, Repr

/-- Run state of a mix input (R106, R115, R119). -/
structure MixInput where
  sel : SinkState := {}
  /-- Fetched samples of the frame in process and the last sample of the one before. -/
  samples : List Int := []
  lastX : Int := 0
  flags : List Bool := []
  hold : Nat := 0
  /-- Presence flag at the end of the previous processing frame, and now. -/
  presPrev : Bool := false
  presNow : Bool := false
  zcLast : Bool := false
  deriving DecidableEq, Repr

/-- Where a hold stage stands (R233); the number counts samples of the state so far. -/
inductive HoldPhase where
  | driving
  | hold (n : Nat)
  | down (j : Nat)
  | silent
  | cross (j : Nat)
  | up (j : Nat)
  deriving DecidableEq, Repr

/-- A hold stage: its phase, the held values and the last values sent, slot by slot (R233, R234). -/
structure HoldStage where
  phase : HoldPhase := .silent
  held : List Int := []
  last : List Int := []
  /-- Samples of the safe-state ramp so far (64 at its end); none while no safe state is in force. -/
  safe : Option Nat := none
  deriving DecidableEq, Repr

/-- Marking of an output slot (R235, R237, R240): mode 0 OFF, 1 CONTINUOUS, 2 PROOF. -/
structure MarkTx where
  mode : Nat := 0
  tag : Nat := 0
  raw : Option (List Byte) := none
  /-- The 24 bytes of the block in progress and whether the slot is marked in it. -/
  block : Option (List Byte) := none
  /-- Blocks for which PORT.PROOF or the nightly window marks the slot whatever its mode (R239, R372). -/
  once : Nat := 0
  deriving DecidableEq, Repr

/-- Marking check of an input slot (R238, R239). -/
structure MarkRx where
  mode : Nat := 0
  /-- C bits of the block in progress, and port frames since the latest preamble. -/
  gather : List Bool := []
  since : Nat := 0
  started : Bool := false
  /-- A gathered block that waits to be judged, and whether its preamble came 192 port frames after the one before. -/
  full : Option (List Byte × Bool) := none
  good : Nat := 0
  bad : Nat := 0
  locked : Bool := false
  last : Option (List Byte) := none
  parity : Nat := 0
  sync : Nat := 0
  crc : Nat := 0
  /-- Result code of PORT.PROOF and slip offset, once a locked block was judged. -/
  result : Option (Nat × Int) := none
  /-- A path proof gathers the slot whatever its mode (R239). -/
  proving : Bool := false
  unknownFormat : Bool := false
  user : Bool := false
  deriving DecidableEq, Repr

/-- A player voice (R406 to R408). -/
structure Voice where
  /-- 0 idle, 1 armed, 2 playing. -/
  state : Nat := 0
  /-- Clips with their crossfade lengths, present one first; its position. -/
  queue : List (Nat × Nat) := []
  pos : Nat := 0
  /-- Media-clock count at which an armed voice starts; LATE applies. -/
  start : Nat := 0
  always : Bool := false
  gain : Ramp := {}
  armedGain : Int := 0
  /-- A stop ramp's position; a replaced clip and its position that fades out. -/
  stop : Option Nat := none
  from_ : Option (Nat × Nat × Nat) := none
  /-- A clip armed to replace a playing one. -/
  next : Option (Nat × Nat × Int) := none
  /-- Clips queued behind it, with their crossfade lengths. -/
  after : List (Nat × Nat) := []
  empties : Nat := 0
  fade : Nat := 32
  held : Int := 0
  missing : Bool := false
  /-- In a pair (R328): the samples stated for a coming frame, and those that the partner gave for one. -/
  ahead : Option (Nat × List Int) := none
  given : Option (Nat × List Int) := none
  deriving DecidableEq, Repr

/-- What one STATE message carries (R337, R338; log entry 34). -/
inductive CopyItem where
  /-- A library task's state: histories, delay line, ramps, generator state. -/
  | block (page : Nat) (st : BlkState)
  /-- An expert task's state: run index, read copy, ring heads, persistent frond words in layout order, and its bulk
  rings' words. -/
  | task (page runIndex : Nat) (copy : Bool) (heads kept : List Nat) (bulk : List (List Nat))
  /-- A detector task's state: a meter, of a strip or not, and a pilot detector. -/
  | meter (strip : Bool) (key : Nat) (m : Meter)
  | pilotDet (page : Nat) (d : PilotDet)
  /-- Output words of the frame that ends, by source endpoint. -/
  | source (id : Nat) (samples : List Int)
  /-- Bracken lane state: crosspoints by key, buses, mix inputs. -/
  | cross (key : Nat) (x : XPoint)
  | lane (bus : Nat) (b : Bus)
  | mixIn (input : Nat) (i : MixInput)
  /-- Mover state of a sink. -/
  | sink (id : Nat) (k : SinkState)
  /-- A port: frame count, hold stages, marking. -/
  | port (n frames : Nat) (inHold outHold : HoldStage) (tx : Tbl MarkTx) (rx : Tbl MarkRx)
  /-- RTP sequence state of a transmit stream, and the jitter buffer of a receive stream. -/
  | sent (id count : Nat) (samples : List (List Int)) (spoiled : Bool)
  | jitter (id : Nat) (buf : Tbl (List Int)) (empties fade : Nat) (last : List Int)
  /-- A player voice, and the ASRC of a bridged port. -/
  | voice (n : Nat) (v : Voice)
  | asrc (page : Nat) (a : AsrcState)
  /-- Words of something that is not a region of R338. -/
  | outside (region : Nat)
  deriving DecidableEq, Repr

/-- An extent as it reads back: its index, its header, and its slots from 1 on: header and payload. -/
structure FoundExtent where
  index : Nat
  header : List Byte
  slots : List (List Byte × List Byte)
  deriving DecidableEq, Repr


end Sys2Proof.Machine
end

