-- ==== Sys2Proof/Change.lean ====
section
/-!
DEFINITION. Configuration as it travels: what port, stream, trigger, reference and player commands set, the changes
that take effect at a frame boundary or an apply frame (R53, R244, R281, R329), and the contents of the twin-link
messages (R344). Numbers of fields are those of the Seril tables (R478 to R493).
-/
namespace Sys2Proof

/-- A field of a page set to a value: the content of every page write. -/
structure Edit where
  page : Nat
  field : Nat
  value : Int
  deriving DecidableEq, Repr

/-- What PORT.CONFIG sets (R223 to R228, R244, R485). Rate codes above 5 add 6 for 32 kHz. -/
structure PortCfg where
  /-- 0 I²S, 1 left-justified, 2 TDM. -/
  format : Nat := 2
  width : Nat := 32
  slots : Nat := 32
  master : Bool := false
  gen : Nat := 0
  rate : Nat := 1
  bclkInv : Bool := false
  fsyncInv : Bool := false
  noDelay : Bool := false
  hiZ : Bool := false
  deriving DecidableEq, Repr

/-- A port clock generator (R227); start 0xFF is the enable commit, else a trigger. -/
structure Pcg where
  n : Nat := 1
  d : Nat := 1
  len : Nat := 64
  phase : Nat := 0
  start : Nat := 0xFF
  running : Bool := false
  deriving DecidableEq, Repr

/-- An expectation of an input slot (R239). -/
structure Expect where
  anyId : Bool := false
  anyPort : Bool := false
  anySlot : Bool := false
  anyTag : Bool := false
  sender : Nat := 0
  port : Nat := 0
  slot : Nat := 0
  tag : Nat := 0
  deriving DecidableEq, Repr

/-- A path of a stream: port, UDP port, destination, source (0 any) (R260, R486). -/
structure PathCfg where
  port : Nat
  udp : Nat
  dst : Nat
  src : Nat := 0
  deriving DecidableEq, Repr

/-- A stream as STREAM.TX or STREAM.RX defines it (R262, R263, R486). -/
structure StreamCfg where
  first : Nat
  channels : Nat
  /-- 0 L16, 1 L24. -/
  enc : Nat
  ptime : Nat
  ptype : Nat
  offset : Nat := 0
  ssrc : Nat := 0
  paths : List PathCfg
  linkUs : Nat := 1000
  lossMs : Nat := 10
  deriving DecidableEq, Repr

/-- An entry of a gate control list (R254). -/
structure GateEntry where
  op : Nat
  states : Nat
  interval : Nat
  deriving DecidableEq, Repr

/-- A trigger setting (R310); the time in ns since the PTP epoch. -/
structure TrigCfg where
  time : Nat
  period : Nat
  /-- 0 PULSE, 1 PORT_START, 2 FRAME_ALIGN, 3 EVENT. -/
  action : Nat
  pin : Nat
  low : Bool
  width : Nat
  deriving DecidableEq, Repr

/-- PTP settings of TIME.PTP (R299, R487). -/
structure PtpCfg where
  ports : Nat := 0
  profile : Nat := 0
  domain : Nat := 0
  logSync : Int := -3
  logAnnounce : Int := 1
  announceTimeout : Nat := 3
  logDelayReq : Int := 0
  priority1 : Nat := 128
  priority2 : Nat := 128
  p2p : Bool := false
  leaderCapable : Bool := false
  unicast : Bool := false
  traceable : Bool := false
  holdoverLimit : Nat := 0
  asym : List Int := [0, 0, 0, 0, 0]
  deriving DecidableEq, Repr

/-- What a parameter page is the page of (R126, R101, R480). -/
inductive BlockKind where
  | stripEnable | trim | fader | delay | highPass | lowPass | peq | crossover | fir | gate | expander
  | gateOrExpander | compressor | limiter | presence | ancGain | asrc | pilot | generator | detector
  deriving DecidableEq, Repr

/-- A standalone block instance (R67, R480): its type, its stage and its pins. Parameters stand in its page. -/
structure BlockInst where
  kind : BlockKind
  stage : Nat
  /-- First expert pin, input pins first, then output pins. -/
  pinBase : Nat := 0
  ins : Nat := 1
  outs : Nat := 1
  /-- Partition tasks of a long FIR (R87). -/
  parts : Nat := 1
  /-- Its creation has committed. -/
  live : Bool := false
  deriving DecidableEq, Repr

/-- A change of configuration or state other than a page field. -/
inductive Change where
  /-- A setting of the Seril command with this code, by its numeric fields. -/
  | setting (code : Nat) (vals : List Int)
  | port (p : Nat) (c : PortCfg)
  | enable (p dirs : Nat)
  | markRaw (p slot : Nat) (bytes : List Byte)
  | clkgen (g : Nat) (c : Pcg)
  | expect (p slot : Nat) (e : Option Expect)
  | stream (rx : Bool) (id : Nat) (c : StreamCfg)
  | dropStream (rx : Bool) (id : Nat)
  /-- A gate list with its start time in ns (R255); none removes the list. -/
  | gates (p start cycle : Nat) (entries : Option (List GateEntry))
  | blockNew (page : Nat) (b : BlockInst) (cost : Nat)
  | blockDrop (page : Nat)
  | blockCost (page cost : Nat)
  | image (bytes : List Byte) (code x y : Nat)
  | imageDrop (id : Nat)
  | instNew (image first pin : Nat) (rings : List (List Nat))
  | instDrop (first : Nat)
  | rate (code : Nat)
  | frameSize (b : Nat)
  | maint (slot : Option Nat)
  | trigger (n : Nat) (c : Option TrigCfg)
  /-- The extension s′ in ns of the frame that begins at the boundary (R290). -/
  | realign (ns : Nat)
  /-- A step of the time reading, in 2^−16 ns; it may set the time (R284, R286). -/
  | timeStep (amount : Int) (sets : Bool)
  | timeRate (rate : Int)
  | bias (ns : Int)
  /-- TIME.DIRECT puts the servo into MANUAL, or RELEASE ends it (R296). -/
  | manual (on : Bool)
  | refs (cands : List (Nat × Nat × Nat)) (sapPort : Nat)
  | ptp (c : PtpCfg)
  | tracks (first count group arming : Nat)
  | emergAssign (input : Nat) (scene : Option Nat) (latch : Bool)
  | emergClear (input : Nat)
  | sceneStore (n flags : Nat) (name body : List Byte)
  | sceneDrop (n : Nat)
  /-- A body that lives only in Peat, copied to a joiner whose version differs (R325). -/
  | sceneBody (n version : Nat) (name body : List Byte)
  /-- The version that a scene has on the source of the handshake (R324). -/
  | sceneVersion (n version : Nat)
  | arm (id : Nat) (isList : Bool) (number : Nat) (time : Option Nat) (always skip : Bool)
  | disarm (id : Nat)
  | listDrop (n : Nat)
  | holdTime (group start stop : Nat)
  | clipStore (id rate : Nat) (body : List Byte)
  | clipDrop (id : Nat)
  | play (voice clip : Nat) (time : Option Nat) (always replace : Bool) (gain : Int)
  | voiceQueue (voice clip xfade : Nat)
  | voiceStop (voice : Nat)
  | startPorts (trigger : Nat)
  deriving DecidableEq, Repr

/-- What HELLO carries (R324, R344). -/
structure Hello where
  serial : Nat
  ordering : List Byte
  revision : Nat
  keyHash : Nat
  series : Nat
  version : Nat
  build : Nat
  seril : Nat
  pairEn : Bool
  pairPref : Bool
  activeOut : Bool
  partnerIn : Bool
  active : Bool
  state : Nat
  sender : Nat
  /-- Port addresses of NET0 to NET4. -/
  addrs : List Nat
  deriving DecidableEq, Repr

/-- An item that FETCH asks for and DATA brings (R274, R327, R328): a section of a port and capture frame, a packet of
a stream by its first count, a player block of a voice and frame. -/
inductive FetchItem where
  | portSection (port frame : Nat)
  | packet (stream count : Nat)
  | block (voice frame : Nat)
  deriving DecidableEq, Repr

/-- Arrival and check of one packet or player block (R328). -/
structure Arrival where
  item : FetchItem
  here : Bool
  crc : Nat
  deriving DecidableEq, Repr

/-- A twin-link message (R344). -/
inductive LinkMsg where
  | ack
  | nak (expected : Nat)
  | lanes (set fromCount : Nat)
  | hello (h : Hello)
  | verdict (step : Nat) (pass : Bool) (reason : Nat)
  /-- A section of the committed configuration, in the form in which COMMAND carries changes (log entry 10). -/
  | config (section_ : Nat) (edits : List Edit) (changes : List Change)
  | configHash (hash : List Byte)
  /-- Its sending; sending and reception of the latest TIME received; the sender's latest boundary: frame and time. Times in
  2^−16 ns of the full time. -/
  | time (sent : Int) (latest : Option (Int × Int)) (frame : Nat) (boundary : Int)
  | heartbeat (state : Nat) (active activeOut partnerIn : Bool) (severity : Nat)
  | recon (frame : Nat) (crcs : List (Nat × Nat)) (emerg : Nat) (asrc : List (Nat × Nat × Nat))
  | pktRecon (items : List Arrival)
  | fetch (item : FetchItem)
  | data (item : FetchItem) (words : List Nat)
  | command (txn slot seq : Nat) (edits : List Edit) (changes : List Change)
  | commit (txn frame : Nat)
  | commandAck (txn : Nat) (ok : Bool) (ofCommit : Bool)
  | signature (frame sap net rec : Nat) (invalid : Bool) (detection : Nat)
  | switch (fault : Bool) (frame : Nat)
  | identity (claim : Bool) (blue : Bool)
  | state (item : Machine.CopyItem)
  | stateCtrl (kind value : Nat)
  deriving DecidableEq, Repr

end Sys2Proof
end

