-- ==== Sys2Proof/Syntax.lean ====
section
/-!
DEFINITION. The commands the engine takes: every row of the opcode table is one constructor of `Instr`, with the
row's operands. A command of the Seril protocol carries the request's header and its decoded fields (17); an event
carries what the pins, links and devices outside show at that instant (log entry 12).
-/
namespace Sys2Proof

/-- Fields of the widths that the manual gives (R470); WellFormed checks the bounds. -/
abbrev U8 := Nat
abbrev U16 := Nat
abbrev Bit2 := Nat
abbrev Bit3 := Nat
abbrev Bit4 := Nat
abbrev Bit5 := Nat
abbrev Bit24 := Nat
abbrev S8 := Int
abbrev S16 := Int
abbrev S32 := Int
abbrev S64 := Int
abbrev U32 := Nat
abbrev U48 := Nat
abbrev U64 := Nat
abbrev U256 := Nat
abbrev U2048 := Nat
/-- Numbers of objects: frond, core, client slot, serial port, network port, lane, mix input. -/
abbrev FrondNo := Nat
abbrev CoreNo := Nat
abbrev SlotNo := Nat
abbrev PortNo := Nat
abbrev NetNo := Nat
abbrev LaneNo := Nat
abbrev MixIn := Nat
/-- A control path: 0 PCIe, 1 SPI (R444); and 2 for Mladir as a master of the registers (R497). -/
abbrev HostPath := Nat
abbrev PathNo := Nat

/-- A data reference (R452). -/
structure DataRef where
  /-- 0 the client's window, 1 host memory. -/
  place : Nat
  length : Nat
  address : Nat
  /-- The endpoint's access to the host memory fails (R469). -/
  bad : Bool := false
  deriving DecidableEq, Repr

/-- The header of a request as the engine takes it (R452, R454). -/
structure Req where
  slot : Nat
  seq : Nat
  crc : Nat
  partner : Bool := false
  data : Option DataRef := none
  deriving DecidableEq, Repr

/-- A move field of a parallel instruction (R201). -/
structure Move where
  kind : Nat
  reg : Nat
  ptr : Nat
  post : Nat
  shift : Nat
  deriving DecidableEq, Repr

/-- The operation fields of MAC (R202). -/
structure MacFields where
  ad : Nat
  sa : Nat
  sb : Nat
  negate : Bool
  accumulate : Bool
  saUnsigned : Bool
  sbUnsigned : Bool
  deriving DecidableEq, Repr

/-- The operation fields of DMAC (R202). -/
structure DmacFields where
  /-- 0 for A0 and A1, 1 for A2 and A3. -/
  pair : Nat
  /-- The shared side: false X, true Y. -/
  sharedY : Bool
  sharedIdx : Nat
  neg0 : Bool
  acc0 : Bool
  neg1 : Bool
  acc1 : Bool
  uns0 : Bool
  uns1 : Bool
  deriving DecidableEq, Repr

/-- The fields of a BMOV (R206). -/
structure BmovFields where
  srcPtr : Nat
  srcSpace : Nat
  dstPtr : Nat
  dstSpace : Nat
  ring : Nat
  flag : Nat
  deriving DecidableEq, Repr

/-- How far a BMOV comes (R172, R174, R217): the elements done before an event is taken, and the words of a bulk read whose
first read fails, each with whether the second fails too. -/
structure BmovRun where
  elems : U32 := 0
  fails : List (Nat × Bool) := []
  deriving DecidableEq, Repr

/-- A BMOV that asks for a posted transfer. -/
structure BmovPost where
  fields : BmovFields
  run : BmovRun := {}
  deriving DecidableEq, Repr

/-- What stands at the end of a frame: the output buffers and stage-5 writes that are not complete (R15, R43), and the slack
figures of its fronds (R39). -/
structure FrameEnd where
  late : List U16 := []
  slack : List (Nat × Nat × Nat) := []
  deriving DecidableEq, Repr

/-- A burst that a requester adds to its queue at a bank group (R425, R426). -/
structure BurstReq where
  req : Nat
  turns : Nat
  write : Bool
  addr : Nat
  bytes : List Byte
  deriving DecidableEq, Repr


/-- A word that the mover finds failing its ECC check (R64): its source, position and frame (the one in process or the one
before), its logical bulk address and the bank that served it. `outcome`: 0 corrected, 1 the second read succeeds, 2 it
fails. -/
structure MoveError where
  src : Nat
  pos : Nat
  prev : Bool
  addr : Nat
  bank : Nat
  outcome : Nat
  deriving DecidableEq, Repr

/-- A delay word that fails its ECC check at a sample position (R79): its logical bulk address, the bank that served it, and
whether the second read fails too. -/
structure DelayError where
  pos : Nat
  addr : Nat
  bank : Nat
  again : Bool
  deriving DecidableEq, Repr

/-- What the checks find in one run of a task (R36, R79): the location at which it raises a retry flag, the locations of
words that were corrected in place, and delay words that fail. -/
structure RunChecks where
  flagged : Option Nat := none
  corrected : List Nat := []
  delays : List DelayError := []
  deriving DecidableEq, Repr

/-- An entry of ROUTE.BATCH or EXPERT.MOVER_WRITE (R479, R492): 0 connect, 1 disconnect; flags [0] previous frame. -/
structure RouteOp where
  op : Nat
  flags : Nat
  len : Nat
  src : Nat
  sink : Nat
  deriving DecidableEq, Repr

/-- A pair of a parameter ID and a value (R480). -/
structure Pair where
  id : Nat
  value : Int
  deriving DecidableEq, Repr

/-- A crosspoint of MIX.GAIN or MIX.GAIN_BATCH (R482): flags [0] inverted, [1] assigned, [2] immediate. -/
structure GainOp where
  lane : Nat
  input : Nat
  level : Int
  flags : Nat
  prec : Nat
  deriving DecidableEq, Repr

/-- What MIX.BUS sets (R482): flags [0] inverted, [1] mute, [2] limiter enable. -/
structure BusSet where
  trim : Int
  flags : Nat
  ramp : Nat
  threshold : Int
  knee : Int
  release : Nat
  step : Int
  timeout : Nat
  deriving DecidableEq, Repr

/-- A network time of a request (R470): seconds and ns. -/
structure NetTime where
  sec : Nat
  ns : Nat
  deriving DecidableEq, Repr

/-- What PORT.CONFIG sets (R485): flags [0] BCLK inverted, [1] FSYNC inverted, [2] data without delay, [3] high impedance. -/
structure PortFields where
  format : Nat
  width : Nat
  slots : Nat
  role : Nat
  gen : Nat
  rate : Nat
  flags : Nat
  deriving DecidableEq, Repr

/-- A slot of a port (R485). -/
structure PortSlot where
  port : Nat
  slot : Nat
  deriving DecidableEq, Repr

/-- What PORT.EXPECT sets (R485): flags [0] to [3] any ID, port, slot, tag, [7] clear. -/
structure ExpectFields where
  flags : Nat
  sender : Nat
  port : Nat
  slot : Nat
  tag : Nat
  deriving DecidableEq, Repr

/-- The fields of a port clock generator (R227, R485). -/
structure GenFields where
  n : Nat
  d : Nat
  len : Nat
  phase : Nat
  start : Nat
  deriving DecidableEq, Repr

/-- The format of a stream (R486): channels, encoding, packet time and payload type codes. -/
structure StreamFields where
  first : Nat
  channels : Nat
  enc : Nat
  ptime : Nat
  ptype : Nat
  deriving DecidableEq, Repr

/-- A path of STREAM.TX or STREAM.RX (R486); a transmit path has no source. -/
structure StreamPath where
  port : Nat
  udp : Nat
  dst : Nat
  src : Nat
  deriving DecidableEq, Repr

/-- An entry of a gate control list as NET.GATES brings it (R486). -/
structure GateFields where
  op : Nat
  states : Nat
  interval : Nat
  deriving DecidableEq, Repr

/-- What NET.CONFIG sets (R486): flags [0] step-down enabled. -/
structure NetFields where
  speed : Nat
  fec : Nat
  flags : Nat
  ip : Nat
  prefixLen : Nat
  gateway : Nat
  vlan : Nat
  ttl : Nat
  seril : Nat
  deriving DecidableEq, Repr

/-- PCP and DSCP of a traffic class (R252, R486). -/
structure ClassFields where
  pcp : Nat
  dscp : Nat
  deriving DecidableEq, Repr

/-- A raw stream table entry (R260, R486); hits and last arrival are not writable. -/
structure EntryFields where
  valid : Nat
  port : Nat
  udp : Nat
  dst : Nat
  src : Nat
  stream : Nat
  path : Nat
  deriving DecidableEq, Repr

/-- A PTP message as an instance receives it (R298): port identities of 80 bits, times in ns, corrections in 2^−16 ns. -/
inductive PtpMsg where
  /-- A bad length, a version other than 2, or another domain (R316). -/
  | bad
  | announce (src gm p1 cls acc var p2 steps : Nat) (utcOffset : Int) (leap59 leap61 : Bool)
  | syncMsg (src seq : Nat) (twoStep : Bool) (t1 corr : Int)
  | followUp (src seq : Nat) (t1 corr : Int)
  | delayReq (src seq : Nat)
  | delayResp (src seq requester : Nat) (t4 corr : Int)
  | pdelayReq (src seq : Nat)
  | pdelayResp (src seq requester : Nat) (twoStep : Bool) (t2 corr : Int)
  | pdelayFollowUp (src seq requester : Nat) (t3 corr : Int)
  /-- Action 0 GET, else another; the managementId. -/
  | management (src seq action target : Nat)
  deriving DecidableEq, Repr

/-- A reference candidate of TIME.REFERENCES (R487). -/
structure RefFields where
  priority : Nat
  window : Nat
  restore : Nat
  deriving DecidableEq, Repr

/-- What TIME.PTP sets (R487): flags [0] unicast Delay_Req, [1] traceable. -/
structure PtpFields where
  ports : Nat
  profile : Nat
  domain : Nat
  logSync : Int
  logAnnounce : Int
  announceTimeout : Nat
  logDelayReq : Int
  priority1 : Nat
  priority2 : Nat
  mechanism : Nat
  role : Nat
  flags : Nat
  holdoverLimit : Nat
  asym : List Int
  deriving DecidableEq, Repr

/-- What TIME.TRIGGER sets (R310, R487). -/
structure TriggerFields where
  action : Nat
  pin : Nat
  polarity : Nat
  time : NetTime
  period : Nat
  width : Nat
  deriving DecidableEq, Repr

/-- What TIME.SERVO sets (R294, R487). -/
structure ServoFields where
  stepThr : Nat
  slope : Nat
  bw : List Nat
  damping : Int
  gains : List (Nat × Nat)
  alignTol : Nat
  avgWindow : Nat
  deriving DecidableEq, Repr

/-- The header of a twin-link message (R344): flag [0], sequence number, acknowledgement, sender's frame number. -/
structure LinkHdr where
  again : Bool
  seq : Nat
  ack : Nat
  frame : Nat
  deriving DecidableEq, Repr

/-- Sending and reception of the latest TIME received, in 2^−16 ns (R347). -/
structure Stamps where
  sent : Int
  got : Int
  deriving DecidableEq, Repr

/-- What RECON says of an input port (R327), and of a bridged one (R96). -/
structure PortCrc where
  port : Nat
  crc : Nat
  deriving DecidableEq, Repr

structure AsrcFig where
  port : Nat
  rate : Nat
  phase : Nat
  deriving DecidableEq, Repr

/-- An entry of the active table as FAULT.CLEAR names it, and a reaction entry (R490). -/
structure FaultName where
  source : Nat
  kind : Nat
  deriving DecidableEq, Repr

structure Reaction where
  kind : Nat
  value : Nat
  deriving DecidableEq, Repr

/-- A row of a memory that a march finds failing: memory m of a frond, row (R365, R370). -/
structure FailRow where
  part : Nat
  row : Nat
  deriving DecidableEq, Repr

/-- A completion queue entry as Peat takes it (R386): its controller, command identifier, status field, whether its phase
or its SQ head is wrong (R414), the entry's bytes, and what the device returned with it. -/
structure Completion where
  ctrl : Nat
  cid : Nat
  status : Nat
  badPhase : Bool
  entry : List Byte
  bytes : List Byte
  deriving DecidableEq, Repr

/-- A controller that enumeration finds, with its link generation and width (R382). -/
structure CtrlFound where
  ctrl : Nat
  link : Nat
  deriving DecidableEq, Repr

/-- What Identify tells of a controller and its first namespace (R384, R385): version, command set, MQES, SGLS, LBA data
and metadata size, transfer limit in KiB (0 none), blocks, namespace ID, deallocation, I/O queues granted. -/
structure Identify where
  version : Nat
  nvm : Bool
  mqes : Nat
  sgl : Bool
  dataSize : Nat
  metaSize : Nat
  mdtsKiB : Nat
  blocks : Nat
  nsid : Nat
  dealloc : Bool
  queues : Nat
  deriving DecidableEq, Repr

/-- An object extent of the system group as it reads back (R405). -/
structure FoundObject where
  index : Nat
  header : List Byte
  body : List Byte
  deriving DecidableEq, Repr

/-- A segment that the device returns wrong on a read-out: chain sequence, copy, result (R410). -/
structure ReadFault where
  chain : Nat
  copy : Nat
  result : Nat
  deriving DecidableEq, Repr

/-- An entry of EXPERT.MOVER_WRITE (R492). -/
structure MoverOp where
  sink : Nat
  src : Nat
  len : Nat
  prev : Nat
  deriving DecidableEq, Repr

/-- What the power manager reads of a power stage: current in mA, temperature in 0.01 °C, fault (R512). -/
structure StageReading where
  ma : Nat
  temp : Int
  fault : Bool
  deriving DecidableEq, Repr

/-- The commands and events of the engine: one constructor for each row of the opcode table. -/
inductive Instr where
  /-- FRAME_TICK (R21): The clock unit issues the frame tick at a frame boundary, and the frame sequencer checks deadlines, records slack, swaps due pages and opens the next frame. -/
  | frameTick (partner : Bool) (ending : FrameEnd) (moves : List MoveError)
  /-- SAMPLE_TICK (R288): A sample tick falls at a grid instant, the ports load and shift samples and the standby samples PARTNER_ACTIVE. -/
  | sampleTick (partner : Bool)
  /-- SUB_FRAME_TICK (R157): The clock unit issues a sub-frame tick, which a core takes when the running task enabled it. -/
  | subFrameTick
  /-- SERVO_INTERVAL (R40): Every 10 ms the supply servo raises, holds or lowers VCORE from the lowest base slack. -/
  | servoInterval
  /-- TASK_START (R156): A frond sequencer starts a task once a core is free and every source it reads is complete. -/
  | taskStart (key : Nat) (core : CoreNo) (checks : RunChecks)
  /-- TASK_RETRY (R37): A task whose run flagged an error runs again on the first free core of the frond. -/
  | taskRetry (key : Nat) (core : CoreNo) (loc : U32) (checks : RunChecks)
  /-- TASK_OVERRUN (R165): A run that exceeds its instruction or bulk-word limit is stopped and its outputs handled as failed. -/
  | taskOverrun (frond : FrondNo) (core : CoreNo)
  /-- LANE_TERM (R122): A Bracken lane takes an assigned term once the task producing its source has committed. -/
  | laneTerm (lane : LaneNo) (input : MixIn) (err : U8) (word : DelayError)
  /-- STEP_TIMEOUT (R116): After T samples without a zero crossing a stepping crosspoint applies its step by 32-sample interpolation. -/
  | stepTimeout (lane : LaneNo) (input : MixIn)
  /-- NOP (R202): The core executes a parallel instruction with no operation, with its two moves. -/
  | nop (frond : FrondNo) (core : CoreNo) (x : Move) (y : Move)
  /-- MAC (R192): The core multiplies two registers and writes, adds or subtracts the product into an accumulator. -/
  | mac (frond : FrondNo) (core : CoreNo) (fields : MacFields) (x : Move) (y : Move)
  /-- DMAC (R202): The core performs two multiply-accumulates sharing one operand. -/
  | dmac (frond : FrondNo) (core : CoreNo) (fields : DmacFields) (x : Move) (y : Move)
  /-- ADD (R202): The core adds one accumulator into another. -/
  | add (frond : FrondNo) (core : CoreNo) (ad : Bit2) (as : Bit2) (x : Move) (y : Move)
  /-- SUB (R202): The core subtracts one accumulator from another. -/
  | sub (frond : FrondNo) (core : CoreNo) (ad : Bit2) (as : Bit2) (x : Move) (y : Move)
  /-- MOV (R202): The core copies one accumulator to another. -/
  | mov (frond : FrondNo) (core : CoreNo) (ad : Bit2) (as : Bit2) (x : Move) (y : Move)
  /-- ADD24 (R202): The core adds an accumulator shifted right by 24 bits. -/
  | add24 (frond : FrondNo) (core : CoreNo) (ad : Bit2) (as : Bit2) (x : Move) (y : Move)
  /-- CLR (R202): The core clears an accumulator. -/
  | clr (frond : FrondNo) (core : CoreNo) (ad : Bit2) (x : Move) (y : Move)
  /-- NEG (R202): The core negates an accumulator. -/
  | neg (frond : FrondNo) (core : CoreNo) (ad : Bit2) (x : Move) (y : Move)
  /-- ABS (R202): The core takes the absolute value of an accumulator. -/
  | abs (frond : FrondNo) (core : CoreNo) (ad : Bit2) (x : Move) (y : Move)
  /-- MAX (R202): The core keeps the larger of two accumulators. -/
  | max (frond : FrondNo) (core : CoreNo) (ad : Bit2) (as : Bit2) (x : Move) (y : Move)
  /-- MIN (R202): The core keeps the smaller of two accumulators. -/
  | min (frond : FrondNo) (core : CoreNo) (ad : Bit2) (as : Bit2) (x : Move) (y : Move)
  /-- ASH (R203): The core shifts an accumulator by an immediate count. -/
  | ash (frond : FrondNo) (core : CoreNo) (ad : Bit2) (imm : Int) (x : Move) (y : Move)
  /-- ASHR (R203): The core shifts an accumulator by a count held in a data register. -/
  | ashr (frond : FrondNo) (core : CoreNo) (ad : Bit2) (rs : Bit2) (x : Move) (y : Move)
  /-- RND (R202): The core rounds and ranges an accumulator in place. -/
  | rnd (frond : FrondNo) (core : CoreNo) (ad : Bit2) (x : Move) (y : Move)
  /-- ADDD (R202): The core adds a data register into bits [47:24] of an accumulator. -/
  | addd (frond : FrondNo) (core : CoreNo) (ad : Bit2) (rs : Bit2) (x : Move) (y : Move)
  /-- SUBD (R202): The core subtracts a data register from bits [47:24] of an accumulator. -/
  | subd (frond : FrondNo) (core : CoreNo) (ad : Bit2) (rs : Bit2) (x : Move) (y : Move)
  /-- LOG2 (R204): The core writes log2 of an accumulator's magnitude divided by 64. -/
  | log2 (frond : FrondNo) (core : CoreNo) (ad : Bit2) (as : Bit2) (x : Move) (y : Move)
  /-- EXP2 (R204): The core writes 2 raised to 64 times an accumulator. -/
  | exp2 (frond : FrondNo) (core : CoreNo) (ad : Bit2) (as : Bit2) (x : Move) (y : Move)
  /-- CMP (R202): The core sets Z, N and E from the difference of two accumulators. -/
  | cmp (frond : FrondNo) (core : CoreNo) (ad : Bit2) (as : Bit2) (x : Move) (y : Move)
  /-- CMOV (R202): The core copies an accumulator when its condition holds. -/
  | cmov (frond : FrondNo) (core : CoreNo) (ad : Bit2) (as : Bit2) (cond : Bit4) (x : Move) (y : Move)
  /-- XFR (R194): The core stores an accumulator into a data register with rounding and ranging. -/
  | xfr (frond : FrondNo) (core : CoreNo) (rs : Bit2) (as : Bit2) (x : Move) (y : Move)
  /-- LDI (R206): The core loads a 24-bit immediate into a register. -/
  | ldi (frond : FrondNo) (core : CoreNo) (code : Bit5) (imm : Bit24)
  /-- BR (R214): The core branches relative to itself when its condition holds, after a delay slot. -/
  | br (frond : FrondNo) (core : CoreNo) (cond : Bit4) (offset : Int)
  /-- CALL (R214): The core pushes a return address and branches when its condition holds. -/
  | call (frond : FrondNo) (core : CoreNo) (cond : Bit4) (offset : Int)
  /-- RTS (R214): The core returns from a subroutine when its condition holds. -/
  | rts (frond : FrondNo) (core : CoreNo) (cond : Bit4)
  /-- DO (R210): The core pushes a hardware loop with its count. -/
  | doLoop (frond : FrondNo) (core : CoreNo) (reg : Option Nat) (count : U16) (stop : U16)
  /-- VMAC (R216): The core accumulates the products of N element pairs into an accumulator. -/
  | vmac (frond : FrondNo) (core : CoreNo) (ad : Bit2) (pa : Bit3) (pb : Bit3) (negate : Bool) (ux : Bool) (uy : Bool) (elems : U32)
  /-- BMOV_SYNCHRONOUS (R218): The core moves N words between spaces and holds until the last burst completes. -/
  | bmovSynchronous (frond : FrondNo) (core : CoreNo) (fields : BmovFields) (run : BmovRun)
  /-- BMOV_POSTED (R218): The core posts a bulk transfer to the bulk port queue and continues. -/
  | bmovPosted (frond : FrondNo) (core : CoreNo) (post : BmovPost)
  /-- END (R162): The core commits the run: outputs copied, ping-pong swapped, rings advanced, outputs marked complete. -/
  | endRun (frond : FrondNo) (core : CoreNo)
  /-- RETE (R170): The core swaps the register banks back and resumes the interrupted stream. -/
  | rete (frond : FrondNo) (core : CoreNo)
  /-- SWSET (R189): The core sets the masked RW fields of the status word. -/
  | swset (frond : FrondNo) (core : CoreNo) (mask : Bit24)
  /-- SWCLR (R189): The core clears the masked RW fields of the status word. -/
  | swclr (frond : FrondNo) (core : CoreNo) (mask : Bit24)
  /-- MOVR (R206): The core moves any readable register to any writable one. -/
  | movr (frond : FrondNo) (core : CoreNo) (dst : Bit5) (src : Bit5)
  /-- MODP (R206): The core post-modifies a pointer by a signed amount under its modifier's mode. -/
  | modp (frond : FrondNo) (core : CoreNo) (ptr : Bit3) (amount : Int)
  /-- WAITB (R218): The core holds until every masked bulk completion flag is set. -/
  | waitb (frond : FrondNo) (core : CoreNo) (mask : Bit4)
  /-- CLRB (R218): The core clears the masked bulk completion flags. -/
  | clrb (frond : FrondNo) (core : CoreNo) (mask : Bit4)
  /-- BULK_COMPLETION (R169): A posted bulk transfer completes, setting its flag and raising the event when enabled. -/
  | bulkCompletion (frond : FrondNo) (core : CoreNo)
  /-- DOORBELL (R158): A core takes a waiting Mladir doorbell between tasks or while idle. -/
  | doorbell (frond : FrondNo) (core : CoreNo)
  /-- PORT_FRAME_START_EDGE (R229): A frame start edge arrives on a port and the port assigns it to a sample period and captures the port frame. -/
  | portFrameStartEdge (port : PortNo) (phase : U8) (words : List U32) (violation : U8) (contention : Bool) (clockOff : Bool)
  /-- RATE_MEASUREMENT_DONE (R231): After 1,024 port frames the port computes its rate and reports a change beyond the threshold. -/
  | rateMeasurementDone (port : PortNo)
  /-- RATE_LOSS (R231): No frame start edge for 8 nominal periods declares the rate lost. -/
  | rateLoss (port : PortNo)
  /-- HOLD_TIMEOUT (R233): Hold lasting H samples without a valid section starts the 64-sample ramp to zero. -/
  | holdTimeout (port : PortNo) (output : Bool)
  /-- MARK_BLOCK (R238): A marked input slot gathers a 192-frame block, checks it and judges it against its expectation. -/
  | markBlock (port : PortNo) (slot : Bit5)
  /-- PATH_PROOF_DONE (R239): A path proof ends when every named input reaches a result or 16 blocks pass. -/
  | pathProofDone
  /-- ASRC_LOCKED (R95): An ASRC locks to a measured rate and ramps its slots up. -/
  | asrcLocked (page : U16)
  /-- PORT_RESTART_DONE (R244): A restarted port makes its slots present once locked or at once for a master. -/
  | portRestartDone (port : PortNo)
  /-- EMERG_ASSERT (R146): An emergency input is asserted after 100 consecutive low samples. -/
  | emergAssert (input : U8)
  /-- EMERG_RELEASE (R149): An emergency input is released after 100 consecutive high samples and its pages return or latch. -/
  | emergRelease (input : U8)
  /-- EMERG_MISMATCH (R150): A standby's debounced emergency state differs from the active's for more than 10 ms. -/
  | emergMismatch (input : U8)
  /-- MAC_FRAME_RECEIVED (R249): A network port receives a frame and checks, filters and classifies it. -/
  | macFrameReceived (net : NetNo) (kind : Bit2) (frame : List Byte)
  /-- PATH_UPDATE (R272): Every 125 µs path liveness timers are updated and expired paths go down. -/
  | pathUpdate
  /-- PACKET_RELEASE (R268): A built transmit packet is released to queue 6 at its output instant. -/
  | packetRelease
  /-- MEDIA_LINK_UP (R248): A media link holds block lock with no fault for 10 ms and goes up. -/
  | mediaLinkUp (net : NetNo) (mbps : U16)
  /-- MEDIA_LINK_DOWN (R248): A media link loses block lock or sees a fault and goes down. -/
  | mediaLinkDown (net : NetNo)
  /-- GATE_INTERVAL_END (R255): A gate control list entry's interval expires and the next entry's gate states apply. -/
  | gateIntervalEnd (net : NetNo)
  /-- GATE_LIST_START (R255): A new gate control list starts at its computed start time. -/
  | gateListStart (net : NetNo)
  /-- VERIFY_TIMEOUT (R258): A preemption verify frame goes unanswered for the verify time. -/
  | verifyTimeout (net : NetNo)
  /-- IGMP_QUERY (R275): The engine answers an IGMP query with membership reports. -/
  | igmpQuery (net : NetNo) (version : Bit2) (group : U32) (sources : List U32)
  /-- IGMP_REPORT_REPEAT (R275): The second unsolicited report of a join or leave is sent 1 s after the first. -/
  | igmpReportRepeat (net : NetNo) (group : U32)
  /-- ARP_REQUEST (R250): The engine answers ARP for an address it holds, or detects a conflict. -/
  | arpRequest (net : NetNo) (hw : U48) (sender : U32) (target : U32)
  /-- ICMP_ECHO (R250): The engine answers an ICMP echo for an address it holds. -/
  | icmpEcho (net : NetNo) (hw : U48) (src : U32) (dst : U32) (ident : U16) (seq : U16) (payload : List Byte)
  /-- ADDRESS_DEFENCE (R280): The engine defends a conflicting address by a gratuitous ARP every 10 s. -/
  | addressDefence (net : NetNo) (addr : U32)
  /-- IDENTITY_CLAIM (R278): PARTNER_ACTIVE low and the twin link down for 1 s make the active engine claim the partner's identity. -/
  | identityClaim
  /-- NET4_STEP_DOWN (R279): NET4 renegotiates to 100 Mb/s after 10 minutes of low utilisation. -/
  | net4StepDown
  /-- NET4_STEP_UP (R279): NET4 renegotiates to 1000 Mb/s when its queues hold more than 32 KiB for 100 ms. -/
  | net4StepUp
  /-- RECONCILE_POINT (R274): At a packet's reconcile point each engine sends arrival and CRC to its partner. -/
  | reconcilePoint (stream : U16) (count : U64)
  /-- PTP_EVENT_MESSAGE (R301): A PTP message is received and time-stamped, and a completed exchange yields an offset. -/
  | ptpEventMessage (net : NetNo) (msg : PtpMsg)
  /-- PPS_IN_PULSE (R292): A PPS_IN pulse gives a second-phase measurement. -/
  | ppsInPulse
  /-- PHASE_AVERAGE_INTERVAL (R292): Each 1/16 s the phase detector averages sample-phase edges into a measurement. -/
  | phaseAverageInterval (cand : Bit4) (phase : S64) (missing : Bool)
  /-- REFERENCE_TIMEOUT (R303): An announce or Sync timeout or missing edges disqualify a candidate. -/
  | referenceTimeout (cand : Bit4) (announce : Bool)
  /-- QUALIFICATION_EXPIRY (R304): A candidate valid for its whole qualification window qualifies. -/
  | qualificationExpiry (cand : Bit4)
  /-- REF_WAIT_TO_RESTORE_EXPIRY (R304): A requalified candidate's wait-to-restore passes and it becomes selectable. -/
  | refWaitToRestoreExpiry (cand : Bit4)
  /-- HOLDOVER_SECOND (R306): Once per second in holdover rate is set from the temperature and ageing models. -/
  | holdoverSecond
  /-- MODEL_RECORD (R308): Every 60 s while locked the engine records temperature, time and rate and refits the models. -/
  | modelRecord
  /-- MODEL_STORE (R308): Every 24 h the holdover coefficients are stored in the boot flash. -/
  | modelStore
  /-- TEMPERATURE_READ (R307): Once per second the oscillator temperature is read, falling back after 3 failures. -/
  | temperatureRead (source : Bit2) (value : S16)
  /-- PLL_LOCK (R282): The PLL locks to an accepted XO_IN frequency, meeting the oscillator condition. -/
  | pllLock (hz : U32)
  /-- TIME_WRAP (R285): TIME_NS wraps to 0, TIME_WRAPS rises and the wrap interrupt is raised. -/
  | timeWrap
  /-- TRIGGER_HANDOVER (R311): Mladir hands a trigger firing time to hardware when it lies within 2.0 s. -/
  | triggerHandover (trigger : Bit4)
  /-- TRIGGER_FIRE (R311): A trigger comparator fires and its action runs. -/
  | triggerFire (trigger : Bit4)
  /-- ACTION_HANDOVER (R141): Mladir hands a timed scene action to the comparator 2.0 s ahead. -/
  | actionHandover (action : U16)
  /-- SCENE_LOAD_DONE (R139): An action finishes loading its pages and posts SCENE_ARMED after lateness judgement. -/
  | sceneLoadDone (action : U16) (bad : Bool) (ecc : Option U16)
  /-- RESEED_DONE (R128): A committed page's shadow bank copy completes and waiting writes proceed. -/
  | reseedDone (page : U16) (bad : Bool)
  /-- LINK_TRAINED (R342): The twin link comes up on at least 3 lanes each way and the handshake begins. -/
  | linkTrained (rx : Bit4) (tx : Bit4)
  /-- LANE_LOCK_LOST (R343): A twin-link lane loses lock and the direction restripes. -/
  | laneLockLost (lane : Bit2) (transmit : Bool)
  /-- LANE_REJOIN (R343): A lane locked for 1 s rejoins the active set. -/
  | laneRejoin (lane : Bit2) (transmit : Bool)
  /-- RETRANSMISSION_TIMER (R345): The retransmission timer expires and the sender resends from the oldest unacknowledged message. -/
  | retransmissionTimer
  /-- DELIVERY_FAILURE (R345): A message unacknowledged within 20 µs takes the twin link down. -/
  | deliveryFailure
  /-- ACK_INTERVAL (R345): A receiver holding unacknowledged receptions sends LINK_ACK every 2 µs. -/
  | ackInterval
  /-- HEARTBEAT_INTERVAL (R347): The engine sends a HEARTBEAT at the heartbeat interval. -/
  | heartbeatInterval
  /-- HEARTBEAT_TIMEOUT (R341): No valid message within the heartbeat timeout is handled as link loss. -/
  | heartbeatTimeout (bySignature : Bool)
  /-- TIME_INTERVAL (R347): The engine sends a TIME message 1,000 times per second. -/
  | timeInterval
  /-- LINK_ACK (R345): A received LINK_ACK acknowledges sequenced messages. -/
  | linkAck (h : LinkHdr)
  /-- LINK_NAK (R345): A received LINK_NAK makes the sender resend from the named message. -/
  | linkNak (h : LinkHdr) (expected : U16)
  /-- LANES (R342): A received LANES message sets the active lane set from an alignment count. -/
  | lanes (h : LinkHdr) (active : Bit4) (fromCount : U32)
  /-- HELLO (R324): A received HELLO carries identity and straps for the handshake checks. -/
  | hello (h : LinkHdr) (told : Hello)
  /-- VERDICT (R324): A received VERDICT gives the step reached and pass or reason. -/
  | verdict (h : LinkHdr) (reached : Bit3) (pass : Bool) (why : Bit3)
  /-- CONFIG (R324): A received CONFIG chunk carries committed configuration to adopt. -/
  | config (h : LinkHdr) (part : Bit3) (edits : List Edit) (changes : List Change)
  /-- CONFIG_HASH (R325): A received CONFIG_HASH is compared with the own configuration hash. -/
  | configHash (h : LinkHdr) (hash : List Byte)
  /-- TIME (R347): A received TIME message yields a partner offset for the servo. -/
  | time (h : LinkHdr) (sent : Int) (latest : Option Stamps) (number : U48) (boundary : Int)
  /-- HEARTBEAT (R341): A received HEARTBEAT renews liveness and repeats the interlock check. -/
  | heartbeat (h : LinkHdr) (pairState : Bit3) (active : Bool) (drives : Bool) (reads : Bool) (severity : Bit3)
  /-- RECON (R327): A received RECON carries per-port CRCs, EMERG state and ASRC figures for reconciliation. -/
  | recon (h : LinkHdr) (number : U48) (crcs : List PortCrc) (emerg : Bit4) (figures : List AsrcFig)
  /-- PKT_RECON (R328): A received PKT_RECON carries packet and player-block arrivals and CRCs. -/
  | pktRecon (h : LinkHdr) (items : List Arrival)
  /-- FETCH (R274): A received FETCH requests a section, packet or player block. -/
  | fetch (h : LinkHdr) (item : FetchItem)
  /-- DATA (R327): A received DATA replaces a section, packet payload or player block. -/
  | data (h : LinkHdr) (item : FetchItem) (words : List U32)
  /-- COMMAND (R329): The standby writes forwarded derived words into its shadow banks and acknowledges. -/
  | command (h : LinkHdr) (txn : U32) (slot : U8) (seq : U32) (edits : List Edit) (changes : List Change)
  /-- COMMIT (R329): The standby takes the apply frame of a forwarded command. -/
  | commit (h : LinkHdr) (txn : U32) (number : U48)
  /-- COMMAND_ACK (R329): The active engine takes the standby's acknowledgement and assigns the apply frame. -/
  | commandAck (h : LinkHdr) (txn : U32) (ok : Bool) (ofCommit : Bool)
  /-- SIGNATURE (R332): A received SIGNATURE is compared and any mismatch resolved by attribution. -/
  | signature (h : LinkHdr) (number : U48) (sap : U64) (net : U64) (record : U64) (invalid : Bool) (detection : Bit3)
  /-- SWITCH (R333): A received SWITCH announces a planned or fault switch-over at a frame. -/
  | switch (h : LinkHdr) (fault : Bool) (number : U48)
  /-- IDENTITY (R278): A received IDENTITY releases or claims an identity. -/
  | identity (h : LinkHdr) (claim : Bool) (blue : Bool)
  /-- STATE (R337): The joiner writes copied state words into a region. -/
  | state (h : LinkHdr) (item : Machine.CopyItem)
  /-- STATE_CTRL (R337): A received STATE_CTRL starts or ends a round or names the final frame. -/
  | stateCtrl (h : LinkHdr) (kind : Bit2) (value : U48)
  /-- HANDSHAKE_TIME_TIMEOUT (R324): Step 6 fails to lock within 10 s and the handshake refuses with TIME. -/
  | handshakeTimeTimeout
  /-- REFUSED_RETRY (R326): Every 10 s after a TIME refusal the handshake runs again. -/
  | refusedRetry
  /-- SYNC_RETRY (R339): 60 s after three failed copies the pair tries the state copy again. -/
  | syncRetry
  /-- WAIT_TO_RESTORE_EXPIRY (R340): The pair wait-to-restore completes, identities move and control may return. -/
  | waitToRestoreExpiry
  /-- ALTERNATE_START (R321): The alternate raises ACTIVE after PARTNER_ACTIVE has been low for 2 s. -/
  | alternateStart
  /-- UNSTEPPED_TAKEOVER (R336): A standby not recently in step raises ACTIVE after 4 ms of PARTNER_ACTIVE low. -/
  | unsteppedTakeover
  /-- FAULT_RECORD (R356): The collector takes a fault record, logs it, updates the active table and applies its action set. -/
  | faultRecord (source : U16) (kind : U8) (sev : Bit3) (count : U8) (index : U48) (ended : Bool) (detail : U16)
  /-- SAFE_STATE_DELAY (R359): PARTNER_ACTIVE not high within 2 ms of a requested switch-over applies the safe state. -/
  | safeStateDelay
  /-- RESET_FUNCTION_DONE (R358): A function reset completes and its entry counts as cleared. -/
  | resetFunctionDone (source : U16) (actions : List U16) (lists : List U8)
  /-- MLADIR_STALL (R362): 50 ms with no Mladir heartbeat raises MLADIR_STALL. -/
  | mladirStall
  /-- WATCHDOG (R362): A handshake outside the fronds not completing within 10 ms raises WATCHDOG. -/
  | watchdog (source : U16)
  /-- SCRUB_WORD (R364): The scrubber reads a protected word and corrects, re-seeds or poisons it. -/
  | scrubWord (mem : U16) (offset : U32) (correctable : Bool) (place : Bit2) (page : U16)
  /-- NIGHTLY_WINDOW_START (R371): The nightly silent window starts and runs its items in order. -/
  | nightlyWindowStart (fails : List U64) (badMove : Bool)
  /-- NIGHTLY_WINDOW_END (R374): The window's end arrives and remaining items are deferred. -/
  | nightlyWindowEnd
  /-- BANK_MIGRATION_DONE (R369): A bank migration and its march complete and the vacated bank becomes the spare. -/
  | bankMigrationDone (rows : List U16) (stays : Bool) (badWrites : U8)
  /-- FROND_TEST_DONE (R370): The test of a vacated frond completes and it becomes the spare or leaves service. -/
  | frondTestDone (pass : Bool) (rows : List FailRow) (badWrites : U8)
  /-- DETECTOR_BLOCK (R376): A pilot-tone detector completes a block and the zone state is judged. -/
  | detectorBlock (detector : U8)
  /-- AGEING_HOUR (R378): Each hour the engine normalises the median VCORE to V90. -/
  | ageingHour
  /-- AGEING_DAY (R379): Each day the mean V90 is stored and margin and forecast are updated. -/
  | ageingDay
  /-- NVME_COMPLETION (R386): An NVMe completion entry is taken and its tag freed to waiting requesters. -/
  | nvmeCompletion (e : Completion)
  /-- COMMAND_TIMEOUT (R388): An NVMe command exceeds its timeout and Peat sends Abort. -/
  | commandTimeout (tag : U16)
  /-- ABORT_EXPIRY (R388): A command still pending 1 s after Abort makes Peat reset the controller. -/
  | abortExpiry (tag : U16)
  /-- CONTROLLER_RESET_DONE (R384): A controller reset completes and in-flight commands are reissued. -/
  | controllerResetDone (ctrl : U8) (ok : Bool)
  /-- COMPLETION_POLL (R384): Every completion queue is polled each 1 ms. -/
  | completionPoll (found : List Completion) (fatal : List U8)
  /-- SMART_POLL (R384): Error and SMART log pages are read every 60 s. -/
  | smartPoll (ctrl : U8) (warning : Bool)
  /-- PEAT_LINK (R414): A link down or surprise removal is seen at the root port. -/
  | peatLink (ctrl : U8)
  /-- NAMESPACE_LOST (R392): A link down for more than 1 s or a lost label declares the namespace lost. -/
  | namespaceLost (ctrl : U8) (changed : Bool)
  /-- NAMESPACE_IDENTIFIED (R385): A namespace is identified and Peat checks and uses it. -/
  | namespaceIdentified (ctrl : U8) (told : Identify) (labelA : List Byte) (labelB : List Byte) (extents : List Machine.FoundExtent) (objects : List FoundObject)
  /-- CURSOR_IDLE_EXPIRY (R412): A read cursor not named for its idle time expires. -/
  | cursorIdleExpiry (cursor : U8)
  /-- FEED_LOST (R513): A feed out of bounds for 2 µs is lost and its current moves to the other group. -/
  | feedLost (feed : Bool)
  /-- FEED_RETURNED (R513): A feed in range for 100 ms returns and sharing ramps back. -/
  | feedReturned (feed : Bool)
  /-- STAGE_SAMPLE (R512): Every 1 µs stage currents and temperatures are read and unhealthy stages stopped. -/
  | stageSample (stages : List StageReading)
  /-- RAIL_CHECK (R516): Every 10 µs every rail is checked against its window. -/
  | railCheck (uv : List U32)
  /-- TJ_SAMPLE (R520): Every 1 ms the highest die temperature is read against its thresholds. -/
  | tjSample (tj : S16)
  /-- LAST_GASP (R519): Loss of both feeds for 100 µs, VCORE collapse or 125 °C runs the last-gasp sequence to reset. -/
  | lastGasp (cause : Bit2)
  /-- COARSE_TIME_UPDATE (R515): Once per second Mladir sets the always-on coarse time. -/
  | coarseTimeUpdate
  /-- VAUX_POWER_ON_RESET (R515): VAUX below 2.80 V resets the always-on domain. -/
  | vauxPowerOnReset
  /-- RESET_N_ASSERT (R522): RESET_N low for 1 µs resets the engine. -/
  | resetNAssert
  /-- RESET_N_RELEASE (R530): RESET_N release samples the straps and starts Fiddlehead. -/
  | resetNRelease (en : Bit3) (pref : Bit3) (badBanks : List U8) (badFronds : List FrondNo)
  /-- FUNCTION_READY (R19): A function whose needs are met reports ready and posts READY. -/
  | functionReady (code : U8)
  /-- SERVO_HANDOFF (R518): After the fronds are ready and 100 frames of slack, the VCORE servo takes over. -/
  | servoHandoff
  /-- FW_CONFIRM (R527): 600 s without restart confirms the trial slot and advances the anti-rollback counter. -/
  | fwConfirm
  /-- BOOT_GO (R529): The boot ROM takes a host-delivered chunk when the go count rises. -/
  | bootGo (go : U32) (total : U32) (offset : U32) (length : U32) (crc : U32) (bytes : List Byte)
  /-- MBX_REQUEST (R455): The engine takes a request message and handles its sequence number and command. -/
  | mbxRequest (slot : SlotNo) (bytes : List Byte) (host : List (Nat × Byte))
  /-- RING_POLL (R451): Every 100 µs the engine polls every claimed request ring. -/
  | ringPoll (host : List (Nat × Byte))
  /-- PROGRESS_INTERVAL (R456): Every 50 ms a running long command posts PROGRESS. -/
  | progressInterval (slot : SlotNo) (seq : U32)
  /-- CLIENT_LIVENESS_EXPIRY (R448): An unchanged client heartbeat or unconsumed ring for the liveness time releases the slot. -/
  | clientLivenessExpiry (slot : SlotNo)
  /-- HELD_RESULT_EXPIRY (R458): A held result unread for 10 s is discarded. -/
  | heldResultExpiry (slot : SlotNo) (seq : U32)
  /-- OBJECT_ABANDON (R460): A chunked object idle for 30 s is abandoned. -/
  | objectAbandon (handle : U32)
  /-- SPI_TRANSACTION (R446): A whole SPI transaction is checked and its words written or read. -/
  | spiTransaction (bytes : List Byte) (words : U16)
  /-- SERIL_DATAGRAM (R464): A Seril UDP datagram is authenticated and its message handled. -/
  | serilDatagram (ip : U32) (port : U16) (bytes : List Byte) (nonce : List Byte)
  /-- SESSION_EXPIRY (R464): A session with no datagram for the liveness time closes. -/
  | sessionExpiry (id : U32)
  /-- PCIE_RESET (R469): A PCIe link-down, hot or function-level reset releases every PCIe slot. -/
  | pcieReset
  /-- DMA_DESCRIPTOR_END (R440): A DMA descriptor ends, is written back and the channel chains or stops. -/
  | dmaDescriptorEnd (ch : U8) (host : List (Nat × Byte)) (ecc : Option Nat) (done : Nat)
  /-- ARB_TURN (R428): A bank group grants one access turn by slot table and background rank. -/
  | arbTurn (g : U8) (arrivals : List BurstReq)
  /-- ARB_STARVE (R431): A burst waiting past the starvation threshold raises the starvation flag. -/
  | arbStarve (g : U8) (req : U8)
  /-- SET_ALIAS_WRITE (R420): A write through the set alias ORs bits into a control SRAM word atomically. -/
  | setAliasWrite (offset : U32) (value : U32) (enables : Nat)
  /-- CLEAR_ALIAS_WRITE (R420): A write through the clear alias clears bits of a control SRAM word atomically. -/
  | clearAliasWrite (offset : U32) (value : U32) (enables : Nat)
  /-- SYS_REMAP_WRITE (R418): The boot ROM writes SYS_REMAP to 1 and control SRAM replaces the boot region. -/
  | sysRemapWrite (master : U8) (value : U32)
  /-- MBX_CLAIM_WRITE (R447): A write to MBX_CLAIM claims the lowest free slot for the path. -/
  | mbxClaimWrite (path : HostPath) (tag : U32)
  /-- MBX_RELEASE_WRITE (R501): A write to MBX_RELEASE releases a slot the path holds. -/
  | mbxReleaseWrite (path : HostPath) (value : U32)
  /-- MBX_DOORBELL_WRITE (R451): A write to MBX_DOORBELL makes the engine take requests of the slots rung. -/
  | mbxDoorbellWrite (path : HostPath) (value : U32) (host : List (Nat × Byte))
  /-- INT_STATUS_CLEAR (R498): A W1C write clears interrupt status bits of the path's copy. -/
  | intStatusClear (path : HostPath) (value : U32) (fired : U32)
  /-- INT_SET_WRITE (R502): A W1S write sets interrupt status bits of the path's copy. -/
  | intSetWrite (path : HostPath) (value : U32)
  /-- SEM_ACQUIRE (R434): An acquire write takes a FREE semaphore for its owner. -/
  | semAcquire (master : U8) (n : U8) (tag : U8)
  /-- SEM_RELEASE (R434): A release write from the owner frees a semaphore. -/
  | semRelease (master : U8) (n : U8) (tag : U8)
  /-- DMA_GO (R436): GO starts an idle DMA channel at its descriptor address. -/
  | dmaGo (path : PathNo) (ch : U8)
  /-- DMA_ABORT (R441): ABORT stops a running DMA channel at its current burst. -/
  | dmaAbort (path : PathNo) (ch : U8)
  /-- ARB_FREEZE_WRITE (R432): A write to ARB_FREEZE freezes or resumes bank groups in the maintenance state. -/
  | arbFreezeWrite (path : HostPath) (value : U32)
  /-- TRIG_FIRED_CLEAR (R505): A W1C write clears trigger fired flags. -/
  | trigFiredClear (path : HostPath) (value : U32)
  /-- PWR_FLAGS_CLEAR (R509): A W1C write clears power event flags. -/
  | pwrFlagsClear (path : HostPath) (value : U32)
  /-- ARB_HOG_CLEAR (R510): A W1C write clears HOG flags. -/
  | arbHogClear (hi : Bool) (value : U32)
  /-- ARB_STARVE_CLEAR (R510): A W1C write clears starvation flags of a bank group. -/
  | arbStarveClear (g : U8) (hi : Bool) (value : U32)
  /-- LATCHED_READ (R497): A read of the low word of a latched group copies the other words into the master's latch. -/
  | latchedRead (path : PathNo) (offset : U32)
  /-- REGISTER_WRITE (R495): A write to a register with no behaviour of its own updates RW fields or is ignored and counted. -/
  | registerWrite (path : HostPath) (offset : U32) (value : U32) (enables : Bit4) (host : List (Nat × Byte))
  /-- SYS_IDENTIFY (R2): Returns silicon revision, firmware and Seril versions and identity. -/
  | sysIdentify (r : Req)
  /-- SYS_STATUS (R478): Returns readiness, pair state, rate, B, spares and flags. -/
  | sysStatus (r : Req)
  /-- SYS_RATE (R6): Changes the sample rate when the configuration can be satisfied. -/
  | sysRate (r : Req) (code : U8)
  /-- SYS_FRAME_SIZE (R23): Changes B after re-admission with a ramped interruption. -/
  | sysFrameSize (r : Req) (size : U8)
  /-- SYS_MEMORY_SPLIT (R424): Reads or sets the bulk area split for the next reset. -/
  | sysMemorySplit (r : Req) (op : U8) (sizes : List U32)
  /-- SYS_MAINTENANCE (R466): Enters or leaves the maintenance state. -/
  | sysMaintenance (r : Req) (op : U8)
  /-- SYS_CLIENT (R448): Reads or sets the liveness time and reports slots. -/
  | sysClient (r : Req) (op : U8) (secs : U32)
  /-- SYS_RESULT_READ (R458): Reads part of a held result. -/
  | sysResultRead (r : Req) (of_ : U32) (offset : U32)
  /-- SYS_EVENTS_READ (R462): Returns the event ring's present content. -/
  | sysEventsRead (r : Req)
  /-- SYS_EVENTS (R465): Reads or sets the event codes delivered to the slot or session. -/
  | sysEvents (r : Req) (op : U8) (mask : U256)
  /-- SYS_SESSION_OPEN (R464): Opens an authenticated UDP session and claims a slot. -/
  | sysSessionOpen (seq : U32) (key : Bit4) (ip : U32) (port : U16) (nonce : List Byte) (own : List Byte)
  /-- SYS_SESSION_CLOSE (R464): Closes a UDP session. -/
  | sysSessionClose (r : Req)
  /-- SYS_LAST_APPLIED (R468): Reports whether a former slot's command committed. -/
  | sysLastApplied (r : Req) (origin : U64) (former : U8) (of_ : U32)
  /-- SYS_OBJECT_CHUNK (R459): Delivers a chunk of an open object. -/
  | sysObjectChunk (r : Req) (handle : U32) (offset : U32) (bytes : List Byte)
  /-- SYS_OBJECT_COMMIT (R459): Checks and applies a whole chunked object. -/
  | sysObjectCommit (r : Req) (handle : U32) (length : U32) (crc : U32)
  /-- SYS_OBJECT_ABORT (R476): Discards an open object. -/
  | sysObjectAbort (r : Req) (handle : U32)
  /-- ROUTE_CONNECT (R52): Connects a source to a sink. -/
  | routeConnect (r : Req) (list : U8) (src : U32) (sink : U32) (len : U16) (flags : U8)
  /-- ROUTE_DISCONNECT (R52): Removes a sink's source with a crossfade to zero. -/
  | routeDisconnect (r : Req) (list : U8) (sink : U32)
  /-- ROUTE_BATCH (R54): Applies up to 4,096 connects and disconnects as one unit. -/
  | routeBatch (r : Req) (list : U8) (entries : List RouteOp)
  /-- ROUTE_QUERY (R65): Returns a sink's committed and pending source and state. -/
  | routeQuery (r : Req) (sink : U32)
  /-- ROUTE_FANOUT (R65): Lists the sinks and selections fed by a source. -/
  | routeFanout (r : Req) (src : U32) (next : U32)
  /-- ROUTE_COUNT (R51): Returns connection counts. -/
  | routeCount (r : Req)
  /-- ROUTE_LATENCY (R60): Reports the latencies of paths between two endpoints. -/
  | routeLatency (r : Req) (start : U32) (stop : U32)
  /-- ROUTE_XFADE_DEFAULT (R55): Reads or sets the default crossfade length. -/
  | routeXfadeDefault (r : Req) (op : U8) (len : U16)
  /-- BLOCK_CREATE (R69): Creates a standalone block instance after admission. -/
  | blockCreate (r : Req) (list : U8) (type : U8) (stage : U8) (structural : U8) (pairs : List Pair)
  /-- BLOCK_DELETE (R480): Deletes a block instance. -/
  | blockDelete (r : Req) (list : U8) (page : U16) (flags : U8)
  /-- BLOCK_RESHAPE (R69): Changes structural parameters after admission. -/
  | blockReshape (r : Req) (list : U8) (page : U16) (pairs : List Pair)
  /-- BLOCK_PARAM (R68): Writes block parameters in engineering units to the shadow bank. -/
  | blockParam (r : Req) (list : U8) (page : U16) (pairs : List Pair)
  /-- BLOCK_PARAM_READ (R480): Reads a block's parameters from a bank. -/
  | blockParamRead (r : Req) (page : U16) (bank : U8)
  /-- BLOCK_TAPS (R87): Opens a FIR tap-set object applied at commit. -/
  | blockTaps (r : Req) (list : U8) (total : U32) (page : U16)
  /-- BLOCK_METER_READ (R98): Returns latched meter readings. -/
  | blockMeterRead (r : Req) (meters : List U16)
  /-- STRIP_METER_READ (R98): Returns strips' built-in meter readings. -/
  | stripMeterRead (r : Req) (kind : U8) (first : U16) (count : U16)
  /-- MIX_SELECT (R106): Sets or clears a mix input's selection. -/
  | mixSelect (r : Req) (list : U8) (input : U16) (src : U32) (len : U16) (threshold : Int) (hold : U32)
  /-- MIX_GAIN (R107): Sets one crosspoint. -/
  | mixGain (r : Req) (list : U8) (entry : GainOp)
  /-- MIX_GAIN_BATCH (R125): Applies up to 4,096 crosspoint writes as one unit. -/
  | mixGainBatch (r : Req) (list : U8) (entries : List GainOp)
  /-- MIX_BUS (R111): Sets a bus's trim, limiter, step size and timeout. -/
  | mixBus (r : Req) (list : U8) (lane : U16) (b : BusSet)
  /-- MIX_PRECEDENCE (R118): Sets a precedence level's depth, times and triggers. -/
  | mixPrecedence (r : Req) (list : U8) (lane : U16) (level : U8) (depth : Int) (attack : U32) (release : U32) (triggers : List U32)
  /-- MIX_FLAG (R119): Sets or clears control flags. -/
  | mixFlag (r : Req) (list : U8) (set : U256) (clear : U256)
  /-- MIX_QUERY (R482): Returns a crosspoint's or mix input's state. -/
  | mixQuery (r : Req) (kind : U8) (lane : U16) (input : U16)
  /-- MIX_BUS_STATUS (R113): Returns and clears a bus's saturation flag and reductions. -/
  | mixBusStatus (r : Req) (lane : U16)
  /-- SCENE_STORE (R135): Opens a scene body object stored under a new version. -/
  | sceneStore (r : Req) (total : U32) (number : U16) (flags : U8) (name : List Byte)
  /-- SCENE_CAPTURE (R137): Stores the active content of a page set as a scene. -/
  | sceneCapture (r : Req) (number : U16) (flags : U8) (name : List Byte) (selector : U8) (first : U32) (last : U16)
  /-- SCENE_DELETE (R151): Deletes a scene. -/
  | sceneDelete (r : Req) (number : U16)
  /-- SCENE_DIRECTORY (R151): Lists scenes. -/
  | sceneDirectory (r : Req) (first : U16)
  /-- SCENE_RECALL (R138): Creates an action committing a scene at the next frame. -/
  | sceneRecall (r : Req) (number : U16) (flags : U8)
  /-- SCENE_ARM (R138): Creates an action committing a scene at a network time. -/
  | sceneArm (r : Req) (number : U16) (flags : U8) (at_ : NetTime)
  /-- SCENE_DISARM (R138): Cancels an action not yet handed over. -/
  | sceneDisarm (r : Req) (action : U16)
  /-- SCENE_STATUS (R151): Reports actions, held pages and emergency state. -/
  | sceneStatus (r : Req)
  /-- SCENE_LATE_WINDOW (R142): Reads or sets the late window. -/
  | sceneLateWindow (r : Req) (op : U8) (window : U32)
  /-- SCENE_AREA (R134): Reads or sets the resident area and marks scenes resident. -/
  | sceneArea (r : Req) (op : U8) (size : U32) (number : U16)
  /-- SCENE_EMERG_ASSIGN (R145): Assigns a scene to an emergency input and prepares its images. -/
  | sceneEmergAssign (r : Req) (input : U8) (number : U16) (release : U8)
  /-- SCENE_EMERG_CLEAR (R149): Clears a latched emergency input. -/
  | sceneEmergClear (r : Req) (input : U8)
  /-- SCENE_LIST_OPEN (R132): Opens a commit list. -/
  | sceneListOpen (r : Req)
  /-- SCENE_LIST_COMMIT (R132): Commits a list as an action. -/
  | sceneListCommit (r : Req) (list : U8) (flags : U8) (at_ : NetTime)
  /-- SCENE_LIST_DISCARD (R132): Discards a list and releases its pages. -/
  | sceneListDiscard (r : Req) (list : U8)
  /-- PORT_CONFIG (R244): Changes a port's format and clocking with a restart. -/
  | portConfig (r : Req) (port : U8) (fields : PortFields)
  /-- PORT_ENABLE (R246): Enables or disables port directions at a boundary. -/
  | portEnable (r : Req) (port : U8) (dirs : U8)
  /-- PORT_MASK (R62): Writes a slot mask and slot count into the port page. -/
  | portMask (r : Req) (list : U8) (port : U8) (dir : U8) (mask : U32) (count : U8)
  /-- PORT_STATUS (R246): Returns port state and counters. -/
  | portStatus (r : Req) (first : U8) (count : U8)
  /-- PORT_RATE (R231): Returns rates and sets the change threshold. -/
  | portRate (r : Req) (op : U8) (port : U8) (threshold : U32)
  /-- PORT_TIMESTAMPS (R232): Returns block stamps and sets the block length. -/
  | portTimestamps (r : Req) (op : U8) (port : U8) (length : U16)
  /-- PORT_MCLK (R228): Sets an MCLK output's source and multiplier. -/
  | portMclk (r : Req) (output : U8) (gen : U8) (mult : U16)
  /-- PORT_MARK (R237): Sets marking modes, sender ID and path tags. -/
  | portMark (r : Req) (port : U8) (dir : U8) (mask : U32) (mode : U8) (sender : U32) (tags : List U16)
  /-- PORT_EXPECT (R239): Sets or clears an input slot's expectation. -/
  | portExpect (r : Req) (port : U8) (slot : U8) (fields : ExpectFields)
  /-- PORT_PROOF (R239): Marks outputs and starts a path proof. -/
  | portProof (r : Req) (outs : List PortSlot) (ins : List PortSlot)
  /-- PORT_CLKGEN (R227): Reads or writes a port clock generator's fields. -/
  | portClkgen (r : Req) (op : U8) (gen : U8) (fields : GenFields)
  /-- PORT_MARK_RAW (R240): Writes raw channel-status block bytes. -/
  | portMarkRaw (r : Req) (list : U8) (port : U8) (slot : U8) (bytes : List Byte)
  /-- NET_CONFIG (R250): Sets a network port's speed, addresses and VLAN. -/
  | netConfig (r : Req) (port : U8) (fields : NetFields)
  /-- NET_STATUS (R281): Returns link state, loads and counters. -/
  | netStatus (r : Req) (port : U8)
  /-- STREAM_TX (R263): Creates or changes a transmit stream. -/
  | streamTx (r : Req) (list : U8) (stream : U16) (fields : StreamFields) (offset : U32) (ssrc : U32) (paths : List StreamPath)
  /-- STREAM_RX (R269): Creates or changes a receive stream. -/
  | streamRx (r : Req) (list : U8) (stream : U16) (fields : StreamFields) (linkUs : U32) (lossMs : U32) (flags : U8) (paths : List StreamPath) (text : List Byte)
  /-- STREAM_DELETE (R281): Deletes a stream. -/
  | streamDelete (r : Req) (list : U8) (stream : U16) (dir : U8)
  /-- STREAM_STATUS (R266): Returns a stream's paths, counters and level. -/
  | streamStatus (r : Req) (stream : U16) (dir : U8)
  /-- STREAM_SDP (R276): Returns a transmit stream's SDP. -/
  | streamSdp (r : Req) (stream : U16)
  /-- NET_CLASSES (R252): Sets PCP, DSCP and the control-class queue. -/
  | netClasses (r : Req) (op : U8) (classes : List ClassFields) (queue : U8)
  /-- NET_GATES (R255): Reads, writes or removes a gate control list. -/
  | netGates (r : Req) (port : U8) (op : U8) (base : NetTime) (cycle : U32) (entries : List GateFields)
  /-- NET_PREEMPT (R258): Sets preemption parameters. -/
  | netPreempt (r : Req) (op : U8) (port : U8) (enable : U8) (verify : U8) (verifyMs : U8) (frag : U8)
  /-- NET_STREAM_TABLE (R260): Reads or writes raw stream table entries. -/
  | netStreamTable (r : Req) (op : U8) (first : U16) (count : U16) (entries : List EntryFields)
  /-- NET_HASH_READ (R259): Reads a port's hash bins. -/
  | netHashRead (r : Req) (port : U8)
  /-- TIME_STATUS (R317): Returns servo state, reference and offsets. -/
  | timeStatus (r : Req)
  /-- TIME_NOW (R317): Returns the present time and latest frame. -/
  | timeNow (r : Req)
  /-- TIME_SET (R295): Steps the time to a full network time. -/
  | timeSet (r : Req) (at_ : NetTime)
  /-- TIME_REFERENCES (R303): Sets candidate priorities and windows. -/
  | timeReferences (r : Req) (op : U8) (cands : List RefFields) (port : U8)
  /-- TIME_PTP (R299): Sets PTP instances and profile. -/
  | timePtp (r : Req) (op : U8) (fields : PtpFields)
  /-- TIME_TRIGGER (R310): Arms, rewrites or cancels a trigger. -/
  | timeTrigger (r : Req) (trigger : U8) (op : U8) (fields : TriggerFields)
  /-- TIME_HOLDOVER (R308): Returns, writes or clears holdover models. -/
  | timeHoldover (r : Req) (op : U8) (coeffs : List S64)
  /-- CLOCK_REALIGN (R290): Realigns the grid by extending one frame. -/
  | clockRealign (r : Req) (op : U8)
  /-- CLOCK_OUTPUTS (R291): Sets word clock and PPS outputs. -/
  | clockOutputs (r : Req) (op : U8) (w0 : U8) (w1 : U8) (pps : U8) (width : U32)
  /-- TIME_SERVO (R294): Reads or writes servo parameters. -/
  | timeServo (r : Req) (op : U8) (fields : ServoFields)
  /-- TIME_DIRECT (R296): Writes rate and OFFSET or releases MANUAL. -/
  | timeDirect (r : Req) (op : U8) (rate : S64) (offset : U64)
  /-- CLOCK_PHASE_STEP (R297): Slews, steps or resets the phase bias. -/
  | clockPhaseStep (r : Req) (mode : U8) (amount : S32)
  /-- PAIR_CONFIG (R340): Sets pairing enable, wait-to-restore, return mode and ADOPT. -/
  | pairConfig (r : Req) (op : U8) (enable : U8) (mode : U8) (adopting : U8) (restore : U32)
  /-- PAIR_STATUS (R488): Returns pair state, hashes and progress. -/
  | pairStatus (r : Req) (flags : U8)
  /-- PAIR_SWITCH (R333): Starts a planned or forced switch-over. -/
  | pairSwitch (r : Req) (flags : U8)
  /-- PAIR_RETRY (R326): Repeats the handshake after a refusal. -/
  | pairRetry (r : Req)
  /-- PAIR_LINK (R347): Reads or writes twin-link settings. -/
  | pairLink (r : Req) (op : U8) (timeout : U32) (interval : U32) (retx : U16) (asym : S16)
  /-- PAIR_RESYNC (R339): Forces the state copy. -/
  | pairResync (r : Req)
  /-- PAIR_SIGNATURES (R349): Returns the last 64 signature pairs. -/
  | pairSignatures (r : Req)
  /-- FAULT_LOG_READ (R355): Reads service or persistent log entries. -/
  | faultLogRead (r : Req) (log : U8) (start : U32) (limit : U16)
  /-- FAULT_ACTIVE (R381): Lists uncleared entries. -/
  | faultActive (r : Req)
  /-- FAULT_CLEAR (R354): Clears event entries. -/
  | faultClear (r : Req) (entries : List FaultName)
  /-- FAULT_REACTION (R356): Reads or writes reaction table entries. -/
  | faultReaction (r : Req) (op : U8) (entries : List Reaction)
  /-- FAULT_PIN_LEVEL (R360): Reads or sets FLT_PIN_LEVEL. -/
  | faultPinLevel (r : Req) (op : U8) (level : U8)
  /-- FAULT_RETRY_LIMIT (R38): Reads or sets the transient limit. -/
  | faultRetryLimit (r : Req) (op : U8) (limit : U8)
  /-- SUPV_ZONE (R375): Sets a zone's judgement parameters. -/
  | supvZone (r : Req) (detector : U8) (high : U16) (low : U16) (hyst : U16) (declared : U8)
  /-- SUPV_CALIBRATE (R376): Stores a zone's calibration over 16 blocks. -/
  | supvCalibrate (r : Req) (detector : U8)
  /-- SUPV_STATUS (R381): Returns zone states and ratios. -/
  | supvStatus (r : Req) (first : U8) (count : U8)
  /-- SUPV_NIGHTLY (R371): Sets the nightly window and returns its results. -/
  | supvNightly (r : Req) (op : U8) (enable : U8) (start : NetTime) (period : U32) (length : U32) (segments : U16)
  /-- TEST_NIGHTLY_NOW (R371): Runs the window's items at once. -/
  | testNightlyNow (r : Req)
  /-- TEST_MARCH (R368): Runs a march test on a memory. -/
  | testMarch (r : Req) (mem : U16)
  /-- TEST_REPAIRS (R367): Returns the OTP repair map. -/
  | testRepairs (r : Req)
  /-- TEST_INJECT (R380): Injects a fault into an element. -/
  | testInject (r : Req) (fault : U8) (element : U16) (place : U32)
  /-- PEAT_STATUS (R415): Returns controllers, groups, tags and staging. -/
  | peatStatus (r : Req)
  /-- PEAT_FORMAT (R389): Labels a namespace into a group and copy. -/
  | peatFormat (r : Req) (ctrl : U8) (group : U8) (copy : U8) (code : U8) (base : U32) (flags : U8)
  /-- PEAT_TRACK (R393): Assigns, arms or disarms tracks. -/
  | peatTrack (r : Req) (first : U16) (count : U16) (group : U8) (arming : U8)
  /-- PEAT_RETENTION (R401): Reads or sets the minimum retention. -/
  | peatRetention (r : Req) (op : U8) (days : U16)
  /-- PEAT_HOLD (R403): Sets, lists or clears holds. -/
  | peatHold (r : Req) (op : U8) (group : U8) (first : U32) (last : U32) (start : NetTime) (stop : NetTime)
  /-- PEAT_CHAIN_HEAD (R400): Returns each copy's latest chain sequence and hash. -/
  | peatChainHead (r : Req) (group : U8)
  /-- PEAT_CURSOR_OPEN (R410): Opens a read cursor. -/
  | peatCursorOpen (r : Req) (group : U8) (copy : U8) (kind : U8) (at_ : NetTime) (num : U64) (flags : U8) (tracks : U2048)
  /-- PEAT_READ (R411): Returns one page of segments and advances the cursor by token. -/
  | peatRead (r : Req) (cursor : U8) (token : U64) (faults : List ReadFault)
  /-- PEAT_CURSOR_CLOSE (R415): Closes a read cursor. -/
  | peatCursorClose (r : Req) (cursor : U8)
  /-- PEAT_CLIP_STORE (R405): Opens a clip object stored as a new version. -/
  | peatClipStore (r : Req) (total : U32) (clip : U16) (rate : U8)
  /-- PEAT_CLIP_DELETE (R415): Deletes a clip. -/
  | peatClipDelete (r : Req) (clip : U16)
  /-- PEAT_CLIP_LIST (R415): Lists clips. -/
  | peatClipList (r : Req) (first : U16)
  /-- PEAT_PIN (R409): Pins or unpins a clip. -/
  | peatPin (r : Req) (clip : U16) (op : U8)
  /-- PEAT_PLAY (R406): Starts a voice at the next frame or a network time. -/
  | peatPlay (r : Req) (voice : U8) (clip : U16) (flags : U8) (at_ : NetTime) (gain : S32)
  /-- PEAT_QUEUE (R406): Appends a clip to a voice's queue. -/
  | peatQueue (r : Req) (voice : U8) (clip : U16) (len : U16)
  /-- PEAT_STOP (R406): Stops a voice with a 64-sample ramp. -/
  | peatStop (r : Req) (voice : U8)
  /-- PEAT_QUEUES (R388): Reads or sets queue counts, depths and timeout. -/
  | peatQueues (r : Req) (op : U8) (queues : U8) (depth : U16) (timeout : U32)
  /-- PEAT_PASSTHROUGH (R413): Sends a raw NVMe command in the maintenance state. -/
  | peatPassthrough (r : Req) (ctrl : U8) (queue : U8) (entry : List Byte) (payload : List Byte)
  /-- EXPERT_MOVER_READ (R66): Reads mover table entries. -/
  | expertMoverRead (r : Req) (by_ : U8) (first : U32) (count : U32)
  /-- EXPERT_MOVER_WRITE (R66): Writes mover table entries as one unit. -/
  | expertMoverWrite (r : Req) (list : U8) (entries : List MoverOp)
  /-- EXPERT_MIX_READ (R125): Reads active crosspoint words. -/
  | expertMixRead (r : Req) (lane : U16) (first : U16) (count : U16)
  /-- EXPERT_MIX_WRITE (R108): Writes raw crosspoint words of one lane. -/
  | expertMixWrite (r : Req) (list : U8) (lane : U16) (first : U16) (words : List U48)
  /-- EXPERT_COEF_WRITE (R104): Writes raw coefficient words. -/
  | expertCoefWrite (r : Req) (list : U8) (page : U16) (first : U32) (words : List U32)
  /-- EXPERT_COEF_READ (R104): Reads active coefficient words. -/
  | expertCoefRead (r : Req) (page : U16) (first : U32) (count : U16)
  /-- EXPERT_PAGE_READ (R151): Reads a page bank or emergency image. -/
  | expertPageRead (r : Req) (page : U16) (bank : U8) (input : U8)
  /-- EXPERT_PAGE_WRITE (R151): Writes a whole raw page into a shadow bank. -/
  | expertPageWrite (r : Req) (list : U8) (page : U16) (bytes : List Byte)
  /-- EXPERT_IMAGE_LOAD (R181): Opens a frond program image object checked and placed at commit. -/
  | expertImageLoad (r : Req) (total : U32)
  /-- EXPERT_IMAGE_UNLOAD (R184): Unloads an image with no instances. -/
  | expertImageUnload (r : Req) (image : U32)
  /-- EXPERT_IMAGE_LIST (R187): Lists loaded images. -/
  | expertImageList (r : Req)
  /-- EXPERT_INSTANCE_CREATE (R182): Creates an instance of an image's tasks after admission. -/
  | expertInstanceCreate (r : Req) (list : U8) (image : U32)
  /-- EXPERT_INSTANCE_DELETE (R184): Deletes an instance at a boundary. -/
  | expertInstanceDelete (r : Req) (list : U8) (page : U16) (flags : U8)
  /-- EXPERT_PLACEMENT (R187): Reports task placement per frond. -/
  | expertPlacement (r : Req)
  /-- EXPERT_TASK_STATS (R187): Reports per-task largest counts and retries. -/
  | expertTaskStats (r : Req)
  /-- EXPERT_FROND_READ (R158): Reads frond memory words by doorbell. -/
  | expertFrondRead (r : Req) (frond : U8) (mem : U8) (offset : U32) (count : U16)
  /-- EXPERT_MEM_READ (R445): Reads control SRAM or bulk memory. -/
  | expertMemRead (r : Req) (space : U8) (addr : U32) (length : U32)
  /-- EXPERT_MEM_WRITE (R445): Writes control SRAM or bulk memory in the maintenance state. -/
  | expertMemWrite (r : Req) (space : U8) (addr : U32) (length : U32) (bytes : List Byte)
  /-- EXPERT_DMA (R443): Runs a descriptor list on a firmware channel. -/
  | expertDma (r : Req) (count : U16) (bytes : List Byte) (host : List (Nat × Byte))
  /-- EXPERT_ARB_READ (R443): Returns arbiter tables, ranks and flags. -/
  | expertArbRead (r : Req) (group : U8)
  /-- EXPERT_ARB_WRITE (R427): Writes unlocked slot entries, ranks, limits and priorities. -/
  | expertArbWrite (r : Req) (op : U8) (group : U8) (first : U16) (vals : List U32)
  /-- POWER_STATUS (R531): Returns VCORE, feeds, currents and temperatures. -/
  | powerStatus (r : Req)
  /-- POWER_SLACK_TARGET (R40): Reads or sets the slack target. -/
  | powerSlackTarget (r : Req) (op : U8) (target : U16)
  /-- POWER_SLACK_REPORT (R42): Returns slack per frond. -/
  | powerSlackReport (r : Req)
  /-- POWER_AGEING (R379): Returns the ageing record. -/
  | powerAgeing (r : Req)
  /-- POWER_VCORE (R518): Sets VCORE directly or returns it to the servo. -/
  | powerVcore (r : Req) (op : U8) (uv : U32)
  /-- SECURE_KEY (R465): Provisions or deletes a session key. -/
  | secureKey (r : Req) (op : U8) (key : U8) (rights : U8) (bytes : List Byte)
  /-- SECURE_FW_UPDATE (R528): Opens a firmware object written to the idle slot as trial. -/
  | secureFwUpdate (r : Req) (total : U32)
  /-- SECURE_FW_STATUS (R493): Returns firmware slot states. -/
  | secureFwStatus (r : Req)
  /-- SECURE_IMAGE_SELECT (R528): Sets a valid slot as the trial. -/
  | secureImageSelect (r : Req) (which : U8)
  /-- SECURE_ROLLBACK_READ (R527): Returns the anti-rollback counter. -/
  | secureRollbackRead (r : Req)
  /-- MLADIR_HEARTBEAT (R362): Every 10 ms Mladir writes its heartbeat and advances the mailbox engine heartbeat, and after a stall this marks Mladir responding again. -/
  | mladirHeartbeat
  /-- MLADIR_LOCKSTEP (R362): A mismatch between Mladir's two lockstep cores raises MLADIR_LOCKSTEP in the instruction where it occurs. -/
  | mladirLockstep
  /-- PTP_MESSAGE_INTERVAL (R299): A PTP instance's Sync, Announce or Delay_Req interval expires and it sends the message of its role. -/
  | ptpMessageInterval (net : NetNo) (kind : Bit2)
  /-- NET4_LINK_CHANGE (R248): NET4's SGMII auto-negotiation or PHY link status changes, completing a step-down or step-up or taking the port up or down. -/
  | net4LinkChange (up : Bool) (mbps : U16)
  /-- FREQUENCY_MONITOR (R304): The frequency monitor finds a reference candidate's signal present or its frequency entering or leaving ±500 ppm, starting or ending validity. -/
  | frequencyMonitor (cand : Bit4) (present : Bool) (inRange : Bool)
  /-- TRIGGER_PULSE_END (R311): The width of a trigger pulse elapses, its trailing edge leaves and a waiting rewrite of the trigger is armed. -/
  | triggerPulseEnd (trigger : Bit4)
  /-- ROOT_PORT_LINK_UP (R382): The SPR_ root port or a switch port trains or sees a surprise insertion, and Peat enumerates the hierarchy below it. -/
  | rootPortLinkUp (found : List CtrlFound)
  /-- ROOT_PORT_INBOUND_REQUEST (R383): An inbound request from a device reaches the root port and is served or answered with Unsupported Request and a controller reset. -/
  | rootPortInboundRequest (ctrl : U8) (granted : Bool)
  /-- MARCH_DONE (R368): A requested march completes, returning failing rows and repairs, and the safe state it held is released. -/
  | marchDone (rows : List U16) (stays : Bool) (badWrites : U8)
  /-- FEED_SENSE_SAMPLE (R511): Every 1 µs each feed is sampled, and the FEED_RANGE condition starts or ends. -/
  | feedSenseSample (a : U32) (b : U32)
  /-- VAUX_POWER_ON (R515): VAUX stays above 2.90 V for 10 ms and the always-on domain starts. -/
  | vauxPowerOn
  /-- HOST_DELIVERY_TIMEOUT (R528): With HOST_FIRST set, no host delivery starts within 2 s and the boot ROM falls back to the flash slots. -/
  | hostDeliveryTimeout
  /-- MSIX_CONTROL_WRITE (R504): A host write to the MSI-X table or capability changes masking or enable, sending a pending message on unmask and moving INT_N. -/
  | msixControlWrite (enable : Bool) (masks : U32)
  /-- TWL_BAD_MESSAGE (R345): A twin-link message arrives with a bad CRC, an unknown type, a bad length or nonzero padding, and is discarded with a LINK_NAK. -/
  | twlBadMessage (crc : Bool)
  /-- ALIGNMENT_BLOCK (R342): A lane receives an alignment block, checks its BIP-8 and applies any LANES set due at that count. -/
  | alignmentBlock (lane : Bit2) (bip : Bool)
  /-- TAP_INSTRUCTION (R541): The TAP executes a scanned instruction, acting on the pins only while RESET_N is low and as BYPASS otherwise. -/
  | tapInstruction (which : Bit3)
  deriving DecidableEq, Repr

end Sys2Proof
end

