-- ==== Sys2Proof/Decode.lean ====
section
/-!
DEFINITION. The command that a word spells by the opcode table's bits. The table gives the encodings of commands as
texts (mailbox messages, register offsets, frond program words, pins and link messages) and no numbered bits for any
row, so no word spells a command.
-/
namespace Sys2Proof

/-- The command a word of the table's bits spells: none, since no row gives bits. -/
def decodeTableWord (nbits w : Nat) : Option Instr :=
  match nbits, w with
  | _, _ => none

end Sys2Proof
end

