-- ==== Sys2Proof/Machine/Fixed.lean ====
section
/-!
DEFINITION. Exact integer arithmetic, rounding and ranging in the forms the manual names (R9, R68, R198), and the
fixed-point elementary functions that the coefficient derivations of the processing library use (R71). Every
function works on integers; fixed-point elementary functions carry 64 fraction bits.
-/
namespace Sys2Proof.Fx

/-- Clamp an integer to a closed range. -/
def clamp (lo hi v : Int) : Int := if v < lo then lo else if hi < v then hi else v

/-- Round n/d to nearest, exact ties away from zero (R9). `d` positive. -/
def roundAway (n d : Int) : Int :=
  if 0 ≤ n then (2 * n + d) / (2 * d) else -((2 * (-n) + d) / (2 * d))

/-- Round n/d to nearest, exact ties to even (convergent rounding). `d` positive. -/
def roundEven (n d : Int) : Int :=
  let q := n / d
  let r := n % d
  if 2 * r < d then q else if d < 2 * r then q + 1 else if q % 2 = 0 then q else q + 1

/-- Ceiling of n/d on naturals. -/
def ceilDiv (n d : Nat) : Nat := (n + d - 1) / d

/-- Saturate to a two's-complement width. -/
def sat (bits : Nat) (v : Int) : Int := clamp (-(2 ^ (bits - 1))) (2 ^ (bits - 1) - 1) v

/-- Saturate to Q1.23. -/
def satQ23 (v : Int) : Int := sat 24 v

/-- Two's-complement value of the low bits of a number. -/
def toSigned (bits v : Nat) : Int :=
  let m := v % 2 ^ bits
  if m < 2 ^ (bits - 1) then m else (m : Int) - 2 ^ bits

/-- The low bits of an integer as a number. -/
def toUnsigned (bits : Nat) (v : Int) : Nat := (v % (2 ^ bits : Int)).toNat

/-- Bits `[hi:lo]` of a number. -/
def bits (v hi lo : Nat) : Nat := v / 2 ^ lo % 2 ^ (hi + 1 - lo)

/-- Bit i of a number. -/
def bit (v i : Nat) : Bool := v / 2 ^ i % 2 = 1

/-- A Boolean as a bit. -/
def b2n (b : Bool) : Nat := if b then 1 else 0

/-- Set or clear bit i of a number. -/
def setBit (v i : Nat) (b : Bool) : Nat :=
  if bit v i then (if b then v else v - 2 ^ i) else (if b then v + 2 ^ i else v)

/-- The number of set bits among bits 0 to n−1. -/
def popBelow (v : Nat) : Nat → Nat
  | 0 => 0
  | n + 1 => popBelow v n + b2n (bit v n)

/-- The one value of fixed point with 64 fraction bits. -/
def one : Int := 2 ^ 64

/-- Product of two 64-fraction-bit values, rounded to nearest. -/
def mul (a b : Int) : Int := roundAway (a * b) one

/-- Quotient of two 64-fraction-bit values, rounded to nearest; the divisor is not zero. -/
def div (a b : Int) : Int := if b < 0 then roundAway (-a * one) (-b) else if b = 0 then 0 else roundAway (a * one) b

/-- A rational as a 64-fraction-bit value. -/
def ratio (n d : Int) : Int := roundAway (n * one) d

/-- Integer square root, by bits from `i` down. -/
def isqrtFrom (v : Nat) : Nat → Nat → Nat
  | 0, acc => acc
  | i + 1, acc => let t := acc + 2 ^ i; if t * t ≤ v then isqrtFrom v i t else isqrtFrom v i acc

/-- Integer square root of a number below 2^256. -/
def isqrt (v : Nat) : Nat := isqrtFrom v 128 0

/-- Square root of a 64-fraction-bit value; zero for a negative one. -/
def sqrt (a : Int) : Int := (isqrt (a.toNat * 2 ^ 64) : Nat)

/-- Taylor sum of e^x for |x| ≤ 1: `n` further terms, the running term being `t` at index `k`. -/
def expSum (x : Int) : Nat → Int → Int → Int
  | 0, _, _ => 0
  | n + 1, t, k => t + expSum x n (roundAway (t * x) (one * k)) (k + 1)

/-- e^x for a 64-fraction-bit x: the argument is halved 8 times and the result squared back. -/
def exp (x : Int) : Int :=
  let y := expSum (roundAway x 256) 22 one 1
  let sq := fun v => mul v v
  sq (sq (sq (sq (sq (sq (sq (sq y)))))))

/-- ln 2 and ln 10 with 64 fraction bits (rounded to nearest). -/
def ln2 : Int := 12786308645202655660
/-- ln 10 with 64 fraction bits. -/
def ln10 : Int := 42475197918399869020
/-- π with 64 fraction bits. -/
def pi : Int := 57952155664616982739

/-- 2^x: the integer part shifts, the fraction goes through e^(f·ln 2). -/
def pow2 (x : Int) : Int :=
  let n := x / one
  let m := exp (mul (x % one) ln2)
  if 0 ≤ n then m * 2 ^ n.toNat else roundAway m (2 ^ (-n).toNat)

/-- log2 of a positive 64-fraction-bit value: integer part by halving and doubling, fraction by repeated
squaring of a mantissa in [1, 2). -/
def log2Frac : Nat → Int → Int → Int
  | 0, _, _ => 0
  | n + 1, m, w =>
    let m2 := mul m m
    if 2 * one ≤ m2 then w + log2Frac n (roundAway m2 2) (w / 2) else log2Frac n m2 (w / 2)

/-- log2 of a positive 64-fraction-bit value; zero for an argument that is not positive. -/
def log2 (a : Int) : Int :=
  if a ≤ 0 then 0
  else
    let e : Int := (Nat.log2 a.toNat : Nat)
    let m := if 64 ≤ e then roundAway a (2 ^ (e - 64).toNat) else a * 2 ^ (64 - e).toNat
    (e - 64) * one + log2Frac 60 m (one / 2)

/-- log10 of a positive 64-fraction-bit value. -/
def log10 (a : Int) : Int := div (mul (log2 a) ln2) ln10

/-- 10^(x) for a 64-fraction-bit x. -/
def pow10 (x : Int) : Int := pow2 (div (mul x ln10) ln2)

/-- Taylor sum of sine or cosine: terms t·(−x²)/((k+1)(k+2)). -/
def trigSum (x2 : Int) : Nat → Int → Int → Int
  | 0, _, _ => 0
  | n + 1, t, k => t + trigSum x2 n (roundAway (-(t * x2)) (one * ((k + 1) * (k + 2)))) (k + 2)

/-- sin x for a 64-fraction-bit x, |x| ≤ 2π or so. -/
def sin (x : Int) : Int := trigSum (mul x x) 30 x 1
/-- cos x for a 64-fraction-bit x, |x| ≤ 2π or so. -/
def cos (x : Int) : Int := trigSum (mul x x) 30 one 0
/-- tan x. -/
def tan (x : Int) : Int := div (sin x) (cos x)

/-- 10^(h/2000): the linear gain of a level of h units of 0.01 dB, with 64 fraction bits. -/
def dbGain (h : Int) : Int := pow10 (ratio h 2000)

end Sys2Proof.Fx
end

