-- ==== Sys2Proof/Config.lean ====
section
/-!
DEFINITION. What one part carries from manufacture or its board (constants without a value here) and the free values:
what the manual leaves open where the engine goes on. Nothing in Lean can evaluate a free value.
-/
namespace Sys2Proof.Config

/-- A free value of the given index and width: what a result that the manual does not state holds (log entry 5). -/
opaque freeBits : Nat → Nat
/-- The serial number in OTP (R478, R500; log entry 8). -/
opaque serial : BitVec 64
/-- The MAC address block base in OTP (R478, R247; log entry 8). -/
opaque macBase : BitVec 48
/-- Error of LOG2 and EXP2 against the exact result, in accumulator units, for an operand: bounded where it is used
by R204, equal for equal operands by R16 (log entry 5). -/
opaque log2Error : BitVec 56 → Int
opaque exp2Error : BitVec 56 → Int
/-- Pink noise of a seed at a position: the manual gives its slope only (R97; log entry 5). -/
opaque pinkSample : Nat → Nat → Int
/-- Firmware version numbers that SYS.IDENTIFY returns (R2, R478; log entry 8). -/
opaque firmwareVersion : BitVec 16
opaque firmwareBuild : BitVec 32
/-- The OTP boot-policy bit HOST_FIRST (R528; log entry 8). -/
opaque hostFirst : Bool
/-- Minor Seril version of series 2 (R2). -/
opaque serilMinor : BitVec 8
/-- kT and kS of the ageing normalisation, in µV per °C and µV per percentage point (R378; from OTP). -/
opaque ageKT : Nat
opaque ageKS : Nat

/-- The Ethernet address that a unicast IPv4 address resolves to: the manual states no resolution of its own (R250;
log entry 5). -/
opaque neighbourMac : Nat → Nat

/-- What a PTP announce says of the clock and the manual does not give: accuracy, variance, time source; the body of the
ST 2059-2 metadata TLV; the dataset fields that a management answer carries beside the settings (R298; log entry 5). -/
opaque clockAccuracy : Nat
opaque clockVariance : Nat
opaque timeSource : Nat
opaque smTlv : Nat → List Byte
opaque ptpDataset : Nat → List Byte
/-- Session identifier, version and name of the SDP description of a stream: the manual states none (R276; log entry 5). -/
opaque sdpSession : Nat → Nat
opaque sdpVersion : Nat → Nat
opaque sdpName : Nat → List Byte

/-- Kp and Ki derived from a source kind's bandwidth in mHz and the damping: the manual gives no formula (R294; log entry
5). -/
opaque loopKp : Nat → Nat → Nat → Nat
opaque loopKi : Nat → Nat → Nat → Nat
/-- Estimated time error in ns for a time in s since entry to holdover: the manual gives no formula (R309; log entry 5). -/
opaque holdoverError : Nat → Nat

/-- The detail that PEAT.READ gives for an expired cursor, by its reason, 1 IDLE or 2 OVERWRITTEN: R473 lists no code for
either (R412; log entry 5). -/
opaque expiredReason : Nat → Nat

/-- An ASRC's converter (R94): what it keeps after the samples of a frame at a ratio and phase, and the converted sample of a
position. The manual gives its performance and no arithmetic (log entry 53). -/
opaque asrcStep : Nat → List Int → Nat → Nat → Nat
opaque asrcSample : Nat → Nat → BitVec 24

/-- Bulk address of the frame buffer behind a source or sink: the manual places none (R66; log entry 5). -/
opaque bufferAddress : Nat → Nat
/-- Frond words of a library task, by its key, and the bulk turns reserved for a frond with these tasks: the manual gives no
figure (R174, R187; log entry 5). -/
opaque libraryWords : Nat → Nat
opaque bulkTurns : List Nat → Nat
/-- The entries of a bank group's slot table that an admission reserves, and for which requesters, by the fronds in use and
whether the engine is paired: the manual gives no count of turns (R174, R427; log entry 5). -/
opaque slotPlan : Nat → List Nat → Bool → List (Nat × Nat)
/-- The memories that hold the banks have room for these emergency images, named by input × 65,536 + page: the manual gives
no image a size (R145, R416; log entry 5). -/
opaque imagesFit : List Nat → Bool
/-- What the report of priorities gives for a path that the bus matrix does not have (R421; log entry 5). -/
opaque absentPath : Nat → Nat

end Sys2Proof.Config
end

