-- ==== Sys2Proof/Machine/Tables.lean ====
section
/-!
DEFINITION. Operations on sparse tables and on memories, both kept in one canonical form: keys strictly rising.
A memory lists no byte that equals what an unlisted address reads as (zero, log entry 4).
-/
namespace Sys2Proof

/-- The value a table holds at a key, if any. -/
def Tbl.find {α : Type} : Tbl α → Nat → Option α
  | [], _ => none
  | (j, a) :: t, k => if j = k then some a else Tbl.find t k

/-- The value at a key, or a default for a key that is not listed. -/
def Tbl.getD {α : Type} (t : Tbl α) (k : Nat) (d : α) : α := (Tbl.find t k).getD d

/-- Is the key listed. -/
def Tbl.has {α : Type} (t : Tbl α) (k : Nat) : Bool := (Tbl.find t k).isSome

/-- Set a key's value, keeping the keys rising. -/
def Tbl.put {α : Type} : Tbl α → Nat → α → Tbl α
  | [], k, v => [(k, v)]
  | (j, a) :: t, k, v =>
    if k < j then (k, v) :: (j, a) :: t
    else if k = j then (k, v) :: t
    else (j, a) :: Tbl.put t k v

/-- Remove a key. -/
def Tbl.erase {α : Type} : Tbl α → Nat → Tbl α
  | [], _ => []
  | (j, a) :: t, k => if j = k then Tbl.erase t k else (j, a) :: Tbl.erase t k

/-- Set a key to a value, where a value equal to the default is not listed. -/
def Tbl.putD {α : Type} [DecidableEq α] (t : Tbl α) (k : Nat) (v d : α) : Tbl α :=
  if v = d then Tbl.erase t k else Tbl.put t k v

/-- Change the value at a key, from a default when it is not listed. -/
def Tbl.alter {α : Type} (t : Tbl α) (k : Nat) (d : α) (f : α → α) : Tbl α := Tbl.put t k (f (Tbl.getD t k d))

/-- Change every value. -/
def Tbl.mapV {α β : Type} (f : Nat → α → β) (t : Tbl α) : Tbl β := t.map fun p => (p.1, f p.1 p.2)

/-- Keep the entries that satisfy a test. -/
def Tbl.keep {α : Type} (f : Nat → α → Bool) (t : Tbl α) : Tbl α := t.filter fun p => f p.1 p.2

/-- The keys rise strictly from a bound on. -/
def Tbl.risingFrom {α : Type} : Nat → Tbl α → Bool
  | _, [] => true
  | n, (j, _) :: t => decide (n ≤ j) && Tbl.risingFrom (j + 1) t

/-- The canonical form of a table: keys strictly rising. -/
def Tbl.wf {α : Type} (t : Tbl α) : Bool := Tbl.risingFrom 0 t

/-- A byte memory: the listed bytes, every other byte zero (log entry 4). -/
abbrev Memory := List (Nat × BitVec 8)

namespace Memory

/-- One byte: what is listed, else zero. -/
def read (m : Memory) (a : Nat) : Byte := Tbl.getD m a 0

/-- Write one byte; a zero byte is not listed. -/
def write (m : Memory) (a : Nat) (b : Byte) : Memory := Tbl.putD m a b 0

/-- The canonical form: addresses strictly rising, no listed zero. -/
def wf (m : Memory) : Bool := Tbl.wf m && m.all fun p => p.2 != 0

/-- `n` bytes from an address on. -/
def readBytes (m : Memory) (a : Nat) : Nat → List Byte
  | 0 => []
  | n + 1 => read m a :: readBytes m (a + 1) n

/-- Write bytes from an address on. -/
def writeBytes (m : Memory) (a : Nat) : List Byte → Memory
  | [] => m
  | b :: bs => writeBytes (write m a b) (a + 1) bs

/-- Keep only the bytes outside `[a, a+n)`: the bytes there read zero. -/
def clear (m : Memory) (a n : Nat) : Memory := m.filter fun p => p.1 < a || a + n ≤ p.1

/-- A little-endian number of `n` bytes. -/
def readLE (m : Memory) (a : Nat) : Nat → Nat
  | 0 => 0
  | n + 1 => (read m a).toNat + 256 * readLE m (a + 1) n

/-- Write a number little-endian in `n` bytes. -/
def writeLE (m : Memory) (a v : Nat) : Nat → Memory
  | 0 => m
  | n + 1 => writeLE (write m a (BitVec.ofNat 8 v)) (a + 1) (v / 256) n

end Memory
end Sys2Proof
end

