-- ==== Sys2Proof/Machine/State.lean ====
section
/-!
DEFINITION. The state of the engine as plain data: every register, memory, table, queue, counter, mode and pin the
manual names, one structure a function, and the machine right after reset. The queue of waiting commands stands in
`State.pending`. Fields hold resting content only; every rule that reads or writes them stands in the other files.
-/
namespace Sys2Proof.Machine

/-- Reasons for which the machine stops with a fault. No meaning raises one today: the manual answers every access
and every event of its own (R495 to R499, R469). -/
inductive Fault where
  /-- An access outside every address the manual gives (raised by none of the meanings; safe). -/
  | noSuchAddress (a : Nat)
  deriving DecidableEq, Repr

/-- Reasons for which a command has no meaning here. -/
inductive Refusal where
  /-- The command named has no meaning in the model yet (raised by the dispatch only; safe). -/
  | notModelled (mnemonic : String)
  deriving DecidableEq, Repr

/-- What has left the engine, in order (the model's own record of outputs, log entry 15). -/
inductive Output where
  /-- An MSI-X message of a vector (R504). -/
  | msix (vector : Nat)
  /-- A write to host memory (R452, R436). -/
  | hostWrite (addr : Nat) (bytes : List Byte)
  /-- A frame that left a network port (R249, R268, R275, R464). -/
  | netFrame (port : Nat) (bytes : List Byte)
  /-- A verify frame of the MAC merge sublayer, or the response to one (R258). -/
  | mergeFrame (port : Nat) (response : Bool)
  /-- A twin-link message: its sequence number, acknowledgement and frame number, whether it is a retransmission, its content
  (R344, R345). -/
  | link (seq ack frame : Nat) (again : Bool) (msg : LinkMsg)
  /-- An NVMe command of a tag to a controller: opcode, store address and length, and the bytes that a write
  brings (R386). -/
  | nvme (ctrl tag opcode : Nat) (addr len : Nat) (bytes : List Byte)
  /-- An admin command to a controller: Abort names a command identifier (R388). -/
  | nvmeAdmin (ctrl opcode value : Nat)
  /-- A pulse on a pin of the trigger outputs (R311). -/
  | pulse (pin : Nat) (polarity : Nat) (widthNs : Nat)
  /-- A pulse of PPS_OUT (R291). -/
  | pps (widthUs : Nat)
  /-- The words an SPI read shifted out, with their check (R446). -/
  | spiRead (words : List Nat) (crc : Nat)
  /-- A request sent on to the other engine of the pair: slot, sequence number, command code, whether as a local
  command there (R467). -/
  | relay (slot seq code : Nat) (local_ : Bool)
  /-- The value a register read returned to a master (R497). -/
  | regRead (path offset value : Nat)
  deriving DecidableEq, Repr

/-- Clock unit (11: R282 to R291). Times and counts C are in units of 2^−16 ns. -/
structure Clock where
  /-- RAW, in 4 ns ticks (R282). -/
  raw : Nat := 0
  /-- rate, in 2^−48 (R283). -/
  rate : Int := 0
  /-- C_a in 2^−16 ns and RAW_a (R283). -/
  cA : Int := 0
  rawA : Nat := 0
  /-- OFFSET modulo 2^48, in 2^−16 ns (R284). -/
  offset : Nat := 0
  /-- TIME_WRAPS (R284). -/
  wraps : Nat := 0
  /-- Grid phase G in 2^−16 ns, and the index j of the latest sample tick and of the latest boundary (R288). -/
  gridG : Int := 0
  sampleJ : Nat := 0
  boundaryJ : Nat := 0
  /-- C at the pulses of PPS_OUT, modulo 1 s, set by the last realignment (R291). -/
  ppsPhase : Int := 0
  /-- TIME_NS and full time (ns) latched at the latest frame boundary (R288, R505). -/
  boundaryNs : Nat := 0
  boundaryTime : Nat := 0
  /-- The PLL is locked to XO_IN, whose frequency is kept in kHz (R282). -/
  pllLocked : Bool := false
  xoKhz : Nat := 0
  /-- Alignment state and error in ns (R289). -/
  aligned : Bool := false
  alignErr : Int := 0
  /-- ALIGN_AT_LOCK, and that the first entry to LOCKED has realigned (R290). -/
  alignAtLock : Bool := true
  realigned : Bool := false
  /-- A pending extension of a frame: the apply frame and s′ in ns (R290). -/
  extend : Option (Nat × Nat) := none
  /-- Media-clock counts skipped by extensions so far (R290). -/
  skipped : Nat := 0
  /-- Time is UNSET (R286). -/
  unset : Bool := true
  /-- UTC offset and leap flags learnt (R286). -/
  utcOffset : Int := 0
  leap59 : Bool := false
  leap61 : Bool := false
  deriving DecidableEq, Repr

/-- The engine as a whole (00, 02, 15, 18). -/
structure Sys where
  /-- Rate code of R160 (0 to 5). -/
  rate : Nat := 1
  /-- B (R21). -/
  b : Nat := 8
  /-- The frame number of the frame in progress (R22), and that the frame tick runs. -/
  frameNo : Nat := 0
  running : Bool := false
  /-- SYS_READY: the functions that are ready, by the codes of reason 0x09 of R473. -/
  ready : List Nat := []
  /-- The functions that have passed their own self-test (R19). -/
  tested : List Nat := []
  /-- The slot that owns the maintenance state (R466); 8 more for a slot of the partner. -/
  maint : Option Nat := none
  /-- The spare frond and the fronds retired (R33). -/
  spareFrond : Option Nat := none
  retired : List Nat := []
  /-- The spare physical bulk bank, the logical-to-physical bank map and the banks retired (R369, R423). -/
  spareBank : Option Nat := none
  bankMap : Tbl Nat := []
  banksRetired : List Nat := []
  /-- RESET_N is low, or the last-gasp sequence holds reset (R522). -/
  inReset : Bool := true
  resetLow : Bool := true
  /-- PAIR_EN and PAIR_PREF as sampled (R318). -/
  pairEn : Bool := false
  pairPref : Bool := false
  /-- Bulk area sizes in MiB: in force and for the next reset (R424). -/
  split : List Nat := [64, 16, 16, 48, 32, 16]
  nextSplit : List Nat := [64, 16, 16, 48, 32, 16]
  /-- SYS_SCRATCH, SYS_WRITE_IGNORED, SYS_REMAP, SYS_OUTBOUND (bits 51 to 31), SYS_HEARTBEAT (R500). -/
  scratch : Nat := 0
  writeIgnored : Nat := 0
  remap : Bool := false
  outbound : Nat := 0
  heartbeat : Nat := 0
  /-- Mladir answers its heartbeat; the RAW of the latest one; a restart under R358 is in progress. -/
  mladirUp : Bool := true
  mladirBeat : Nat := 0
  mladirRestarting : Bool := false
  /-- Interruption of the signal path in progress (R23): the rate code and B that wait for the restart. -/
  interrupted : Option (Nat × Nat) := none
  deriving DecidableEq, Repr

/-- A fault record (R350). -/
structure Record where
  source : Nat := 0
  kind : Nat := 0
  sev : Nat := 0
  count : Nat := 0
  index : Nat := 0
  ended : Bool := false
  detail : Nat := 0
  timeNs : Nat := 0
  deriving DecidableEq, Repr

/-- An entry of the service or persistent log (R355). -/
structure LogEntry where
  rcd : Record := {}
  wraps : Nat := 0
  seq : Nat := 0
  deriving DecidableEq, Repr

/-- An entry of the active table (R354), keyed source × 256 + kind. -/
structure FaultEntry where
  sev : Nat := 0
  first : Record := {}
  latest : Record := {}
  total : Nat := 0
  /-- Its record applied the safe state, or waits for the switch-over that may spare it (R359). -/
  safe : Bool := false
  safeWait : Bool := false
  /-- Its action set held reset function: cleared when the reset completes (R359). -/
  resetting : Bool := false
  deriving DecidableEq, Repr

/-- A location with its transient events, times in RAW ticks, newest first (R38, R361). -/
structure Location where
  key : Nat := 0
  times : List Nat := []
  deriving DecidableEq, Repr

/-- The fault collector (13: R350 to R361). -/
structure FaultState where
  table : Tbl FaultEntry := []
  /-- FAULT_TABLE_FULL held, at a severity (R354). -/
  full : Option Nat := none
  /-- Service log, newest first, at most 4,096 (R355); sequence number of the newest; next to be read by a host. -/
  log : List LogEntry := []
  seq : Nat := 0
  readSeq : Nat := 1
  lost : Nat := 0
  /-- RAW of the latest LOG_LOST, and the losses since (R355). -/
  lostAt : Option Nat := none
  lostNew : Nat := 0
  /-- RAW until which FAULT_N stays low for records of the last ms (R360). -/
  pinUntil : Nat := 0
  /-- Persistent log in the boot flash, newest first, at most 8,192; entries overwritten (R355). -/
  persist : List LogEntry := []
  persistLost : Nat := 0
  /-- Records of severity 3 or above kept for the last gasp, newest first, at most 16 (R355). -/
  gasp : List LogEntry := []
  /-- Latest record of severity 2 or above (R506). -/
  latest : Record := {}
  /-- Reaction table entries that differ from the defaults (R356, R357). -/
  reaction : Tbl Nat := []
  pinLevel : Nat := 3
  /-- The collector has started after power-up (R360). -/
  started : Bool := false
  /-- A requested march holds the safe state (R368). -/
  marchHold : Bool := false
  /-- FAULT.RETRY_LIMIT (R38) and the 1,024 locations (R361). -/
  retryLimit : Nat := 4
  locs : List Location := []
  /-- Memories scheduled for repair (R361), and sources whose function reset is in progress (R358). -/
  repairs : List Nat := []
  resets : List Nat := []
  /-- Those resets that have still to begin. -/
  resetsDue : List Nat := []
  /-- The entry that FAULT_TABLE_FULL has beside the table. -/
  fullEntry : FaultEntry := {}
  /-- Partner violations that continue: start or latest log in RAW ticks and count (R469). -/
  violations : Tbl (Nat × Nat) := []
  deriving DecidableEq, Repr

/-- A held result (R458). -/
structure Held where
  seq : Nat := 0
  data : List Byte := []
  readAt : Nat := 0
  deriving DecidableEq, Repr

/-- One accepted request in a slot's history (R454); no response yet while it is in progress. -/
structure HistEntry where
  seq : Nat := 0
  crc : Nat := 0
  code : Nat := 0
  resp : Option (List Byte) := none
  deriving DecidableEq, Repr

/-- A client slot (R447), its ring counts (R450), its history (R454) and held results (R458). -/
structure Slot where
  /-- 0 FREE, 1 CLAIMED, 2 RELEASING. -/
  state : Nat := 0
  /-- 0 PCIe, 1 SPI, 2 UDP. -/
  path : Nat := 0
  /-- [0] basic, [1] expert, [2] maintenance, [3] provision. -/
  rights : Nat := 0
  tag : Nat := 0
  reqProd : Nat := 0
  reqCons : Nat := 0
  respProd : Nat := 0
  respCons : Nat := 0
  evCons : Nat := 0
  heartbeat : Nat := 0
  /-- RAW at which the heartbeat last changed, and since which the response ring holds something that the client has not
  consumed (R448, R469). -/
  beatAt : Nat := 0
  consAt : Nat := 0
  hist : List HistEntry := []
  /-- Commands in progress: sequence number, code and data reference (R451, R452). -/
  work : List (Nat × Nat × Option DataRef) := []
  held : List Held := []
  /-- SYS.EVENTS mask (256 bits; R465). -/
  evMask : Nat := 0
  deriving DecidableEq, Repr

/-- What a chunked object is for (R459, R476). -/
inductive ObjKind where
  | scene (number flags : Nat) (name : List Byte)
  | taps (list page : Nat)
  | clip (number rate : Nat)
  | image
  | firmware
  deriving DecidableEq, Repr

/-- An open chunked object: the bytes written so far (R459). -/
structure Object where
  slot : Nat
  kind : ObjKind
  length : Nat
  data : Tbl Byte := []
  /-- RAW of the latest chunk (R460). -/
  touched : Nat := 0
  deriving DecidableEq, Repr

/-- A Seril UDP session (R464). -/
structure Session where
  keyId : Nat
  key : List Byte
  ip : Nat
  port : Nat
  slot : Nat
  rxHigh : Nat := 0
  /-- Counters seen among the 64 below the highest. -/
  rxSeen : List Nat := []
  tx : Nat := 0
  last : Nat := 0
  deriving DecidableEq, Repr

/-- The mailbox (16, 18). -/
structure Mbx where
  isOpen : Bool := false
  slots : Tbl Slot := []
  /-- MBX_CLAIM.SLOT per path: absent reads 0xFF (R501). -/
  claim : Tbl Nat := []
  liveness : Nat := 10
  objects : Tbl Object := []
  nextHandle : Nat := 1
  /-- Event producer count; RAW of the latest event interrupt; one is owed (R461). -/
  evProd : Nat := 0
  evIntAt : Option Nat := none
  evIntDue : Bool := false
  sessions : Tbl Session := []
  nextSession : Nat := 1
  /-- Provisioned keys: key ID to rights and 32 bytes (R465). -/
  keys : Tbl (Nat × List Byte) := []
  /-- Requests whose unknown code, version, flag or client field was counted (R469). -/
  badCmd : Nat := 0
  deriving DecidableEq, Repr

/-- Interrupts, banked per path: index 0 the PCIe copy, 1 the SPI copy (R502 to R504), and the register latches. -/
structure IntState where
  status0 : Nat := 0
  status1 : Nat := 0
  msixEnable : Nat := 0
  pin0 : Nat := 0
  pin1 : Nat := 0
  /-- MSI-X enabled in the endpoint; table vectors masked, all of them after reset as PCIe has it (log entry 3); PBA (R504). -/
  msixOn : Bool := false
  masked : Nat := 0xFFFFFFFF
  pba : Nat := 0
  /-- The other words of the MSI-X table: message addresses and data, by word number. -/
  table : Tbl Nat := []
  /-- Latches: key master × 65,536 + register offset (R497). -/
  latch : Tbl Nat := []
  deriving DecidableEq, Repr
/-- The content of a parameter page: the fields that differ from their reset value, by the field IDs of R484. -/
abbrev PageRec := Tbl Int

/-- What holds a page that is not free (R128). -/
inductive PageStatus where
  | heldList (n : Nat)
  | heldAction (a : Nat)
  | pending
  | reseeding
  deriving DecidableEq, Repr

/-- Parameter pages: banks, images and redirection (06: R126 to R131, R145 to R149). -/
structure Pages where
  active : Tbl PageRec := []
  shadow : Tbl PageRec := []
  status : Tbl PageStatus := []
  /-- Emergency images, key input × 65,536 + page (R145). -/
  image : Tbl PageRec := []
  /-- Page to the input whose image is in force (R147). -/
  redirect : Tbl Nat := []
  deriving DecidableEq, Repr

/-- One clamped field of a request (R472). -/
structure Clamp where
  field : Nat
  entry : Nat
  requested : Int
  applied : Int
  deriving DecidableEq, Repr

/-- An entry of the scene directory (R134). -/
structure SceneEntry where
  name : List Byte := []
  resident : Bool := false
  persistent : Bool := false
  version : Nat := 0
  crc : Nat := 0
  /-- The body as Peat or the resident area holds it, and the copy of a persistent scene in the boot flash (R134). -/
  body : List Byte := []
  boot : Option (List Byte) := none
  deriving DecidableEq, Repr

/-- How far an action has come (R138 to R141). -/
inductive ActState where
  | loading
  | loaded
  | handed
  deriving DecidableEq, Repr

/-- An action of R138. -/
structure Action where
  /-- A commit list, else a scene. -/
  isList : Bool := false
  number : Nat := 0
  /-- Its network time in ns, none for the next frame. -/
  time : Option Nat := none
  always : Bool := false
  skipAbsent : Bool := false
  state : ActState := .loading
  /-- The request that created it: slot, sequence number, code; RAW then (R139). -/
  slot : Nat := 0
  seq : Nat := 0
  code : Nat := 0
  since : Nat := 0
  pages : List Nat := []
  /-- The staged edits and changes of a list; a scene's are worked out when it is loaded. -/
  edits : List Edit := []
  changes : List Change := []
  skipped : Nat := 0
  /-- The transaction that forwards it, while the partner has not acknowledged it (R139). -/
  txn : Option Nat := none
  /-- The boundary at which it commits, once known. -/
  frame : Option Nat := none
  /-- It has been judged late (R142). -/
  late : Bool := false
  deriving DecidableEq, Repr

/-- A commit list (R132); tap sets and raw words ride in the pages themselves. -/
structure CommitList where
  slot : Nat := 0
  pages : List Nat := []
  edits : List Edit := []
  changes : List Change := []
  deriving DecidableEq, Repr

/-- An emergency input (R145 to R150). -/
structure Emerg where
  scene : Option Nat := none
  latchMode : Bool := false
  pages : List Nat := []
  /-- The debounced state of the own pin, and the state that decides (in a pair the active engine's). -/
  pin : Bool := false
  asserted : Bool := false
  latched : Bool := false
  /-- A debounced change that waits: the frame at whose beginning it applies, and the state it brings. -/
  due : Option (Nat × Bool) := none
  deriving DecidableEq, Repr

/-- Scenes, lists, actions and emergency inputs (06). -/
structure Scenes where
  dir : Tbl SceneEntry := []
  /-- Resident area in KiB (R134). -/
  areaKiB : Nat := 2048
  lists : Tbl CommitList := []
  actions : Tbl Action := []
  nextAction : Nat := 1
  lateMs : Nat := 1000
  emerg : Tbl Emerg := []
  deriving DecidableEq, Repr

/-- Routing (03). -/
structure Route where
  sinks : Tbl SinkState := []
  xfDefault : Nat := 64
  /-- Endpoints present in the frame in progress, as of the latest boundary (R48). -/
  present : List Nat := []
  /-- Source words whose second read fails in the frame in process: source, position, and whether it stands in the buffer
  of the frame before (R64). -/
  bad : List (Nat × Nat × Bool) := []
  deriving DecidableEq, Repr
/-- A request that is answered later: its code, slot and sequence number, the outcome so far, and the data that follow. -/
structure Answer where
  code : Nat
  slot : Nat
  seq : Nat
  status : Nat := 0
  clamps : List Clamp := []
  /-- The command data begin with the frame number. -/
  fn : Bool := true
  /-- They end with it instead (CLOCK.REALIGN, R487). -/
  fnLast : Bool := false
  detail : Nat := 0
  data : List Byte := []
  deriving DecidableEq, Repr

/-- A unit that waits for its frame boundary (R53, R138, R281, R329): page edits that stand in the shadow banks, other
changes, and the request it answers. -/
structure CommitSet where
  /-- The frame whose beginning commits it; none while a partner's acknowledgement is awaited (R329). -/
  due : Option Nat := none
  pages : List Nat := []
  changes : List Change := []
  /-- The action it carries out, and the list it empties. -/
  action : Option Nat := none
  /-- The transaction of R329; the request to answer then, its data following the
  frame number. -/
  txn : Option Nat := none
  answer : Option Answer := none
  deriving DecidableEq, Repr

/-- A page write that waits for a re-seeding page (R128): the request, its edits and the list it is staged into. -/
structure WaitWrite where
  slot : Nat
  seq : Nat
  code : Nat
  /-- The list it is staged into; 0 for an immediate write. -/
  list : Nat
  /-- RAW at its acceptance; its reply begins with the frame number; the partner's transaction that it carries out. -/
  since : Nat
  fn : Bool := true
  txn : Option Nat := none
  edits : List Edit
  changes : List Change
  clamps : List Clamp
  data : List Byte
  deriving DecidableEq, Repr

/-- Units that wait for their boundary (06, 12). -/
structure Commits where
  sets : List CommitSet := []
  waits : List WaitWrite := []
  deriving DecidableEq, Repr

/-- Processing blocks (04). -/
structure Blocks where
  inst : Tbl BlockInst := []
  st : Tbl BlkState := []
  /-- Strip metering: key kind × 65,536 + strip × 2 + (0 pre, 1 post); clip flags of tasks by first page (R72, R98). -/
  stripMeter : Tbl Meter := []
  clip : List Nat := []
  meter : Tbl Meter := []
  pilot : Tbl PilotDet := []
  /-- Samples of each source endpoint: the frame in process, and the frame before (R27). -/
  cur : Tbl (List Int) := []
  prev : Tbl (List Int) := []
  /-- Samples delivered to sinks of the frame in process. -/
  sink : Tbl (List Int) := []
  /-- ASRC lock state by instance page: locked, ramp (R95). -/
  asrc : Tbl AsrcState := []
  /-- Frame whose meter readings are latched (R98). -/
  meterFrame : Nat := 0
  deriving DecidableEq, Repr
/-- Bracken (05). -/
structure Mix where
  /-- Key lane × 2,048 + mix input. -/
  xp : Tbl XPoint := []
  bus : Tbl Bus := []
  inp : Tbl MixInput := []
  deriving DecidableEq, Repr
/-- A register that an instruction writes with a delay (R207). -/
inductive Target where
  | acc (i : Nat)
  | data (i : Nat)
  deriving DecidableEq, Repr

/-- A result in flight: its value, the instruction that issued it, and from which instructions on it is visible to the
accumulating use of the same register and to every other use (R207). -/
structure Pend where
  target : Target
  value : Nat
  issued : Nat
  fastAt : Nat
  slowAt : Nat
  /-- A LOG2 or EXP2 result: it replaces writes issued after it (R208). -/
  late : Bool := false
  deriving DecidableEq, Repr

/-- A change of SW bits in flight: bits cleared, bits set, from which instruction on (R207). -/
structure SwPend where
  clr : Nat
  set : Nat
  at_ : Nat
  deriving DecidableEq, Repr

/-- An active hardware loop: first and last address of its body, and its L register (R210). -/
structure LoopEnt where
  start : Nat
  stop : Nat
  deriving DecidableEq, Repr

/-- One register bank of a core (R188, R170), with the results in flight to it. Accumulators, data registers, pointers,
modifiers and counts are lists of 4, 4, 8, 8 and 4 words. SW holds its RW fields. -/
structure Bank where
  acc : List W56 := [0, 0, 0, 0]
  data : List W24 := [0, 0, 0, 0]
  p : List W24 := [0, 0, 0, 0, 0, 0, 0, 0]
  m : List W24 := [0, 0, 0, 0, 0, 0, 0, 0]
  l : List W24 := [0, 0, 0, 0]
  sw : W24 := 0
  /-- Innermost loop first; latest return address first. -/
  loops : List LoopEnt := []
  calls : List Nat := []
  time : Nat := 0
  pend : List Pend := []
  swPend : List SwPend := []
  /-- A taken BR, CALL or RTS waits for its delay slot: the target, and whether the slot is pending at all. -/
  slot : Bool := false
  target : Option Nat := none
  pc : Nat := 0
  deriving DecidableEq, Repr

/-- A bulk transfer of a core (R173, R218): words still to move. -/
structure BulkXfer where
  toBulk : Bool
  /-- Space of the frond side: false X, true Y. -/
  yside : Bool
  addr : Nat
  /-- Modifier of the frond side (R217). -/
  modifier : W24
  ring : Nat
  offset : Nat
  words : Nat
  flag : Nat
  posted : Bool
  /-- Its place in the order in which the frond's bulk port took its posted transfers (R173). -/
  order : Nat := 0
  /-- Words of a read whose first read fails, each with whether the second fails too (R174). -/
  fails : List (Nat × Bool) := []
  deriving DecidableEq, Repr

/-- What a core runs (R156). -/
inductive CoreRun where
  | idle
  | task (page : Nat)
  /-- The core holds for an entry of the posted queue, or for WAITB's flags; after END it waits for posted transfers. -/
  | heldQueue (page : Nat)
  | heldFlags (page mask : Nat)
  | ending (page : Nat)
  deriving DecidableEq, Repr

/-- A frond core (R188). -/
structure Core where
  run : CoreRun := .idle
  main : Bank := {}
  shadow : Bank := {}
  /-- A handler runs: the banks stand swapped (R170). -/
  handler : Bool := false
  /-- Instructions and bulk words counted in the run (R165). -/
  instrs : Nat := 0
  bulkWords : Nat := 0
  /-- Bulk completion flags and the posted queue, oldest first (R188, R173). -/
  flags : Nat := 0
  queue : List BulkXfer := []
  /-- A synchronous transfer in progress, or one that waits for a queue entry. -/
  sync : Option BulkXfer := none
  /-- Events that wait (R170). -/
  waitBulk : Bool := false
  waitTick : Bool := false
  /-- Sample position (R188). -/
  spos : Nat := 0
  /-- The run is a second run (R37). -/
  second : Bool := false
  deriving DecidableEq, Repr

/-- A read of frond memory that waits for its core's doorbell (R158): the core that serves it, the memory by its code m of
R367, first word and words, and the request it answers. -/
structure Bell where
  frond : Nat
  core : Nat
  m : Nat
  offset : Nat
  count : Nat
  slot : Nat
  seq : Nat
  deriving DecidableEq, Repr

/-- A ring of a task (R180): place, size, advance, base (frond address or bulk word index) and committed head. -/
structure Ring where
  bulk : Bool
  size : Nat
  af : Nat
  as_ : Nat
  base : Nat := 0
  head : Nat := 0
  deriving DecidableEq, Repr

/-- A scheduled expert task: one instance of a task of an image (R179, R182). -/
structure ExpertTask where
  image : Nat
  index : Nat
  entry : Nat
  dmaHandler : Option Nat
  tickHandler : Option Nat
  stage : Nat
  latency : Nat
  f : Nat
  v : Nat
  fb : Nat
  vb : Nat
  scratchX : Nat
  scratchY : Nat
  stateWords : Nat
  params : Nat
  ins : List Nat
  outs : List Nat
  sides : List Nat
  /-- The labels of its input and output pins, in their order (R180). -/
  labels : List Nat := []
  rings : List Ring
  codeLo : Nat
  codeLen : Nat
  xBase : Nat
  xLen : Nat
  yBase : Nat
  yLen : Nat
  firstPage : Nat
  /-- Its creation has committed. -/
  live : Bool := false
  /-- Run index (R160) and which ping-pong copy is the read copy (R161). -/
  runIndex : Nat := 0
  copy : Bool := false
  /-- Addresses in shared frond memory (log entry 19). -/
  ctx : Nat := 0
  inBase : Nat := 0
  outBase : Nat := 0
  bank : Nat := 0
  ppA : Nat := 0
  ppB : Nat := 0
  /-- Writes to rings and to the write copy of the run in progress: undo list of (address key, old word) (R168). -/
  undo : List (Nat × W24) := []
  /-- Largest counts and retries since creation (R187). -/
  maxInstr : Nat := 0
  maxBulk : Nat := 0
  retries : Nat := 0
  deriving DecidableEq, Repr

/-- A loaded image (R181). -/
structure Image where
  id : Nat
  version : Nat
  bytes : List Byte
  code : Nat
  codeLen : Nat
  xBase : Nat
  xLen : Nat
  yBase : Nat
  yLen : Nat
  deriving DecidableEq, Repr

/-- How a task of the frame in process stands (R26, R37). -/
inductive TaskMark where
  | waiting
  | running
  | flagged (loc : Nat)
  | committed
  | failed
  deriving DecidableEq, Repr

/-- A task of the schedule (R31, R156): its placement, cost and stage, by its first page. -/
structure Placed where
  frond : Nat
  cost : Nat
  stage : Nat
  deriving DecidableEq, Repr

/-- Slack and retry figures of a frond (R39, R42). -/
structure SlackRec where
  raw : Nat := 1000
  base : Nat := 1000
  low : Nat := 1000
  retries : Nat := 0
  deriving DecidableEq, Repr

/-- The fronds and the frame sequencer (02, 07, 08). -/
structure Fronds where
  /-- Key frond × 4 + core. -/
  core : Tbl Core := []
  /-- Data words: shared at frond × 2^24 + address; private X and Y at 2^40 + ((frond × 4 + core) × 2 + y) × 2^24 +
  address (R152, R155). -/
  mem : Tbl W24 := []
  /-- Program words and constants, the same in every core (R154). -/
  prog : Tbl W48 := []
  xconst : Tbl W24 := []
  yconst : Tbl W24 := []
  /-- Words in which one core's program memory or constants differ from them, by `ownKey` (R152, R437). -/
  own : Tbl W48 := []
  images : Tbl Image := []
  /-- Expert tasks by instance page. -/
  tasks : Tbl ExpertTask := []
  /-- Doorbell work that waits, oldest first (R158). -/
  bells : List Bell := []
  /-- The schedule: placement of every task by first page. -/
  placed : Tbl Placed := []
  /-- The frame in process: marks by task page; fronds where a retry has run (R37). -/
  mark : Tbl TaskMark := []
  retried : List Nat := []
  /-- The processing frame's outputs are invalid (R44, R555). -/
  invalid : Bool := false
  slack : Tbl SlackRec := []
  /-- Lowest base slack of the running 10 ms interval and of the latest one (R40, R509). -/
  intervalMin : Nat := 1000
  latestMin : Nat := 1000
  /-- The alarm has been raised in this interval; runs of intervals with and without it; CAPACITY stands (R42). -/
  alarmNow : Bool := false
  alarmRun : Nat := 0
  quietRun : Nat := 0
  capacity : Bool := false
  /-- RAW times of missed deadlines in the last 3,600 s, newest first; the frond that last held work at the miss of
  the previous frame (R44). -/
  misses : List Nat := []
  lastMiss : Option (Nat × Nat) := none
  /-- Frames of slack recorded since the fronds became ready (R518). -/
  slackFrames : Nat := 0
  /-- A spare move waits for the boundary: the frond to be vacated, and that a copied word failed (R34). -/
  spareMove : Option (Nat × Bool) := none
  deriving DecidableEq, Repr
/-- Which memory a burst or access is about: the read-only words and writable memories of R416, as sparse bytes. -/
structure Mem where
  /-- Control SRAM, mailbox memory (rings, event ring, windows), twin-link buffers, bulk memory by logical address,
  retention memory, boot flash (configuration area), boot ROM. -/
  sram : Memory := []
  mbx : Memory := []
  twl : Memory := []
  bulk : Memory := []
  ret : Memory := []
  flash : Memory := []
  rom : Memory := []
  /-- Poisoned words: memory (0 control SRAM, 1 bulk by logical address) and word number (R364). -/
  poison : List (Nat × Nat) := []
  deriving DecidableEq, Repr

/-- A burst that waits at a bank group (R425, R426). -/
structure Burst where
  req : Nat
  turns : Nat
  write : Bool := false
  addr : Nat := 0
  bytes : List Byte := []
  /-- RAW at which it entered the queue, and that it has been reported starved (R431). -/
  since : Nat := 0
  starved : Bool := false
  deriving DecidableEq, Repr

/-- A burst in progress: turns done, and whether it runs as an owner's burst (R428, R429). -/
structure Running where
  burst : Burst
  done : Nat
  owner : Bool
  deriving DecidableEq, Repr

/-- One bank group of the arbiter (R427 to R433). -/
structure Group where
  /-- Entry number to requester code and lock; an entry that is not listed is OPEN and unlocked. -/
  slots : Tbl (Nat × Bool) := []
  index : Nat := 0
  /-- Pending bursts, oldest first, of every requester. -/
  queue : List Burst := []
  running : Option Running := none
  lastBg : Nat := 40
  /-- The background holder's consecutive turns (R430). -/
  holder : Option Nat := none
  holds : Nat := 0
  /-- Requester to turns for which it is still barred. -/
  bar : Tbl Nat := []
  starve : Nat := 0
  frozen : Bool := false
  /-- RAW at the freeze in force, from which the starvation timers stand still (R432). -/
  frozenAt : Nat := 0
  turns : Tbl Nat := []
  deriving DecidableEq, Repr

/-- A hardware semaphore (R434, R435). -/
structure Sem where
  held : Bool := false
  abandoned : Bool := false
  master : Nat := 0
  tag : Nat := 0
  deriving DecidableEq, Repr

/-- A DMA channel (R436 to R441, R508). -/
structure Dma where
  desc : Nat := 0
  /-- 0 IDLE, 1 RUNNING, 2 EMPTY, 3 ABORTED_IDLE, 4 STOPPED, 5 BAD_START. -/
  state : Nat := 0
  last : Nat := 0
  current : Nat := 0
  count : Nat := 0
  abort : Bool := false
  deriving DecidableEq, Repr

/-- Bus matrix, arbiter, semaphores, DMA (15). -/
structure Arb where
  group : Tbl Group := []
  /-- Background ranks and matrix priorities that differ from the default (R426, R421). -/
  rank : Tbl Nat := []
  prio : Tbl Nat := []
  /-- The master that each target of the bus matrix granted last (R422). -/
  granted : Tbl Nat := []
  hogMax : Nat := 16
  starveUs : Nat := 50
  hog : Nat := 0
  /-- ARB_FREEZE and FREEZE_DENIED (R510). -/
  freeze : Nat := 0
  freezeDenied : Nat := 0
  sem : Tbl Sem := []
  badRelease : Nat := 0
  abandoned : Nat := 0
  dma : Tbl Dma := []
  deriving DecidableEq, Repr
/-- The twin link's own state (R342 to R347). -/
structure Link where
  up : Bool := false
  /-- Active lane sets of transmit and receive (R342). -/
  txSet : Nat := 0
  rxSet : Nat := 0
  /-- BIP-8 errors: RAW times within 1 s, by lane; alignment blocks received; a set that waits for a count. -/
  bip : Tbl (List Nat) := []
  align : Nat := 0
  nextSet : Option (Nat × Nat) := none
  /-- Next sequence number to send and expected; messages not acknowledged, oldest first: number, message, RAW of the
  first sending, sent twice. -/
  txSeq : Nat := 0
  rxSeq : Nat := 0
  unacked : List (Nat × LinkMsg × Nat × Bool) := []
  /-- Messages that wait for the window, in order of arrival (R345, R346). -/
  queue : List LinkMsg := []
  /-- A LINK_NAK has answered the present gap; receptions not acknowledged. -/
  nakked : Bool := false
  ackDue : Bool := false
  /-- RAW of the latest valid message; the latest TIME received: its sending and its reception, in 2^−16 ns (R347). -/
  aliveAt : Nat := 0
  latest : Option (Int × Int) := none
  /-- Counters of PAIR.LINK: retransmissions, CRC failures, lane drops, protocol violations. -/
  retx : Nat := 0
  crcFail : Nat := 0
  laneDrops : Nat := 0
  protocol : Nat := 0
  /-- Settings of R347: timeout and interval in µs, retransmission timer in µs, asymmetry in ps. -/
  timeoutUs : Nat := 1000
  intervalUs : Nat := 100
  retxUs : Nat := 8
  asym : Int := 0
  deriving DecidableEq, Repr

/-- A forwarded transaction (R329, R468): its origin slot and sequence number, content, and outcome once known. -/
structure Txn where
  id : Nat
  /-- Serial number of the origin engine. -/
  origin : Nat
  slot : Nat
  seq : Nat
  edits : List Edit := []
  changes : List Change := []
  sentAt : Nat := 0
  acked : Bool := false
  frame : Option Nat := none
  status : Nat := 0
  /-- The action that it carries out (R139, R141). -/
  action : Option Nat := none
  /-- The partner was out of step when it committed (R330). -/
  alone : Bool := false
  deriving DecidableEq, Repr

/-- A pair of signatures of a frame (R331, R349): own and partner's three, result 0 agree, 1 differ, 2 not compared. -/
structure SigRec where
  frame : Nat
  own : Option (Nat × Nat × Nat) := none
  partner : Option (Nat × Nat × Nat) := none
  invalid : Bool := false
  /-- Severity of the local detections that count for the frame, on each side (R332). -/
  ownDet : Nat := 0
  partnerDet : Nat := 0
  result : Nat := 2
  deriving DecidableEq, Repr

/-- Twin pairing (12). -/
structure PairCtl where
  /-- State by the row order of R323: 0 SEEKING, 1 HANDSHAKE, 2 REFUSED, 3 SYNCING, 4 IN_STEP, 5 OUT_OF_STEP. -/
  state : Nat := 0
  /-- Refusal reason (R488). -/
  reason : Nat := 0
  /-- Level driven on ACTIVE, and PARTNER_ACTIVE at the latest sample tick (R321, R509). -/
  activeOut : Bool := false
  partnerIn : Bool := false
  /-- ACTIVE is to drop at the next sample tick (R334), or to rise. -/
  dropDue : Bool := false
  /-- The partner was IN_STEP at the latest frame boundary (R322, R359). -/
  stepAtBoundary : Bool := false
  /-- Sample ticks in a row at which PARTNER_ACTIVE read low, and RAW since when. -/
  lowTicks : Nat := 0
  lowSince : Nat := 0
  /-- RAW of the latest instant IN_STEP; of the switch-over request that waits (R359). -/
  stepAt : Option Nat := none
  requestAt : Option Nat := none
  /-- This engine has driven ACTIVE, or read PARTNER_ACTIVE high, since reset: it is past its start-up (R321). -/
  placed : Bool := false
  /-- ACTIVE is to drop at the next tick because both engines drive it (R341). -/
  roleDrop : Bool := false
  /-- ACTIVE as it stood when the latest sample tick came: drivers release at the first frame start edge after the tick
  that follows a drop (R242). -/
  wasActive : Bool := false
  /-- Samples of the ramp with which a forced switch-over gives up control (R333). -/
  giveUp : Nat := 0
  /-- A planned switch-over's frame, and that it is forced (R333). -/
  switchAt : Option Nat := none
  forced : Bool := false
  /-- The active engine has announced that it hands over for a fault: the pair leaves step when this one takes over (R334). -/
  handover : Bool := false
  /-- Settings of PAIR.CONFIG (R340). -/
  enable : Bool := true
  autoReturn : Bool := true
  adopt : Bool := true
  restoreS : Nat := 60
  /-- Handshake (R324): this engine is the source; step under way; RAW of its start; verdicts of own and partner. -/
  source : Bool := false
  step : Nat := 0
  stepSince : Nat := 0
  passed : Nat := 0
  partnerPassed : Nat := 0
  hello : Option Hello := none
  /-- The latest HELLO of all: what is known of the partner's identity (R237, R251). -/
  partner : Option Hello := none
  /-- Configuration sections received (R324), and the frame at which they are adopted; Δ; the partner's hash. -/
  config : Tbl (List Edit × List Change) := []
  adoptAt : Option Nat := none
  delta : Int := 0
  partnerHash : List Byte := []
  /-- A change of the shared configuration has taken effect: a handshake that depends on it runs again (R326). -/
  changed : Bool := false
  /-- Step 6 (R324): the joiner follows the source's time from there on; it has stepped its time and realigned; the
  boundaries lie within 100 ns. -/
  joined : Bool := false
  stepped : Bool := false
  near : Bool := false
  /-- The joiner has adopted the configuration and has still to send its hash (R324). -/
  adopted : Bool := false
  /-- The partner's latest HEARTBEAT: state, ACTIVE driven, PARTNER_ACTIVE read, severity. -/
  peer : Option (Nat × Bool × Bool × Nat) := none
  refusedAt : Nat := 0
  /-- State copy (R337): round, final frame, agreeing frames, failures in a row, progress. -/
  round : Nat := 0
  copying : Bool := false
  finalFrame : Option Nat := none
  agreed : Nat := 0
  copyFails : Nat := 0
  copyFailAt : Nat := 0
  progress : Nat := 0
  /-- RAW at which the wait-to-restore began (R340). -/
  restoreAt : Option Nat := none
  /-- Transactions in progress, the next number, and the last 64 finished from each slot, newest first (R468). -/
  txns : List Txn := []
  nextTxn : Nat := 1
  applied : List Txn := []
  /-- Signature records, newest first, at most 64; unattributed mismatches in the last 3,600 s; local detections as
  frame and severity. -/
  sigs : List SigRec := []
  diverged : List Nat := []
  detections : List (Nat × Nat) := []
  /-- Own RECON check values of a capture frame, the partner's, and sections still expected (R327). -/
  ownRecon : Tbl (List (Nat × Nat)) := []
  peerRecon : Tbl (List (Nat × Nat)) := []
  reconWait : List (Nat × Nat) := []
  /-- The active engine's EMERG state of the latest RECON (R150), and the ratio and phase of each bridged port for the latest
  four capture frames, by frame mod 4 × 128 + port (R96). -/
  partnerEmerg : Nat := 0
  asrc : Tbl (Nat × Nat) := []
  /-- Items whose fetch is under way (R274). -/
  fetching : List FetchItem := []
  /-- The identity of the partner's side is held (R278); the own identity is held. -/
  ownId : Bool := true
  link : Link := {}
  deriving DecidableEq, Repr
/-- A section of a ring (R61): the frame it belongs to, and its positions: packed words and validity. -/
structure Section61 where
  frame : Nat := 0
  valid : Bool := true
  /-- The slots by which its words are packed (R61, R62). -/
  mask : Nat := 0
  pos : Tbl (List Nat × Bool) := []
  deriving DecidableEq, Repr

/-- A serial audio port (09). -/
structure Port where
  /-- None: the reset configuration, which follows the engine's rate (R244). -/
  cfg : Option PortCfg := none
  inOn : Bool := false
  outOn : Bool := false
  /-- 0 disabled, 1 awaiting clocks, 2 running, 3 restarting (R485). -/
  state : Nat := 0
  /-- The configuration a restart brings, and samples of its ramp so far (R244). -/
  next : Option PortCfg := none
  stopRamp : Nat := 0
  /-- The port has stopped for a restart: its slots are absent until the restart is done (R244). -/
  away : Bool := false
  /-- Sample periods by which slips have moved the assignment of edges (R229, R245). -/
  slipAt : Int := 0
  /-- Port frames seen towards lock; recorded phase (R229). -/
  lockCount : Nat := 0
  phi0 : Option Nat := none
  /-- RAW of the latest frame start edge; port frames since the enabling commit (R232). -/
  lastEdge : Option Nat := none
  frames : Nat := 0
  /-- Phase of the latest frame start edge (R96), and the edges of a foreign-rate port in a frame so far (R225). -/
  phase : Nat := 0
  taken : Nat × Nat := (0, 0)
  /-- Rate measurement (R231): start stamp and frames so far; a finished interval; spans a time step. -/
  measAt : Option Nat := none
  measN : Nat := 0
  measDone : Option (Nat × Bool) := none
  measStep : Bool := false
  rateNow : Option Nat := none
  rateRef : Option Nat := none
  lost : Bool := false
  threshold : Nat := 100
  /-- Block stamps (R232): length, port frame count with TIME_NS and TIME_WRAPS, newest first; discards. -/
  tsLen : Nat := 256
  stamps : List (Nat × Nat × Nat) := []
  tsLost : Nat := 0
  inHold : HoldStage := {}
  outHold : HoldStage := {}
  /-- Captured port frames by the sample period that their writing falls in (R25, R229); the next period to finalise. -/
  cap : Tbl (List Nat) := []
  inRing : Tbl Section61 := []
  outRing : Tbl Section61 := []
  /-- Words loaded at the latest sample ticks, by sample period and physical slot, and whether they are the slots' valid
  samples (R25, R235); those of a foreign-rate port stand at period 0. -/
  loaded : Tbl (List Nat × Bool) := []
  /-- Words in the shifter, the slots that leave DOUT in high impedance (R225), and the pins (R223). -/
  shift : List Nat := []
  floating : List Nat := []
  wire : Wire := {}
  /-- The port's drivers are on (R241, R242). -/
  driving : Bool := false
  /-- Runs of wrong and of correct port frames; 16 wrong ones in a row stand (R245). -/
  wrongRun : Nat := 0
  rightRun : Nat := 0
  wrongLong : Bool := false
  /-- DOUT is released for contention until a block reads back right; port frames that matched so far (R245). -/
  contended : Bool := false
  matched : Nat := 0
  violations : Nat := 0
  slips : Nat := 0
  /-- Net latency change by slips, in samples (R245). -/
  slipNet : Int := 0
  markErrors : Nat := 0
  parityErrors : Nat := 0
  /-- Marking (R235 to R240). -/
  sender : Nat := 0
  markTx : Tbl MarkTx := []
  markRx : Tbl MarkRx := []
  expect : Tbl Expect := []
  proofLeft : Nat := 0
  deriving DecidableEq, Repr

/-- An MCLK output (R228). -/
structure Mclk where
  gen : Nat := 0
  mult : Nat := 256
  /-- A source and multiplier that wait for a frame start edge of the new source. -/
  next : Option (Nat × Nat) := none
  deriving DecidableEq, Repr

/-- A path proof in progress (R239): the request it answers, outputs and inputs, and RAW at its start. -/
structure Proof where
  slot : Nat
  seq : Nat
  outs : List (Nat × Nat)
  ins : List (Nat × Nat)
  at_ : Nat := 0
  /-- The request is an item of the nightly window (R372). -/
  nightly : Bool := false
  deriving DecidableEq, Repr

/-- Serial audio ports, generators and master-clock outputs (09). -/
structure Ports where
  port : Tbl Port := []
  pcg : Tbl Pcg := []
  /-- Outputs that PORT.MCLK has set up. -/
  mclk : Tbl Mclk := []
  /-- MCLK_OUT0 to MCLK_OUT3 are driven (R241). -/
  mclkOn : Bool := false
  proof : Option Proof := none
  /-- Violations in progress by (port × 64 + slot) × 256 + kind, slot 32 for the port as a whole (R245). -/
  standing : List Nat := []
  deriving DecidableEq, Repr
/-- What NET.CONFIG sets (R250, R253, R268, R279, R464). -/
structure NetCfg where
  /-- 0 10 Gb/s, 1 25 Gb/s, 2 NET4 auto, 3 1000, 4 100, 5 10 Mb/s. -/
  speed : Nat := 0
  fec : Nat := 0
  stepDown : Bool := true
  ip : Nat := 0
  prefixLen : Nat := 0
  gateway : Nat := 0
  vlan : Nat := 0
  ttl : Nat := 64
  serilPort : Nat := 46200
  deriving DecidableEq, Repr

/-- A gate control list with its cycle and start time in ns of the full time (R255). -/
structure GateList where
  cycle : Nat
  start : Nat
  entries : List GateEntry
  deriving DecidableEq, Repr

/-- A network port (10). -/
structure NetPort where
  cfg : NetCfg := {}
  up : Bool := false
  /-- RAW times of the link's losses in the last 60 s (R280). -/
  flaps : List Nat := []
  /-- NET4's negotiated speed in Mb/s, its step in progress (target), a step up that follows a step down in progress,
  and RAW of its latest step up (R279). -/
  rate : Nat := 0
  stepping : Option Nat := none
  upNext : Bool := false
  lastUp : Option Nat := none
  /-- Gate lists in force and accepted; index of the entry in force and its end in ns (R255). -/
  gates : Option GateList := none
  nextGates : Option GateList := none
  gateIndex : Nat := 0
  gateEnd : Nat := 0
  /-- Preemption (R258): state 0 inactive, 1 verifying, 2 active, 3 FAILED; verify frames sent. -/
  preempt : Bool := false
  verify : Bool := true
  verifyMs : Nat := 10
  fragSize : Nat := 0
  preState : Nat := 0
  verifySent : Nat := 0
  /-- SetAndHoldMAC holds the preemptible frames (R254). -/
  held : Bool := false
  /-- Frames that wait for their gates, with their queue, oldest first; media packets wait with their streams (R252). -/
  queue : List (Nat × List Byte) := []
  /-- The partner's identity on this port's side is claimed (R278). -/
  claimed : Bool := false
  /-- Counters in the order of NET.STATUS (R486). -/
  counters : List Nat := [0, 0, 0, 0, 0, 0, 0, 0, 0, 0]
  /-- Control packets of the present second and its start (R280). -/
  ctrlN : Nat := 0
  ctrlAt : Nat := 0
  /-- Addresses in conflict, with the RAW of the latest defence (R280). -/
  conflicts : Tbl Nat := []
  /-- Groups joined, by group address: the sources included, none listed for any (R275); the records of a change whose
  second report is due, by group: old and new filter; IGMP compatibility version and RAW of the latest older query. -/
  groups : Tbl (List Nat) := []
  repeats : Tbl (Option (List Nat) × Option (List Nat)) := []
  igmpVer : Nat := 3
  igmpAt : Nat := 0
  deriving DecidableEq, Repr

/-- A built transmit packet (R268): media-clock count of its first sample, RTP fields and payload. -/
structure Packet where
  count : Nat
  seq : Nat
  stamp : Nat
  ssrc : Nat
  payload : List Byte
  deriving DecidableEq, Repr

/-- A transmit stream (R263, R267, R268). -/
structure TxStream where
  cfg : StreamCfg
  /-- Samples of the packet in the making: count of its first sample, values per sample, a sample of an invalid frame. -/
  count : Nat := 0
  acc : List (List Int) := []
  spoiled : Bool := false
  /-- Built and not yet released; released and still in queue 6, by path index. -/
  built : List Packet := []
  queued : Tbl Packet := []
  packets : List Nat := [0, 0]
  late : Nat := 0
  deriving DecidableEq, Repr

/-- A path of a receive stream in service (R270 to R272). -/
structure PathState where
  up : Bool := false
  /-- A valid packet came since the latest update; 125 µs steps without one. -/
  arrived : Bool := false
  timer : Nat := 0
  /-- Extended sequence numbers held, the highest, SSRC, run of EARLY packets. -/
  hist : List Nat := []
  high : Option Nat := none
  ssrc : Option Nat := none
  earlyRun : Nat := 0
  packets : Nat := 0
  duplicate : Nat := 0
  late : Nat := 0
  early : Nat := 0
  merged : Nat := 0
  mismatch : Nat := 0
  deriving DecidableEq, Repr

/-- A packet placed in a buffer (R270, R274): count of its first sample, samples, CRC, path, agreed with the partner. -/
structure Placed62 where
  count : Nat
  samples : Nat
  crc : Nat
  path : Nat
  payload : List Byte := []
  deriving DecidableEq, Repr

/-- A receive stream (R263, R269 to R274). -/
structure RxStream where
  cfg : StreamCfg
  st : List PathState := [{}, {}]
  /-- Jitter buffer: media-clock count to the samples of every channel. -/
  buf : Tbl (List Int) := []
  placed : List Placed62 := []
  /-- Concealment (R273): run of empty positions, fade-in position (32 when done), last delivered samples. -/
  empties : Nat := 0
  fade : Nat := 32
  held : List Int := []
  concealed : Nat := 0
  /-- Samples delivered to the capture frame in progress, oldest first, and the frames captured before it. -/
  out : List (List Int) := []
  sec : Tbl (List (List Int)) := []
  deriving DecidableEq, Repr

/-- A stream table entry (R260). -/
structure TableEntry where
  valid : Bool := false
  port : Nat := 0
  dst : Nat := 0
  udp : Nat := 0
  src : Nat := 0
  stream : Nat := 0
  path : Nat := 0
  hits : Nat := 0
  last : Nat := 0
  deriving DecidableEq, Repr

/-- The media network (10). -/
structure Net where
  port : Tbl NetPort := []
  tx : Tbl TxStream := []
  rx : Tbl RxStream := []
  table : Tbl TableEntry := []
  /-- PCP and DSCP by class in the row order of R252, and the control-class queue. -/
  pcp : List Nat := [6, 5, 4, 0]
  dscp : List Nat := [46, 34, 48, 0]
  ctrlQueue : Nat := 5
  /-- Arrivals stated at their reconcile points, and the partner's, until both sides of one are known (R274). -/
  reconOwn : List Arrival := []
  reconPeer : List Arrival := []
  /-- RAW since which PARTNER_ACTIVE is low and the twin link down (R278). -/
  aloneSince : Option Nat := none
  deriving DecidableEq, Repr
/-- A reference candidate (R303, R304): settings, and state 0 disabled, 1 invalid, 2 qualifying, 3 waiting to restore,
4 selectable. -/
structure Cand where
  priority : Nat := 0
  window : Nat := 10
  restore : Nat := 60
  /-- The signal of the candidate's row is there; its frequency lies outside ±500 ppm; both make it valid or not. -/
  signal : Bool := false
  outOfRange : Bool := false
  valid : Bool := false
  qualified : Bool := false
  waiting : Bool := false
  /-- RAW at which the running window or wait began; it has disqualified since reset. -/
  since : Nat := 0
  dropped : Bool := false
  /-- RAW at which it qualified (R308). -/
  qualAt : Nat := 0
  deriving DecidableEq, Repr

/-- A trigger (R310 to R313). Times in ns of the full time. -/
structure Trigger where
  cfg : Option TrigCfg := none
  /-- The next firing time. -/
  time : Nat := 0
  /-- The comparator holds a firing time; LATE and missed firings for the next one; lateness. -/
  handed : Bool := false
  late : Bool := false
  missed : Nat := 0
  lateNs : Nat := 0
  /-- A pulse in progress: its end in RAW; a rewrite that waits for it. -/
  pulseEnd : Option Nat := none
  waiting : Option TrigCfg := none
  deriving DecidableEq, Repr

/-- A leader heard in announce messages (R298): its port identity, the dataset that the BMCA compares, and the RAW times
of its two latest announces. -/
structure Foreign where
  src : Nat
  gm : Nat
  /-- priority1, clockClass, accuracy, variance, priority2. -/
  rank : List Nat
  steps : Nat
  utcOffset : Int := 0
  leap59 : Bool := false
  leap61 : Bool := false
  last : Nat := 0
  prev : Option Nat := none
  deriving DecidableEq, Repr

/-- A PTP instance (R298 to R302). Times in 2^−16 ns. -/
structure Ptp where
  /-- 0 listening, 1 follower of `leader`, 2 leader, 3 passive. -/
  role : Nat := 0
  leader : Option Nat := none
  gm : Option Nat := none
  foreign : List Foreign := []
  /-- A follower in SLAVE state: it has had a usable exchange. -/
  slave : Bool := false
  /-- A two-step Sync that awaits its Follow_Up: sequence number, t2, correction. -/
  await : Option (Nat × Int × Int) := none
  /-- t2 − t1 with its correction of the latest Sync; t4 − t3 of the latest delay exchange. -/
  ms : Option Int := none
  sm : Option Int := none
  /-- The Delay_Req or Pdelay_Req sent: its sequence number and t3, or t1. -/
  req : Option (Nat × Int) := none
  /-- A two-step Pdelay_Resp: sequence number, its receipt time, correction, its arrival. -/
  resp : Option (Nat × Int × Int × Int) := none
  /-- Path delays of the last 16 exchanges, newest first. -/
  delays : List Int := []
  /-- Offset jumps beyond the step threshold, RAW times within 60 s (R316). -/
  jumps : List Nat := []
  /-- Sequence numbers of Sync, Announce and delay requests. -/
  seqSync : Nat := 0
  seqAnn : Nat := 0
  seqReq : Nat := 0
  deriving DecidableEq, Repr

/-- A holdover record (R306, R308): seconds, temperature in 0.01 °C, rate. -/
structure HoldRec where
  sec : Nat
  temp : Int
  rate : Int
  deriving DecidableEq, Repr

/-- Holdover models (R306 to R309); coefficients in 10^−15. -/
structure Holdover where
  c1 : Int := 0
  c2 : Int := 0
  c3 : Int := 0
  a : Int := 0
  b : Int := 0
  /-- 0 none, 1 LEARNING, 2 learned, 3 written. -/
  state : Nat := 0
  epoch : Option Nat := none
  recs : List HoldRec := []
  /-- Averages on entry: rate, temperature in 0.01 °C, time in s. -/
  rAvg : Int := 0
  tempAvg : Int := 0
  timeAvg : Nat := 0
  /-- The LOCKED period was too short for an average: the rate stays (R306). -/
  keep : Bool := false
  /-- Entry in RAW, and rate history of the LOCKED period once per second: rate, temperature, second. -/
  since : Nat := 0
  hist : List HoldRec := []
  /-- Present temperature in 0.01 °C, sensor 0 on-chip, 1 I²C; failed reads in a row. -/
  temp : Int := 2500
  sensor : Nat := 0
  fails : Nat := 0
  /-- Coefficients, epoch and last rate as stored in the boot flash. -/
  stored : Option (List Int × Nat × Int) := none
  deriving DecidableEq, Repr

/-- Servo, references, PTP, holdover, triggers and clock outputs (11). -/
structure TimeState where
  /-- 0 FREERUN, 1 ACQUIRING, 2 LOCKED, 3 HOLDOVER, 4 MANUAL. -/
  state : Nat := 0
  lockedOnce : Bool := false
  sel : Option Nat := none
  cand : Tbl Cand := []
  sapPort : Nat := 0
  /-- Latest offset in 2^−16 ns, bias in ns, steps, integrator in rate units × 2^16. -/
  offset : Int := 0
  bias : Int := 0
  steps : Nat := 0
  integ : Int := 0
  /-- Consecutive measurements within the lock limit, and beyond four times it. -/
  within : Nat := 0
  beyond : Nat := 0
  stepThr : Nat := 1000000
  slope : Nat := 200
  bw : List Nat := [50, 100, 500, 10000]
  damping : Nat := 100
  raw : List (Nat × Nat) := [(0, 0), (0, 0), (0, 0), (0, 0)]
  alignTol : Nat := 1000
  avgWindow : Nat := 600
  trig : Tbl Trigger := []
  fired : Nat := 0
  /-- TRIG_INT_ENABLE (R505). -/
  trigInt : Nat := 0
  ptpCfg : PtpCfg := {}
  ptp : Tbl Ptp := []
  hold : Holdover := {}
  /-- CLOCK.OUTPUTS: modes, PPS enable, pulse width in µs. -/
  wclk0 : Nat := 0
  wclk1 : Nat := 0
  pps : Bool := false
  ppsUs : Nat := 100000
  /-- Latest PPS_IN pulse in RAW. -/
  ppsAt : Option Nat := none
  deriving DecidableEq, Repr
/-- An NVMe controller below the root port (R382 to R388). -/
structure Ctrl where
  /-- 0 absent, 1 in use, 2 UNSUPPORTED, 3 lost. -/
  state : Nat := 0
  linkUp : Bool := false
  downAt : Nat := 0
  /-- Queues granted and their depth; the controller supports deallocation; link generation and width. -/
  queues : Nat := 0
  depth : Nat := 0
  dealloc : Bool := false
  link : Nat := 0
  /-- A reset is in progress; RAW of resets in the last 600 s. -/
  resetting : Bool := false
  resets : List Nat := []
  /-- Identified capacity in blocks and namespace ID. -/
  capacity : Nat := 0
  nsId : Nat := 0
  deriving DecidableEq, Repr

/-- A namespace of the store (R389 to R392); its label. -/
structure Namespace where
  ctrl : Nat
  group : Nat
  copy : Nat
  segCode : Nat
  base : Nat
  extents : Nat
  storeId : Nat := 0
  generation : Nat := 1
  anchorSeq : Nat := 0
  anchorHash : List Byte := []
  holds : List (Nat × Nat × Nat) := []
  lost : Bool := false
  deriving DecidableEq, Repr

/-- A segment complete in staging that no copy holds yet (R394, R399, R400): what its header says. -/
structure SegData where
  /-- 1 AUDIO, 2 GAP, 3 EVENT. -/
  type : Nat
  final : Bool := false
  track : Nat
  rate : Nat
  b : Nat
  /-- Network time in ns and media-clock count of its first sample. -/
  time : Nat
  count : Nat
  trackSeq : Nat
  /-- Length of a gap in samples, or slots discarded; cause of a gap; event code. -/
  length : Nat := 0
  cause : Nat := 0
  event : Nat := 0
  payload : List Byte := []
  deriving DecidableEq, Repr

/-- A segment on the media of one copy (R398, R399): store address, header, payload, durable. -/
structure Seg where
  addr : Nat
  header : List Byte
  payload : List Byte := []
  durable : Bool := false
  /-- Track and samples of an AUDIO segment whose staging space its writes free. -/
  track : Nat := 0
  samples : Nat := 0
  /-- Recovery discarded it (R404), or a read found its payload or chain broken. -/
  discarded : Bool := false
  bad : Nat := 0
  deriving DecidableEq, Repr

/-- An open or closed extent of a copy (R398, R401). -/
structure Extent where
  index : Nat
  seq : Nat
  opened : Nat
  header : List Byte
  firstSeq : Nat
  used : Nat := 1
  deriving DecidableEq, Repr

/-- One copy of a group (R390). -/
structure Copy where
  lost : Bool := false
  extents : List Extent := []
  segs : Tbl Seg := []
  hash : List Byte := List.replicate 32 0
  /-- Segments written while the other copy was lost, still to be copied. -/
  catchUp : List Nat := []
  deriving DecidableEq, Repr

/-- A write group (R390). -/
structure WriteGroup where
  segCode : Nat := 0
  chainSeq : Nat := 0
  extSeq : Nat := 0
  a : Copy := {}
  b : Copy := {}
  mirrored : Bool := false
  /-- Complete segments that wait for an extent or a copy, oldest first. -/
  waiting : List SegData := []
  /-- Tracks whose record ended without STOP: the sample after the last kept one and its time (R404). -/
  broken : Tbl (Nat × Nat) := []
  deriving DecidableEq, Repr

/-- A recorder track (R393 to R396). -/
structure Track where
  group : Nat := 0
  armed : Bool := false
  recording : Bool := false
  /-- Samples of the segment in progress, oldest first, and its first media-clock count and time in ns. -/
  acc : List Int := []
  count : Nat := 0
  time : Nat := 0
  /-- Samples of complete segments whose writes have not completed. -/
  unwritten : Nat := 0
  /-- A gap in progress: first missing count, time, length, cause. -/
  gap : Option (Nat × Nat × Nat × Nat) := none
  seq : Nat := 0
  lastCount : Nat := 0
  deriving DecidableEq, Repr

/-- What a tag's command is for (R387). -/
inductive TagFor where
  | fetch (clip block copy : Nat)
  | extent (group copy : Nat)
  | object (kind id version : Nat)
  | segment (group copy seq : Nat)
  | label (ns : Nat)
  | other (slot seq : Nat)
  deriving DecidableEq, Repr

/-- A command in flight or waiting (R386 to R388): its class 0 player, 1 recorder, 2 shared. -/
structure NvmeCmd where
  cls : Nat
  ctrl : Nat
  /-- 1 Write, 2 Read, 0 Flush, 9 Dataset Management. -/
  opcode : Nat
  addr : Nat
  len : Nat
  bytes : List Byte := []
  for_ : TagFor
  /-- Play deadline, segment age or arrival, by class. -/
  order : Nat := 0
  gen : Nat := 0
  sentAt : Nat := 0
  aborted : Option Nat := none
  retries : Nat := 0
  deriving DecidableEq, Repr

/-- A clip (R405). -/
structure Clip where
  rate : Nat
  samples : Nat
  version : Nat
  crc : Nat
  pinned : Bool := false
  body : List Byte := []
  deriving DecidableEq, Repr

/-- A version of an object that its copies do not hold yet (R135, R405): 1 clip, 2 scene, with the clip's rate or the scene's
flags. -/
structure Storing where
  kind : Nat
  id : Nat
  version : Nat
  tag : Nat
  name : List Byte := []
  body : List Byte
  deriving DecidableEq, Repr

/-- A block of the player cache (R407). -/
structure CacheBlock where
  clip : Nat
  index : Nat
  used : Nat
  chosen : Bool := false
  deriving DecidableEq, Repr

/-- A read cursor (R410 to R412). -/
structure Cursor where
  group : Nat
  copy : Nat
  /-- Tracks chosen, none for all. -/
  tracks : Option Nat := none
  /-- Token of the next page, and of the page before it. -/
  token : Nat
  prev : Option Nat := none
  readAt : Nat := 0
  /-- 0 alive, 1 IDLE, 2 OVERWRITTEN. -/
  expired : Nat := 0
  deriving DecidableEq, Repr

/-- A request that is answered once labels are written (R403): it waits for its change first, then for the namespaces. -/
structure PeatWait where
  slot : Nat
  seq : Nat
  code : Nat
  group : Nat
  started : Bool := false
  ns : List Nat := []
  data : List Byte := []
  deriving DecidableEq, Repr

/-- Peat (14). -/
structure Peat where
  ctrl : Tbl Ctrl := []
  ns : Tbl Namespace := []
  group : Tbl WriteGroup := []
  track : Tbl Track := []
  /-- In flight by tag; waiting, in order of arrival; generations of the tags. -/
  cmds : Tbl NvmeCmd := []
  waiting : List NvmeCmd := []
  gens : Tbl Nat := []
  clip : Tbl Clip := []
  /-- Object extents of the system group in use: kind (1 clip, 2 scene), ID and version (R405). -/
  objects : Tbl (Nat × Nat × Nat) := []
  /-- Versions that are being written and read back (R135). -/
  storing : List Storing := []
  voice : Tbl Voice := []
  cache : List CacheBlock := []
  cursor : Tbl Cursor := []
  /-- PEAT.QUEUES: queues, depth, timeout in ms; minimum retention in days. -/
  queues : Nat := 4
  depth : Nat := 256
  timeoutMs : Nat := 2000
  retention : Nat := 0
  /-- Read-ahead in ms and cursor idle time in s (R407, R412). -/
  readAhead : Nat := 500
  idleS : Nat := 60
  gaps : Nat := 0
  /-- Tracks that staging is divided among (R394). -/
  shares : Nat := 0
  storeId : Nat := 0
  /-- Requests that wait for labels, and those whose voice has still to start at its time (R406): slot and sequence number. -/
  waits : List PeatWait := []
  playFor : Tbl (Nat × Nat) := []
  deriving DecidableEq, Repr
/-- A 12 V feed and its monitor (R511, R513). -/
structure Feed where
  mv : Nat := 0
  lost : Bool := false
  /-- RAW since which it is out of the loss bounds, and since which it is within the return bounds. -/
  badSince : Option Nat := none
  goodSince : Option Nat := none
  /-- RAW at which it was lost. -/
  lostAt : Nat := 0
  deriving DecidableEq, Repr

/-- A power stage (R512). -/
structure Stage where
  ma : Nat := 0
  /-- Temperature in 0.01 °C. -/
  temp : Int := 0
  healthy : Bool := true
  /-- RAW since which its current differs from the mean. -/
  diffSince : Option Nat := none
  hot : Bool := false
  deriving DecidableEq, Repr

/-- The ageing record (R378, R379). -/
structure Ageing where
  /-- VCORE samples of the running hour, one per servo interval, and Tj sums; V90 values of the day; daily means. -/
  hour : List Nat := []
  tjSum : Int := 0
  tjN : Nat := 0
  direct : Bool := false
  day : List Nat := []
  days : List Nat := []
  v90ref : Option Nat := none
  a : Nat := 0
  n : Nat := 0
  margin : Nat := 1000
  forecast : Nat := 0
  /-- Whole per cent of the latest AGEING_MARGIN, while it stands. -/
  told : Option Nat := none
  deriving DecidableEq, Repr

/-- A firmware slot's image as it stands in the boot flash (R523, R525). -/
structure FwSlot where
  bytes : List Byte := []
  deriving DecidableEq, Repr

/-- Power, reset, boot and package pins (19, 20). -/
structure Power where
  /-- VCORE in µV, the value it moves to under direct control, and the slack target in 0.1 % (R40, R518). -/
  vcore : Nat := 0
  direct : Option Nat := none
  handed : Bool := false
  target : Nat := 350
  /-- Feeds 0 A and 1 B, stages 0 to 7, RAW since which both are lost. -/
  feeds : List Feed := [{}, {}]
  stages : List Stage := [{}, {}, {}, {}, {}, {}, {}, {}]
  bothAt : Option Nat := none
  /-- Latest readings of the rails in µV, in the order of the rail check; those out of window; nominal mV of the I/O
  banks as detected (R516); VCORE has been out of its window since. -/
  rails : List Nat := [0, 0, 0, 0, 0, 0, 0, 0, 0, 0, 0]
  railBad : List Nat := []
  bankMv : List Nat := [0, 0, 0, 0, 0]
  vcoreBadSince : Option Nat := none
  /-- Fiddlehead has reached its step 3 (R530). -/
  up : Bool := false
  /-- Tj in 0.01 °C, and whether TJ_HIGH and TJ_CRITICAL stand. -/
  tj : Int := 0
  tjCrit : Bool := false
  /-- PWR_FLAGS (R509). -/
  flags : Nat := 0
  /-- Always-on domain (R515): it runs, its coarse time in ms and RAW when it was set, the cause of a last gasp, and what it froze: time, feeds in
  units of 10 mV. -/
  aon : Bool := false
  coarse : Nat := 0
  coarseAt : Nat := 0
  gasp : Option Nat := none
  gaspFrozen : Option (Nat × Nat × Nat) := none
  /-- Last-gasp ring of the boot flash: entries of 512 bytes, newest last; the sequence of the newest, and of the
  newest that Mladir has copied. -/
  ring : List (List Byte) := []
  ringSeq : Nat := 0
  ringRead : Nat := 0
  /-- Boot table: generation, confirmed, trial slot, attempts, rollback versions (R524). -/
  bootGen : Nat := 0
  confirmed : Nat := 0xFF
  trial : Nat := 0xFF
  attempts : Nat := 0
  rollA : Nat := 0
  rollB : Nat := 0
  slotA : FwSlot := {}
  slotB : FwSlot := {}
  running : Nat := 0xFF
  /-- The running image boots as a trial; RAW at which the 600 s began (R527). -/
  onTrial : Bool := false
  trialAt : Option Nat := none
  /-- OTP: anti-rollback fuses blown (R527), and the key hash, none where it is unprogrammed or fails its own check
  (R526; log entry 3). -/
  rollback : Nat := 0
  keyHash : Option Nat := some 0
  /-- Host delivery (R529): offered state, reason, bytes accepted, acknowledgement count, bytes; findings of the boot
  ROM that Mladir logs. -/
  bootState : Nat := 0
  bootReason : Nat := 0
  bootBytes : List Byte := []
  /-- The header of the image that runs, empty before a start (R525). -/
  header : List Byte := []
  bootAccepted : Nat := 0
  bootAck : Nat := 0
  bootAt : Nat := 0
  /-- The offer is the first one, under HOST_FIRST (R528). -/
  bootFirst : Bool := false
  findings : List (Nat × Nat) := []
  ageing : Ageing := {}
  /-- The TAP's instruction in force (R541): 0 BYPASS. -/
  tap : Nat := 0
  deriving DecidableEq, Repr
/-- A supervised zone (R375, R376): its state by the row order of R376 (0 NOT_DRIVEN, 1 UNCALIBRATED, 2 NO_PILOT,
3 HIGH_Z, 4 LOW_Z, 5 NORMAL), the state that consecutive readings have been in, and the judgement parameters. -/
structure Zone where
  state : Nat := 0
  cand : Nat := 0
  run : Nat := 0
  /-- Limits and hysteresis in 0.01, declare count in blocks. -/
  hi : Nat := 120
  lo : Nat := 80
  hyst : Nat := 5
  declare_ : Nat := 5
  /-- Calibration: D_cal and S_cal as amplitudes of the detector. -/
  cal : Option (Nat × Nat) := none
  /-- A calibration in progress: the requests it answers, blocks so far and their sums of D and S. -/
  calOn : Bool := false
  calFor : List (Nat × Nat) := []
  calN : Nat := 0
  calD : Nat := 0
  calS : Nat := 0
  deriving DecidableEq, Repr

/-- Supervision, self-test and repair (R364 to R377). -/
structure Supv where
  zone : Tbl Zone := []
  /-- SUPV.NIGHTLY: enabled, start in ns of the full time, period and length in s, read-back segments (R371, R373). -/
  enable : Bool := true
  start : Nat := 0
  periodS : Nat := 86400
  lengthS : Nat := 3600
  segments : Nat := 64
  /-- The item in progress (1 to 6), none outside a window; items still to run; results of the items so far. -/
  step : Option Nat := none
  todo : List Nat := []
  results : List Nat := [0, 0, 0, 0, 0, 0]
  /-- Results of the last window and the time in ns at which it ended. -/
  last : List Nat := [0, 0, 0, 0, 0, 0]
  lastEnd : Nat := 0
  /-- Items left over by the latest window, which the next one runs first (R374). -/
  left : List Nat := []
  /-- A window's start has been forwarded and waits for its boundary; the start of the latest window in ns. -/
  due : Bool := false
  begun : Option Nat := none
  /-- A word that the next move of a frond's tasks copies fails (R34; log entry 12). -/
  badMove : Bool := false
  /-- The window's proof began IN_STEP, and on the active engine (R374). -/
  proofPaired : Bool := false
  proofActive : Bool := false
  /-- The request of TEST.NIGHTLY_NOW that the window answers. -/
  asked : Option (Nat × Nat) := none
  /-- Store addresses whose read-back fails (log entry 12). -/
  readback : List Nat := []
  /-- Proofs of the window are to be retried once at its end (R374). -/
  retryProof : Bool := false
  /-- The bank and the frond of the night before; the bank whose migration is in progress; the frond under test. -/
  lastBank : Option Nat := none
  lastFrond : Option Nat := none
  migrating : Option Nat := none
  testing : Option Nat := none
  /-- A frond under test has failed once (R370). -/
  failedOnce : Bool := false
  /-- A march in progress: the memory and the request (R368). -/
  march : Option (Nat × Nat × Nat) := none
  /-- The OTP repair map: the entries programmed, as words, and whether each read back right (R367). -/
  otp : List (Nat × Bool) := []
  /-- Banks and fronds that the start-up march finds failing and cannot repair (R366; log entry 12). -/
  marchBanks : List Nat := []
  marchFronds : List Nat := []
  /-- Faults injected that no detection has met yet: fault, element, place (R380). -/
  injected : List (Nat × Nat × Nat) := []
  deriving DecidableEq, Repr
/-- The state of the engine. -/
structure State where
  pending : List Instr := []
  clk : Clock := {}
  sys : Sys := {}
  flt : FaultState := {}
  mbx : Mbx := {}
  int : IntState := {}
  page : Pages := {}
  scene : Scenes := {}
  route : Route := {}
  blk : Blocks := {}
  mix : Mix := {}
  frond : Fronds := {}
  mem : Mem := {}
  arb : Arb := {}
  pair : PairCtl := {}
  commit : Commits := {}
  port : Ports := {}
  net : Net := {}
  time : TimeState := {}
  peat : Peat := {}
  pwr : Power := {}
  supv : Supv := {}
  /-- What has left the engine (log entry 15), and the number of free values drawn (log entry 5). -/
  out : List Output := []
  free : Nat := 0
  deriving DecidableEq, Repr

/-- The machine right after reset. -/
def State.reset : State := {}

end Sys2Proof.Machine
end

