-- ==== Sys2Proof/Machine/Flags.lean ====
section
/-!
DEFINITION. Results of a frond core: when they become visible (R207, R208), the flags of SW and the conditions read from
them (R189, R192, R205).
-/
namespace Sys2Proof.Machine
open Sys2Proof

/-! ### Visibility of results -/

/-- Land one pending result in its register. -/
def Bank.land (b : Bank) (p : Pend) : Bank :=
  match p.target with
  | .acc i => { b with acc := b.acc.set i (BitVec.ofNat 56 p.value) }
  | .data i => { b with data := b.data.set i (BitVec.ofNat 24 p.value) }

/-- A result that a LOG2 or EXP2 landing now replaces (R208): a write to the same accumulator by one of the three
instructions after it, which is no LOG2 or EXP2 itself (that one lands later still). -/
def Bank.replaced (b : Bank) (p : Pend) : Bool :=
  !p.late && b.pend.any fun q => q.late && decide (q.slowAt ≤ b.time) && decide (q.target = p.target) &&
    decide (q.issued < p.issued) && decide (p.issued < q.slowAt)

/-- Results in flight without those that a landing LOG2 or EXP2 replaces (R208). -/
def Bank.dropReplaced (b : Bank) : Bank := { b with pend := b.pend.filter fun p => !b.replaced p }

/-- Bring a bank to its present instruction: every result due by now lands, in the order of issue (R207, R208). -/
def Bank.settle (b : Bank) : Bank :=
  let b := b.dropReplaced
  let due := b.pend.filter fun p => p.slowAt ≤ b.time
  let b := due.foldl Bank.land { b with pend := b.pend.filter fun p => b.time < p.slowAt }
  let sdue := b.swPend.filter fun p => p.at_ ≤ b.time
  sdue.foldl (fun b p => { b with sw := (b.sw &&& ~~~(BitVec.ofNat 24 p.clr)) ||| BitVec.ofNat 24 p.set })
    { b with swPend := b.swPend.filter fun p => b.time < p.at_ }

/-- An accumulator as every use but the accumulating one sees it. -/
def Bank.slow (b : Bank) (i : Nat) : W56 := b.acc.getD i 0

/-- An accumulator as an operation that writes the same one sees it (R207). -/
def Bank.fast (b : Bank) (i : Nat) : W56 :=
  match (b.pend.reverse.find? fun p => p.target = .acc i && p.fastAt ≤ b.time) with
  | some p => BitVec.ofNat 56 p.value
  | none => b.slow i

/-- A data register X0, X1, Y0 or Y1 (R202 numbering). -/
def Bank.dat (b : Bank) (i : Nat) : W24 := b.data.getD i 0

/-- A result of an operation: n + 1 for the same accumulator, n + 2 for every other use (R207). -/
def Bank.putOp (b : Bank) (i : Nat) (v : W56) : Bank :=
  { b with pend := b.pend ++ [{ target := .acc i, value := v.toNat, issued := b.time, fastAt := b.time + 1, slowAt := b.time + 2 }] }

/-- A load into an accumulator: n + 2 (R207). -/
def Bank.putLoad (b : Bank) (i : Nat) (v : W56) : Bank :=
  { b with pend := b.pend ++ [{ target := .acc i, value := v.toNat, issued := b.time, fastAt := b.time + 2, slowAt := b.time + 2 }] }

/-- LOG2 or EXP2: n + 4 for every use (R207). -/
def Bank.putLate (b : Bank) (i : Nat) (v : W56) : Bank :=
  { b with pend := b.pend ++ [{ target := .acc i, value := v.toNat, issued := b.time, fastAt := b.time + 4, slowAt := b.time + 4, late := true }] }

/-- A data register: n + 2 (R207). -/
def Bank.putData (b : Bank) (i : Nat) (v : W24) : Bank :=
  { b with pend := b.pend ++ [{ target := .data i, value := v.toNat, issued := b.time, fastAt := b.time + 2, slowAt := b.time + 2 }] }

/-- Bits of SW cleared and set, visible at n + 2. -/
def Bank.swLater (b : Bank) (clr set : Nat) : Bank :=
  { b with swPend := b.swPend ++ [{ clr := clr, set := set, at_ := b.time + 2 }] }

/-! ### Flags -/

/-- Saturate an exact accumulator result at the 56-bit limits; the flag says that AV is set (R192). -/
def satAcc (v : Int) : W56 × Bool := let w := Fx.sat 56 v; (BitVec.ofInt 56 w, w != v)

/-- Z, N and E of an accumulator value (R189). -/
def zneOf (v : W56) : Nat :=
  Fx.b2n (v == 0) + 2 * Fx.b2n v.msb +
  4 * Fx.b2n (!(decide (-(2 ^ 47) ≤ v.toInt) && decide (v.toInt < 2 ^ 47)))

/-- An operation writes an accumulator: the value, its flags, and AV when it saturated (R192). -/
def Bank.opResult (b : Bank) (i : Nat) (v : Int) : Bank :=
  let (w, av) := satAcc v
  let b := (b.putOp i w).swLater 7 (zneOf w)
  if av then b.swLater 0 0x20 else b

/-- SW once every change in flight has taken effect, as END leaves it. -/
def Bank.lastSw (b : Bank) : W24 :=
  b.swPend.foldl (fun w p => (w &&& ~~~(BitVec.ofNat 24 p.clr)) ||| BitVec.ofNat 24 p.set) b.sw

/-- The RW fields of SW (R189). -/
def swRW : W24 := 0x003337

/-- SW as read: RW fields, loop depth, call depth, handler (R189). -/
def Core.sw (c : Core) (b : Bank) : W24 :=
  (b.sw &&& swRW) ||| BitVec.ofNat 24 (b.loops.length * 2 ^ 16 + b.calls.length * 2 ^ 20 + Fx.b2n c.handler * 2 ^ 23)

/-- Rounding on store truncates; range on store wraps. -/
def Bank.truncates (b : Bank) : Bool := b.sw.getLsbD 8
def Bank.wraps (b : Bank) : Bool := b.sw.getLsbD 9

/-- A condition of R205. -/
def Bank.cond (b : Bank) (code : Nat) : Bool :=
  let z := b.sw.getLsbD 0
  let n := b.sw.getLsbD 1
  let e := b.sw.getLsbD 2
  match code with
  | 0 => true
  | 1 => z
  | 2 => !z
  | 3 => n
  | 4 => !n
  | 5 => !n && !z
  | 6 => n || z
  | 7 => e
  | 8 => !e
  | 9 => b.sw.getLsbD 4
  | 10 => b.sw.getLsbD 5
  | _ => false

end Sys2Proof.Machine
end

