-- ==== Sys2Proof/Machine/FrondCore.lean ====
section
/-!
DEFINITION. A frond core (08): rounding and ranging on store (R194, R195), addressing (R197, R198), the words a run may
reach (R161), loops, delay slots and the arithmetic of the operations (R192, R204). Functions work on one core and the
frond's memories; what a stopped run or an END does outside the core stands in the frond family.
-/
namespace Sys2Proof.Machine
open Sys2Proof

/-! ### Stores and loads -/

/-- A single store of a value (R194): the word, and whether SS is set. -/
def storeSingle (trunc wrap : Bool) (v : W56) (shift : Nat) : W24 × Bool :=
  let x : Int := v.toInt * 2 ^ shift
  let r := if trunc then x / 2 ^ 24 else Fx.roundEven x (2 ^ 24)
  let out := !(decide (-8388608 ≤ r) && decide (r ≤ 8388607))
  (if wrap then BitVec.ofInt 24 r else BitVec.ofInt 24 (Fx.satQ23 r), out)

/-- A double-precision store (R195): high word, low word, SS. -/
def storeDouble (v : W56) (shift : Nat) : W24 × W24 × Bool :=
  let x : Int := v.toInt * 2 ^ shift
  let out := !(decide (-(2 ^ 47) ≤ x) && decide (x < 2 ^ 47))
  let y := Fx.sat 48 x
  (BitVec.ofInt 24 (y / 2 ^ 24), BitVec.ofInt 24 (y % 2 ^ 24), out)

/-- An accumulator from one word in bits [47:24] (R196). -/
def loadSingle (w : W24) : W56 := BitVec.ofInt 56 (w.toInt * 2 ^ 24)

/-- An accumulator from two words (R195, R196). -/
def loadDouble (hi lo : W24) : W56 := BitVec.ofInt 56 (hi.toInt * 2 ^ 24 + lo.toNat)

/-! ### Addressing -/

/-- The least power of two at or above n. -/
def pow2AtLeast (n : Nat) : Nat := if n ≤ 1 then 1 else 2 ^ (Nat.log2 (n - 1) + 1)

/-- Reverse-carry addition of 2^(k−1) to the low k bits, from bit i downwards (R197). -/
def revAdd : Nat → Nat → Nat
  | 0, v => v
  | i + 1, v => if Fx.bit v i then revAdd i (v - 2 ^ i) else v + 2 ^ i

/-- A modifier is legal for a post-modify (R190). -/
def modLegal (m : W24) : Bool :=
  let mode := m.toNat / 2 ^ 22
  if mode = 3 then false
  else if mode = 2 then let k := m.toNat % 32; decide (1 ≤ k) && decide (k ≤ 16)
  else true

/-- A pointer moved by an amount under its modifier's mode (R197); bit-reversed mode moves linearly here. -/
def moveBy (p m : W24) (amt : Int) : W24 :=
  if m.toNat / 2 ^ 22 = 1 then
    let len := m.toNat % 2 ^ 16 + 1
    let j := pow2AtLeast len
    let base : Int := (p.toNat / j * j : Nat)
    BitVec.ofInt 24 (base + ((p.toNat : Int) - base + amt) % len)
  else BitVec.ofInt 24 ((p.toNat : Int) + amt)

/-- The +Mn post-modify (R197). -/
def moveByMod (p m : W24) : W24 :=
  let mode := m.toNat / 2 ^ 22
  if mode = 0 then moveBy p m (Fx.toSigned 22 (m.toNat % 2 ^ 22))
  else if mode = 1 then moveBy p m (Fx.toSigned 6 (m.toNat / 2 ^ 16 % 64))
  else
    let k := m.toNat % 32
    let v := p.toNat
    BitVec.ofNat 24 (v / 2 ^ k * 2 ^ k + revAdd k (v % 2 ^ k) % 2 ^ k)

/-- A post-modify choice: none, +1, −1, +Mn (R197). -/
def postModify (post : Nat) (p m : W24) : W24 :=
  match post with
  | 0 => p
  | 1 => moveBy p m 1
  | 2 => moveBy p m (-1)
  | _ => moveByMod p m

/-! ### Data memory of a frond (R155, R161) -/

/-- Key of a data word of a core: shared words by frond, private words by core and side. -/
def memKey (f c : Nat) (y : Bool) (a : Nat) : Nat :=
  if 0x100000 ≤ a then f * 2 ^ 24 + a else 2 ^ 40 + ((f * 4 + c) * 2 + Fx.b2n y) * 2 ^ 24 + a

/-- Key of a word of a core's own program memory (kind 0), X constants (1) or Y constants (2) (R152). -/
def ownKey (f c kind w : Nat) : Nat := ((f * 4 + c) * 4 + kind) * 65536 + w

/-- A program word of a core: the common one (R154), unless its own memory was written otherwise (R437). -/
def Fronds.progWord (fr : Fronds) (f c a : Nat) : W48 :=
  match Tbl.find fr.own (ownKey f c 0 a) with | some w => w | none => Tbl.getD fr.prog a 0

/-- A constant of a core (R154), in the same way. -/
def Fronds.constWord (fr : Fronds) (f c : Nat) (y : Bool) (a : Nat) : W24 :=
  match Tbl.find fr.own (ownKey f c (if y then 2 else 1) a) with
  | some w => BitVec.ofNat 24 w.toNat
  | none => Tbl.getD (if y then fr.yconst else fr.xconst) a 0

/-- Write one core's own program word or constant (R152, R437): a word equal to the common one needs no entry. -/
def Fronds.putOwn (fr : Fronds) (f c kind a v : Nat) : Fronds :=
  let common : Nat := if kind = 0 then (Tbl.getD fr.prog a 0).toNat else if kind = 1 then (Tbl.getD fr.xconst a 0).toNat else (Tbl.getD fr.yconst a 0).toNat
  { fr with own := if v = common then Tbl.erase fr.own (ownKey f c kind a) else Tbl.put fr.own (ownKey f c kind a) (BitVec.ofNat 48 v) }

/-- Read a data word; library and expert constants have their own home (R154). -/
def Fronds.read (fr : Fronds) (f c : Nat) (y : Bool) (a : Nat) : W24 :=
  if 0x1000 ≤ a ∧ a < 0x4000 then fr.constWord f c y a
  else Tbl.getD fr.mem (memKey f c y a) 0

/-- Write a data word. -/
def Fronds.write (fr : Fronds) (f c : Nat) (y : Bool) (a : Nat) (w : W24) : Fronds :=
  { fr with mem := Tbl.putD fr.mem (memKey f c y a) w 0 }

/-- Words of the context block (R160). -/
def ctxWords (t : ExpertTask) : Nat := 12 + 3 * t.rings.length

/-- An address lies in a run of words. -/
def inRun (a lo n : Nat) : Bool := decide (lo ≤ a) && decide (a < lo + n)

/-- A frond ring of the task holds the address. -/
def inRings (t : ExpertTask) (a : Nat) : Bool := t.rings.any fun r => !r.bulk && inRun a r.base r.size

/-- The run may read the word (R161): context, staging, parameters, state copies, rings, scratch, own constants. -/
def mayRead (t : ExpertTask) (b : Nat) (y : Bool) (a : Nat) : Bool :=
  inRun a t.ctx (ctxWords t) || inRun a t.inBase (t.ins.length * b) || inRun a t.outBase (t.outs.length * b) ||
  inRun a t.bank t.params || inRun a t.ppA t.stateWords || inRun a t.ppB t.stateWords || inRings t a ||
  inRun a 0x4000 (if y then t.scratchY else t.scratchX) ||
  (if y then inRun a t.yBase t.yLen else inRun a t.xBase t.xLen)

/-- The run may write the word (R161): output staging, the write copy, rings, scratch. -/
def mayWrite (t : ExpertTask) (b : Nat) (y : Bool) (a : Nat) : Bool :=
  inRun a t.outBase (t.outs.length * b) || inRun a (if t.copy then t.ppA else t.ppB) t.stateWords || inRings t a ||
  inRun a 0x4000 (if y then t.scratchY else t.scratchX)

/-- A written word that a discarded run must give back (R168): rings and the write copy. -/
def undoable (t : ExpertTask) (a : Nat) : Bool :=
  inRun a t.ppA t.stateWords || inRun a t.ppB t.stateWords || inRings t a

/-! ### Issuing an instruction -/

/-- The bank in use. -/
def Core.bank (c : Core) : Bank := c.main

/-- Where an instruction stands and what it may do, as the legality rules need it (R212, R214). -/
inductive Cls where
  | plain | flow | long | ender
  deriving DecidableEq, Repr

/-- The rules of R212 and R214 for an instruction of a class at the present place. `waits` marks WAITB. -/
def placeLegal (b : Bank) (k : Cls) (waits : Bool) : Bool :=
  let atEnd := match b.loops with | [] => false | l :: _ => l.stop = b.pc
  !(b.slot && (k != .plain || atEnd)) && !(atEnd && (k != .plain || waits))

/-- Count down the loops that end at an address, innermost first (R210, R211): the loops, the L registers and where
the next instruction stands. -/
def loopEnd (pc : Nat) : List LoopEnt → List W24 → List LoopEnt × List W24 × Option Nat
  | [], l => ([], l, none)
  | e :: es, l =>
    if e.stop = pc then
      let i := es.length
      let n := (l.getD i 0).toNat - 1
      let l := l.set i (BitVec.ofNat 24 n)
      if n = 0 then loopEnd pc es l else (e :: es, l, some e.start)
    else (e :: es, l, none)

/-- Go on after an instruction: the delay slot's transfer, a loop's end, or the next address. `time` counts
instructions, by which R207 measures. -/
def Bank.advance (b : Bank) : Bank :=
  let b := { b with time := b.time + 1 }
  if b.slot then { b with slot := false, target := none, pc := b.target.getD (b.pc + 1) }
  else
    let (ls, l, nx) := loopEnd b.pc b.loops b.l
    { b with loops := ls, l := l, pc := nx.getD (b.pc + 1) }

/-- A flow instruction that waits for its delay slot: the next address executes first (R214). -/
def Bank.branch (b : Bank) (target : Option Nat) : Bank :=
  { b with time := b.time + 1, pc := b.pc + 1, slot := true, target := target }

/-- Loops that a taken branch leaves are popped (R213). -/
def popOutside (target : Nat) : List LoopEnt → List LoopEnt
  | [] => []
  | e :: es => if e.start ≤ target ∧ target ≤ e.stop then e :: es else popOutside target es

/-- The product of two words in accumulator units, exact (R192). -/
def product (a : W24) (ua : Bool) (b : W24) (ub : Bool) : Int :=
  2 * ((if ua then (a.toNat : Int) else a.toInt) * (if ub then (b.toNat : Int) else b.toInt))

/-- One multiply-accumulate into an accumulator (R192). -/
def Bank.mac (b : Bank) (ad : Nat) (prod : Int) (negate accumulate : Bool) : Bank :=
  let p := if negate then -prod else prod
  b.opResult ad (if accumulate then (b.fast ad).toInt + p else p)

/-- log2 of a magnitude over 64, in accumulator units, with the error that R204 leaves free: 2^−16 in log2 terms is
2^25 units. The result stays within the range that R204 states, −47/64 to just below 8/64. -/
def log2Value (a : W56) (err : Int) : Int :=
  let mag : Int := (a.toInt.natAbs : Nat)
  if mag = 0 then -(48 * 2 ^ 41)
  else Fx.clamp (-(47 * 2 ^ 41)) (8 * 2 ^ 41 - 1)
    (Fx.roundAway (Fx.log2 (Fx.ratio mag (2 ^ 47)) * 2 ^ 41) Fx.one + Fx.clamp (-(2 ^ 25)) (2 ^ 25) err)

/-- 2^(64·x) of an accumulator value, in accumulator units, before saturation, which R204 gives to 0.125 and above alone;
the error of R204 is relative: the exponent is off by at most 2^−16. -/
def exp2Value (a : W56) (err : Int) : Int :=
  let x := a.toInt
  if x < -(3 * 2 ^ 45) then 0
  else if 2 ^ 44 ≤ x then 2 ^ 55
  else
    -- exponent 64·x/2^47 plus an error of at most 2^−16, with 64 fraction bits: 64·2^64/2^47 = 2^23
    min (2 ^ 55 - 1) (Fx.roundAway (Fx.pow2 (x * 2 ^ 23 + Fx.clamp (-(2 ^ 48)) (2 ^ 48) err) * 2 ^ 47) Fx.one)

end Sys2Proof.Machine
end

