-- ==== Sys2Proof/Machine/Kinds.lean ====
section
/-!
DEFINITION. Fault kinds and sources by their codes (R351, R352), the condition kinds (R353), the reaction defaults
(R356, R357), event codes (R494) and status codes (R474).
-/
namespace Sys2Proof.Machine

namespace K
def reconfig : Nat := 0x00
def mladirStall : Nat := 0x01
def mladirLockstep : Nat := 0x02
def mladirRestart : Nat := 0x03
def watchdog : Nat := 0x04
def faultTableFull : Nat := 0x05
def logLost : Nat := 0x06
def injected : Nat := 0x07
def deadlineMissed : Nat := 0x10
def taskMasked : Nat := 0x11
def taskLasting : Nat := 0x12
def taskOverrun : Nat := 0x13
def taskBounds : Nat := 0x14
def slackAlarm : Nat := 0x15
def capacity : Nat := 0x16
def spareMove : Nat := 0x17
def frondRetired : Nat := 0x18
def frondRewrite : Nat := 0x19
def frondTestFail : Nat := 0x1A
def bulkMasked : Nat := 0x1B
def moveMasked : Nat := 0x20
def moveLasting : Nat := 0x21
def mixMasked : Nat := 0x22
def mixLasting : Nat := 0x23
def delayMasked : Nat := 0x24
def delayLasting : Nat := 0x25
def asrcUnlock : Nat := 0x26
def pageLasting : Nat := 0x27
def sceneCorrupt : Nat := 0x28
def emergMismatch : Nat := 0x29
def sapClockLoss : Nat := 0x30
def sapFrameLength : Nat := 0x31
def sapClockGlitch : Nat := 0x32
def sapSampleSlip : Nat := 0x33
def sapRateChange : Nat := 0x34
def sapMarkParity : Nat := 0x35
def sapMarkSync : Nat := 0x36
def sapMarkCrc : Nat := 0x37
def sapPathWrong : Nat := 0x38
def sapSlotSlip : Nat := 0x39
def sapContention : Nat := 0x3A
def sapClockPhase : Nat := 0x3B
def sapInterlock : Nat := 0x3C
def netRxFrame : Nat := 0x40
def netRxPause : Nat := 0x41
def netRxVlan : Nat := 0x42
def netRxIp : Nat := 0x43
def netRxRtp : Nat := 0x44
def netRxLength : Nat := 0x45
def netRxSeqJump : Nat := 0x46
def netRxSsrc : Nat := 0x47
def netRxTimeOffset : Nat := 0x48
def netPathMismatch : Nat := 0x49
def netPathDown : Nat := 0x4A
def netReconcile : Nat := 0x4B
def netOffsetShort : Nat := 0x4C
def netPreemptVerify : Nat := 0x4D
def netAddrConflict : Nat := 0x4E
def netCtrlFlood : Nat := 0x4F
def netLinkFlap : Nat := 0x50
def timeXo : Nat := 0x60
def timeAlign : Nat := 0x61
def timeStep : Nat := 0x62
def timeHoldover : Nat := 0x63
def timeSensor : Nat := 0x64
def refSwitch : Nat := 0x65
def refLoss : Nat := 0x66
def refFreq : Nat := 0x67
def refPps : Nat := 0x68
def ptpRxBad : Nat := 0x69
def ptpFollowup : Nat := 0x6A
def ptpUnstable : Nat := 0x6B
def ptpGmChange : Nat := 0x6C
def pairRefused : Nat := 0x70
def pairConfig : Nat := 0x71
def pairReconcile : Nat := 0x72
def pairCommand : Nat := 0x73
def pairDiverge : Nat := 0x74
def pairTakeover : Nat := 0x75
def pairSync : Nat := 0x76
def pairRole : Nat := 0x77
def pairWiring : Nat := 0x78
def twlDown : Nat := 0x79
def twlLane : Nat := 0x7A
def twlRetry : Nat := 0x7B
def twlProtocol : Nat := 0x7C
def eccCe : Nat := 0x80
def scrubUe : Nat := 0x81
def marchFail : Nat := 0x82
def rowRepaired : Nat := 0x83
def repairExhausted : Nat := 0x84
def bankMigrated : Nat := 0x85
def bankRetired : Nat := 0x86
def otpWrite : Nat := 0x87
def arbHog : Nat := 0x88
def arbStarve : Nat := 0x89
def semAbandoned : Nat := 0x8A
def dmaError : Nat := 0x8B
def busError : Nat := 0x8C
def supvHighZ : Nat := 0x90
def supvLowZ : Nat := 0x91
def supvNoPilot : Nat := 0x92
def pathProofTimeout : Nat := 0x93
def nightlySkipped : Nat := 0x94
def nightlyIncomplete : Nat := 0x95
def peatReadback : Nat := 0x96
def ageingMargin : Nat := 0x97
def peatGap : Nat := 0xA0
def peatNsLost : Nat := 0xA1
def peatCmdTimeout : Nat := 0xA2
def peatCmdError : Nat := 0xA3
def peatLink : Nat := 0xA4
def peatMirror : Nat := 0xA5
def peatChain : Nat := 0xA6
def peatCacheMiss : Nat := 0xA7
def peatProtocol : Nat := 0xA8
def mbxCrc : Nat := 0xB0
def mbxLength : Nat := 0xB1
def mbxSeq : Nat := 0xB2
def mbxAuth : Nat := 0xB3
def pcieError : Nat := 0xB4
def spiError : Nat := 0xB5
def clientLost : Nat := 0xB6
def feedLoss : Nat := 0xC0
def feedRange : Nat := 0xC1
def phaseFault : Nat := 0xC2
def phaseTemp : Nat := 0xC3
def vcoreRange : Nat := 0xC4
def railRange : Nat := 0xC5
def tjHigh : Nat := 0xC6
def tjCritical : Nat := 0xC7
def lastGasp : Nat := 0xC8
def fwSignature : Nat := 0xD0
def fwRollback : Nat := 0xD1
def fwFallback : Nat := 0xD2
def keyError : Nat := 0xD3
/-- Every kind, ascending (R351). -/
def all : List Nat :=
  [0x00, 0x01, 0x02, 0x03, 0x04, 0x05, 0x06, 0x07, 0x10, 0x11, 0x12, 0x13, 0x14, 0x15, 0x16, 0x17, 0x18, 0x19, 0x1A,
   0x1B, 0x20, 0x21, 0x22, 0x23, 0x24, 0x25, 0x26, 0x27, 0x28, 0x29, 0x30, 0x31, 0x32, 0x33, 0x34, 0x35, 0x36, 0x37,
   0x38, 0x39, 0x3A, 0x3B, 0x3C, 0x40, 0x41, 0x42, 0x43, 0x44, 0x45, 0x46, 0x47, 0x48, 0x49, 0x4A, 0x4B, 0x4C, 0x4D,
   0x4E, 0x4F, 0x50, 0x60, 0x61, 0x62, 0x63, 0x64, 0x65, 0x66, 0x67, 0x68, 0x69, 0x6A, 0x6B, 0x6C, 0x70, 0x71, 0x72,
   0x73, 0x74, 0x75, 0x76, 0x77, 0x78, 0x79, 0x7A, 0x7B, 0x7C, 0x80, 0x81, 0x82, 0x83, 0x84, 0x85, 0x86, 0x87, 0x88,
   0x89, 0x8A, 0x8B, 0x8C, 0x90, 0x91, 0x92, 0x93, 0x94, 0x95, 0x96, 0x97, 0xA0, 0xA1, 0xA2, 0xA3, 0xA4, 0xA5, 0xA6,
   0xA7, 0xA8, 0xB0, 0xB1, 0xB2, 0xB3, 0xB4, 0xB5, 0xB6, 0xC0, 0xC1, 0xC2, 0xC3, 0xC4, 0xC5, 0xC6, 0xC7, 0xC8, 0xD0,
   0xD1, 0xD2, 0xD3]
end K

/-- Condition kinds (R353). -/
def isCondition (k : Nat) : Bool :=
  [K.slackAlarm, K.capacity, K.asrcUnlock, K.netPathDown, K.netCtrlFlood, K.netLinkFlap, K.timeAlign,
   K.timeHoldover, K.refLoss, K.twlDown, K.supvHighZ, K.supvLowZ, K.supvNoPilot, K.feedLoss, K.feedRange,
   K.phaseTemp, K.tjHigh, K.faultTableFull].contains k || (decide (0x30 ≤ k) && decide (k ≤ 0x3C))

-- Sources (R351).
namespace Src
def sequencer : Nat := 0x040
def mover : Nat := 0x041
def scene : Nat := 0x042
def collector : Nat := 0x043
def clock : Nat := 0x080
def ptp (n : Nat) : Nat := 0x081 + n
def pair : Nat := 0x0C0
def sap (n : Nat) : Nat := 0x100 + n
def net (n : Nat) : Nat := 0x180 + n
def packet : Nat := 0x188
def bank (b : Nat) : Nat := 0x1C0 + b
def arbiter : Nat := 0x1E0
def matrix : Nat := 0x1E1
def dma : Nat := 0x1E2
def sems : Nat := 0x1E3
def scrubber : Nat := 0x1E4
def march : Nat := 0x1E5
def sram : Nat := 0x1E8
def lane (n : Nat) : Nat := 0x200 + n
def peat : Nat := 0x400
def nvme (n : Nat) : Nat := 0x440 + n
def mladir : Nat := 0x500
def mailbox : Nat := 0x501
def security : Nat := 0x502
def power : Nat := 0x580
def feed (b : Nat) : Nat := 0x581 + b
def stage (n : Nat) : Nat := 0x588 + n
def thermal : Nat := 0x590
def detector (n : Nat) : Nat := 0x600 + n
end Src

-- Action bits of a reaction (R356).
namespace Act
def log : Nat := 0
def interrupt : Nat := 1
def faultN : Nat := 2
def switch : Nat := 3
def safe : Nat := 4
def reset : Nat := 5
end Act

/-- Kinds whose index the manual states (R350): the frame, memory, word, task, port, path and stream kinds, and those whose
own rule names what the record holds. -/
def statesIndex (k : Nat) : Bool :=
  (decide (0x10 ≤ k) && decide (k ≤ 0x14)) || decide (k = K.bulkMasked) || (decide (0x20 ≤ k) && decide (k ≤ 0x25)) ||
  (decide (0x30 ≤ k) && decide (k ≤ 0x4C)) || [K.pairRefused, K.frondRewrite, K.eccCe, K.scrubUe, K.busError, K.peatReadback, K.peatGap].contains k

/-- Kinds whose detail the manual states (R350, R395, R417, R516, R519). -/
def statesDetail (k : Nat) : Bool :=
  [K.bulkMasked, K.moveMasked, K.moveLasting, K.delayMasked, K.delayLasting, K.frondRewrite, K.eccCe, K.scrubUe, K.busError, K.peatGap, K.railRange,
   K.vcoreRange, K.lastGasp].contains k

/-- Additions at severity 3 (R357). -/
def addedActions (k : Nat) : Nat :=
  if k = K.taskLasting then 0x38
  else if k = K.deadlineMissed then 0x18
  else if [K.moveLasting, K.mixLasting, K.delayLasting, K.pageLasting, K.scrubUe, K.capacity].contains k then 0x08
  else if k = K.mladirStall ∨ k = K.mladirLockstep then 0x20
  else 0

/-- Default reaction entry of a kind (R356, R357). -/
def defaultReaction (k : Nat) : Nat :=
  0x01 + 0x01 * 2 ^ 6 + 0x03 * 2 ^ 12 + (0x07 ||| addedActions k) * 2 ^ 18 + 0x1F * 2 ^ 24

/-- The lasting kind a masked kind is sent as (R361). -/
def lastingOf (k : Nat) : Option Nat :=
  if k = K.taskMasked then some K.taskLasting
  else if k = K.moveMasked then some K.moveLasting
  else if k = K.mixMasked then some K.mixLasting
  else if k = K.delayMasked then some K.delayLasting
  else if k = K.bulkMasked then some K.bulkMasked
  else if k = K.eccCe then some K.eccCe
  else none

-- Status codes (R474).
namespace St
def ok : Nat := 0x00
def clamped : Nat := 0x01
def accepted : Nat := 0x02
def busy : Nat := 0x10
def notReady : Nat := 0x11
def late : Nat := 0x12
def expired : Nat := 0x13
def badCrc : Nat := 0x20
def badCmd : Nat := 0x21
def badLen : Nat := 0x22
def noResource : Nat := 0x30
def conflict : Nat := 0x31
def denied : Nat := 0x40
def faulted : Nat := 0x50
end St

-- Event codes (R494).
namespace Ev
def ready : Nat := 0x0001
def progress : Nat := 0x0002
def commandDone : Nat := 0x0003
def fault : Nat := 0x0004
def sceneArmed : Nat := 0x0010
def sceneApplied : Nat := 0x0011
def emergReleased : Nat := 0x0012
def portRate : Nat := 0x0020
def meter : Nat := 0x0021
def streamPath : Nat := 0x0030
def timeState : Nat := 0x0040
def timeStep : Nat := 0x0041
def timeReference : Nat := 0x0042
def timeAlign : Nat := 0x0043
def trigFired : Nat := 0x0044
def pairState : Nat := 0x0050
def pairInStep : Nat := 0x0051
def pairRestored : Nat := 0x0052
def supvZone : Nat := 0x0060
def nightlyDone : Nat := 0x0061
def playDone : Nat := 0x0070
end Ev

-- Functions by the codes of reason 0x09 of R473.
namespace Fn
def time : Nat := 0
def ports : Nat := 1
def network : Nat := 2
def fronds : Nat := 3
def bracken : Nat := 4
def router : Nat := 5
def peat : Nat := 6
def pair : Nat := 7
def supervision : Nat := 8
def security : Nat := 9
end Fn

end Sys2Proof.Machine
end

