-- ==== Sys2Proof/Machine/Bytes.lean ====
section
/-!
DEFINITION. Byte strings: the little-endian packing of R470, and the CRCs that the manual names, each written from its
public definition (log entry 14: the manual names them only).
-/
namespace Sys2Proof

/-- A number little-endian in n bytes (R470). -/
def le : Nat → Nat → List Byte
  | 0, _ => []
  | n + 1, v => BitVec.ofNat 8 v :: le n (v / 256)

/-- A number big-endian in n bytes. -/
def be (n v : Nat) : List Byte := (le n v).reverse

/-- The number that bytes spell little-endian. -/
def fromLE : List Byte → Nat
  | [] => 0
  | b :: bs => b.toNat + 256 * fromLE bs

/-- The number that bytes spell big-endian. -/
def fromBE (bs : List Byte) : Nat := fromLE bs.reverse

/-- A two's-complement integer in n bytes. -/
def leS (n : Nat) (v : Int) : List Byte := le n (Fx.toUnsigned (8 * n) v)

def u8 (v : Nat) : List Byte := le 1 v
def u16 (v : Nat) : List Byte := le 2 v
def u32 (v : Nat) : List Byte := le 4 v
def u64 (v : Nat) : List Byte := le 8 v
def s16 (v : Int) : List Byte := leS 2 v
def s32 (v : Int) : List Byte := leS 4 v
def s64 (v : Int) : List Byte := leS 8 v
def s8 (v : Int) : List Byte := leS 1 v
/-- A frame number in the fn form of R470. -/
def fnB (v : Nat) : List Byte := le 8 (v % 2 ^ 48)
/-- An endpoint ID, or none, in the id form of R470. -/
def idB (v : Option Nat) : List Byte := le 4 (v.getD 0x1FFFF)
/-- A network time in the nt form of R470: seconds and ns. -/
def ntB (sec ns : Nat) : List Byte := le 8 sec ++ le 4 ns
/-- A network time in the nt10 form of R470. -/
def nt10B (sec ns : Nat) : List Byte := le 6 sec ++ le 4 ns

/-- Bytes padded with zeros or cut to a length. -/
def padTo (n : Nat) (bs : List Byte) : List Byte := (bs ++ List.replicate n 0).take n

/-- Bytes that go on as UTF-8 (RFC 3629): `need` continuation bytes are owed, the next between `lo` and `hi`. -/
def utf8From (need lo hi : Nat) : List Byte → Bool
  | [] => decide (need = 0)
  | b :: bs =>
    let n := b.toNat
    if need ≠ 0 then decide (lo ≤ n ∧ n ≤ hi) && utf8From (need - 1) 0x80 0xBF bs
    else if n < 0x80 then utf8From 0 0 0 bs
    else if n < 0xC2 ∨ 0xF4 < n then false
    else if n < 0xE0 then utf8From 1 0x80 0xBF bs
    else if n < 0xF0 then utf8From 2 (if n = 0xE0 then 0xA0 else 0x80) (if n = 0xED then 0x9F else 0xBF) bs
    else utf8From 3 (if n = 0xF0 then 0x90 else 0x80) (if n = 0xF4 then 0x8F else 0xBF) bs

/-- A name field of R470: 1 to 32 bytes of UTF-8, padded with zeros. -/
def nameOk (name : List Byte) : Bool :=
  let bs := (name.reverse.dropWhile (· = 0)).reverse
  !bs.isEmpty && decide (bs.length ≤ 32) && utf8From 0 0 0 bs

/-- A bit mask of n bytes in the mask form of R470. -/
def maskB (n : Nat) (bs : List Nat) : List Byte := le n (bs.foldl (fun v i => Fx.setBit v i true) 0)

/-- The bit numbers below n that are set in a number. -/
def bitsOf (n v : Nat) : List Nat := (List.range n).filter (Fx.bit v)

/-- Reflected CRC: one bit step. -/
def crcBit (poly c : Nat) : Nat := if c % 2 = 1 then (c / 2) ^^^ poly else c / 2

/-- Reflected CRC: one byte. -/
def crcByte (poly c : Nat) (b : Byte) : Nat :=
  let f := crcBit poly
  f (f (f (f (f (f (f (f (c ^^^ b.toNat))))))))

/-- CRC-32C (Castagnoli), reflected polynomial 0x82F63B78, initial and final value all ones. -/
def crc32c (bs : List Byte) : Nat := (bs.foldl (crcByte 0x82F63B78) 0xFFFFFFFF) ^^^ 0xFFFFFFFF

/-- CRC-32 of IEEE 802.3, reflected polynomial 0xEDB88320. -/
def crc32 (bs : List Byte) : Nat := (bs.foldl (crcByte 0xEDB88320) 0xFFFFFFFF) ^^^ 0xFFFFFFFF

/-- A most-significant-bit-first CRC over the bits of a byte string. -/
def crcMsb (width poly : Nat) (init : Nat) (bs : List Byte) : Nat :=
  bs.foldl (fun c b =>
    (List.range 8).foldl (fun c i =>
      let top := Fx.bit c (width - 1) != Fx.bit b.toNat (7 - i)
      let c := c * 2 % 2 ^ width
      if top then c ^^^ poly else c) c) init

/-- The ASCII bytes of a string. -/
def ascii (s : String) : List Byte := s.toList.map fun c => BitVec.ofNat 8 c.toNat

end Sys2Proof
end

