-- ==== Sys2Proof/Machine/NetBytes.lean ====
section
/-!
DEFINITION. Frames of the media network as bytes (10: R249, R250, R253, R261, R267, R275): Ethernet, ARP, IPv4 with its
header checksum, UDP, RTP, ICMP echo and IGMP reports, each from its public definition (log entry 14).
-/
namespace Sys2Proof.Machine
open Sys2Proof

/-- A big-endian number at a byte offset. -/
def getBE (bs : List Byte) (off n : Nat) : Nat := fromBE ((bs.drop off).take n)

/-- Internet checksum of a byte string (RFC 1071). -/
def sum16 : List Byte → Nat
  | [] => 0
  | [a] => a.toNat * 256
  | a :: b :: t => a.toNat * 256 + b.toNat + sum16 t

def fold16 (v : Nat) : Nat :=
  let a := v % 65536 + v / 65536
  let b := a % 65536 + a / 65536
  b % 65536 + b / 65536

def inetSum (bs : List Byte) : Nat := 65535 - fold16 (sum16 bs)

/-- An IPv4 address of the multicast range. -/
def isMulticast (ip : Nat) : Bool := decide (ip / 2 ^ 28 = 14)

/-- The Ethernet address of a multicast group. -/
def groupMac (ip : Nat) : Nat := 0x01005E000000 + ip % 2 ^ 23

/-- The hash bin of a destination address: the top 12 bits of its CRC-32 (R259). -/
def hashBin (mac : Nat) : Nat := crc32 (be 6 mac) / 2 ^ 20

/-- An Ethernet frame with its VLAN tag, padded to the smallest size, and FCS (R249, R253). -/
def etherFrame (dst src vlan pcp type : Nat) (body : List Byte) : List Byte :=
  let tag := if vlan = 0 then [] else be 2 0x8100 ++ be 2 (pcp * 8192 + vlan)
  let h := be 6 dst ++ be 6 src ++ tag ++ be 2 type ++ body
  let p := h ++ List.replicate (60 - h.length) 0
  p ++ le 4 (crc32 p)

/-- An IPv4 packet: DF set, identification 0 (R268). -/
def ipPacket (src dst proto dscp ttl : Nat) (options body : List Byte) : List Byte :=
  let hl := 20 + options.length
  let h := fun c => be 1 (0x40 + hl / 4) ++ be 1 (dscp * 4) ++ be 2 (hl + body.length) ++ be 2 0 ++ be 2 0x4000 ++
    be 1 ttl ++ be 1 proto ++ be 2 c ++ be 4 src ++ be 4 dst ++ options
  h (inetSum (h 0)) ++ body

/-- A UDP datagram with its checksum computed (R268). -/
def udpPacket (src dst sport dport : Nat) (body : List Byte) : List Byte :=
  let n := 8 + body.length
  let h := fun c => be 2 sport ++ be 2 dport ++ be 2 n ++ be 2 c ++ body
  let c := inetSum (be 4 src ++ be 4 dst ++ be 2 17 ++ be 2 n ++ h 0)
  h (if c = 0 then 65535 else c)

/-- An RTP packet: version 2, marker clear (R267). -/
def rtpPacket (ptype seq stamp ssrc : Nat) (payload : List Byte) : List Byte :=
  be 1 0x80 ++ be 1 ptype ++ be 2 seq ++ be 4 stamp ++ be 4 ssrc ++ payload

/-- An ARP packet: operation 1 request, 2 reply. -/
def arpPacket (op smac sip tmac tip : Nat) : List Byte :=
  be 2 1 ++ be 2 0x0800 ++ be 1 6 ++ be 1 4 ++ be 2 op ++ be 6 smac ++ be 4 sip ++ be 6 tmac ++ be 4 tip

/-- An ICMP echo reply. -/
def echoReply (ident seq : Nat) (data : List Byte) : List Byte :=
  let h := fun c => be 1 0 ++ be 1 0 ++ be 2 c ++ be 2 ident ++ be 2 seq ++ data
  h (inetSum (h 0))

/-- An IGMPv3 report of one group: record type 4 (TO_EX), 3 (TO_IN), 1 (IS_IN), 2 (IS_EX), with its sources. -/
def igmp3Report (type group : Nat) (sources : List Nat) : List Byte :=
  let h := fun c => be 1 0x22 ++ be 1 0 ++ be 2 c ++ be 2 0 ++ be 2 1 ++ be 1 type ++ be 1 0 ++ be 2 sources.length ++
    be 4 group ++ sources.flatMap (be 4)
  h (inetSum (h 0))

/-- An IGMPv1 or IGMPv2 report, or an IGMPv2 leave. -/
def igmpOld (type group : Nat) : List Byte :=
  let h := fun c => be 1 type ++ be 1 0 ++ be 2 c ++ be 4 group
  h (inetSum (h 0))

/-! ### Received frames -/

/-- What the MAC makes of a frame's tag: the VLAN ID (0 for none), and the frame without its tag. -/
def untag (bs : List Byte) : Nat × List Byte :=
  if getBE bs 12 2 = 0x8100 then (getBE bs 14 2 % 4096, bs.take 12 ++ bs.drop 16) else (0, bs)

/-- A UDP packet over IPv4 as it is received. -/
structure UdpIn where
  src : Nat
  dst : Nat
  sport : Nat
  dport : Nat
  /-- Header checksum, fragment and UDP checksum are right. -/
  ok : Bool
  body : List Byte
  deriving DecidableEq, Repr

/-- IPv4 fields of a frame without tag and FCS: source, destination, protocol, whether the header is right, payload. -/
def ipIn (bs : List Byte) : Option (Nat × Nat × Nat × Bool × List Byte) :=
  if getBE bs 12 2 ≠ 0x0800 then none
  else
    let ip := bs.drop 14
    let hl := getBE ip 0 1 % 16 * 4
    let total := getBE ip 2 2
    let frag := decide (getBE ip 6 2 % 16384 ≠ 0)
    let ok := decide (getBE ip 0 1 / 16 = 4) && decide (20 ≤ hl) && decide (hl ≤ total) && decide (total ≤ ip.length) &&
      decide (inetSum (ip.take hl) = 0) && !frag
    some (getBE ip 12 4, getBE ip 16 4, getBE ip 9 1, ok, (ip.take total).drop hl)

/-- The UDP packet of a frame, if it carries one. -/
def udpIn (bs : List Byte) : Option UdpIn :=
  match ipIn bs with
  | some (src, dst, 17, ok, p) =>
    let n := getBE p 4 2
    let sum := getBE p 6 2
    let good := decide (sum = 0) || decide (inetSum (be 4 src ++ be 4 dst ++ be 2 17 ++ be 2 n ++ p.take n) = 0)
    some { src := src, dst := dst, sport := getBE p 0 2, dport := getBE p 2 2
           ok := ok && decide (8 ≤ n) && decide (n ≤ p.length) && good, body := (p.take n).drop 8 }
  | _ => none

/-- An RTP packet as received: version, payload type, sequence number, time stamp, SSRC, and the payload after the CSRC
list, extension and padding (R261). -/
structure RtpIn where
  version : Nat
  ptype : Nat
  seq : Nat
  stamp : Nat
  ssrc : Nat
  payload : List Byte
  deriving DecidableEq, Repr

def rtpIn (bs : List Byte) : RtpIn :=
  let b0 := getBE bs 0 1
  let cc := b0 % 16
  let h := 12 + 4 * cc
  let h := if Fx.bit b0 4 then h + 4 + 4 * getBE bs (h + 2) 2 else h
  let pad := if Fx.bit b0 5 then getBE bs (bs.length - 1) 1 else 0
  { version := b0 / 64, ptype := getBE bs 1 1 % 128, seq := getBE bs 2 2, stamp := getBE bs 4 4, ssrc := getBE bs 8 4
    payload := (bs.take (bs.length - pad)).drop h }

/-! ### Samples in payloads (R262) -/

/-- A sample Q1.23 as L16 (convergent rounding with saturation) or L24 bytes. -/
def sampleBytes (enc : Nat) (x : Int) : List Byte :=
  if enc = 0 then be 2 (Fx.toUnsigned 16 (Fx.sat 16 (Fx.roundEven x 256))) else be 3 (Fx.toUnsigned 24 x)

/-- The samples of a payload, one list a sample frame: n frames of c channels. -/
def payloadRow (enc : Nat) : Nat → List Byte → List Int
  | 0, _ => []
  | c + 1, bs =>
    let w := 2 + enc
    (if enc = 0 then Fx.toSigned 16 (fromBE (bs.take 2)) * 256 else Fx.toSigned 24 (fromBE (bs.take 3))) ::
      payloadRow enc c (bs.drop w)

def payloadRows (enc c : Nat) : Nat → List Byte → List (List Int)
  | 0, _ => []
  | n + 1, bs => payloadRow enc c bs :: payloadRows enc c n (bs.drop (c * (2 + enc)))

end Sys2Proof.Machine
end

