-- ==== Sys2Proof/Machine/Sha2.lean ====
section
/-!
DEFINITION. The hashes that the manual names: SHA-256 with HMAC (R324, R464, R489) and SHA-384 (R525, R526), as the two
members of one family (log entry 14: the manual names them only). Their constants are the fractional parts of roots of
the first primes, and are computed as such.
-/
namespace Sys2Proof

namespace Sha2

/-- The largest number of `bits` bits above x whose power e does not pass n, found from the top bit down. -/
def root (e n : Nat) : Nat → Nat → Nat
  | 0, x => x
  | b + 1, x => root e n b (if (x + 2 ^ b) ^ e ≤ n then x + 2 ^ b else x)

/-- The primes up to 409, of which there are 80. -/
def primes : List Nat :=
  (List.range 410).filter fun n => decide (2 ≤ n) && (List.range 21).all fun d => decide (d < 2) || decide (n ≤ d) || decide (n % d ≠ 0)

/-- The first w bits of the fraction of the e-th root of p. -/
def fraction (w e p : Nat) : BitVec w := BitVec.ofNat w (root e (p * 2 ^ (e * w)) (w + 3) 0)

/-- A member of the family: its word width, how the halves of the working state are mixed, and how the schedule is. -/
structure Member (w : Nat) where
  rounds : Nat
  mixA : List Nat
  mixE : List Nat
  early : List Nat × Nat
  late : List Nat × Nat

/-- Exclusive OR of the rotations of a word. -/
def turned {w : Nat} (rs : List Nat) (x : BitVec w) : BitVec w := rs.foldl (fun v r => v ^^^ x.rotateRight r) 0

/-- The same with one shifted copy. -/
def shifted {w : Nat} (p : List Nat × Nat) (x : BitVec w) : BitVec w := turned p.1 x ^^^ (x >>> p.2)

/-- Four words of the working state, newest first: each round pushes one word into either half. -/
structure Half (w : Nat) where
  n0 : BitVec w
  n1 : BitVec w
  n2 : BitVec w
  n3 : BitVec w

def Half.push {w : Nat} (h : Half w) (x : BitVec w) : Half w := ⟨x, h.n0, h.n1, h.n2⟩

def Half.list {w : Nat} (h : Half w) : List (BitVec w) := [h.n0, h.n1, h.n2, h.n3]

def halfOf {w : Nat} (l : List (BitVec w)) : Half w := ⟨l.getD 0 0, l.getD 1 0, l.getD 2 0, l.getD 3 0⟩

/-- Bit by bit: the second word where the first is set, else the third. -/
def Half.pick {w : Nat} (h : Half w) : BitVec w := h.n2 ^^^ (h.n0 &&& (h.n1 ^^^ h.n2))

/-- Bit by bit: what at least two of the first three words hold. -/
def Half.vote {w : Nat} (h : Half w) : BitVec w := (h.n0 &&& h.n1) ||| (h.n2 &&& (h.n0 ||| h.n1))

/-- A round with its schedule word and constant, added. -/
def Member.round {w : Nat} (m : Member w) (v : Half w × Half w) (x : BitVec w) : Half w × Half w :=
  let t := v.2.n3 + turned m.mixE v.2.n0 + v.2.pick + x
  (v.1.push (t + turned m.mixA v.1.n0 + v.1.vote), v.2.push (v.1.n3 + t))

/-- A schedule, newest word first, with n words more. -/
def Member.schedule {w : Nat} (m : Member w) : Nat → List (BitVec w) → List (BitVec w)
  | 0, l => l
  | n + 1, l => m.schedule n ((l.getD 15 0 + shifted m.early (l.getD 14 0) + l.getD 6 0 + shifted m.late (l.getD 1 0)) :: l)

/-- The words of a byte string, big-endian. -/
def wordsOf (w : Nat) : Nat → List Byte → List (BitVec w)
  | 0, _ => []
  | n + 1, bs => BitVec.ofNat w (fromBE (bs.take (w / 8))) :: wordsOf w n (bs.drop (w / 8))

/-- One block of 16 words. -/
def Member.block {w : Nat} (m : Member w) (consts hash : List (BitVec w)) (bs : List Byte) : List (BitVec w) :=
  let sched := (m.schedule (m.rounds - 16) (wordsOf w 16 bs).reverse).reverse
  let v := (List.zipWith (· + ·) consts sched).foldl m.round (halfOf hash, halfOf (hash.drop 4))
  List.zipWith (· + ·) hash (v.1.list ++ v.2.list)

def Member.blocks {w : Nat} (m : Member w) (consts : List (BitVec w)) : Nat → List (BitVec w) → List Byte → List (BitVec w)
  | 0, h, _ => h
  | n + 1, h, bs => m.blocks consts n (m.block consts h (bs.take (2 * w))) (bs.drop (2 * w))

/-- The hash of a message from an initial value: padded with a one bit, zeros, and its length in bits in two words. -/
def Member.hash {w : Nat} (m : Member w) (init : List (BitVec w)) (bs : List Byte) : List Byte :=
  let tail := be (w / 4) (8 * bs.length)
  let z := (2 * w - (bs.length + 1 + tail.length) % (2 * w)) % (2 * w)
  let msg := bs ++ (0x80 :: List.replicate z 0) ++ tail
  (m.blocks ((primes.take m.rounds).map (fraction w 3)) (msg.length / (2 * w)) init msg).flatMap fun x => be (w / 8) x.toNat

def narrow : Member 32 := ⟨64, [2, 13, 22], [6, 11, 25], ([7, 18], 3), ([17, 19], 10)⟩
def wide : Member 64 := ⟨80, [28, 34, 39], [14, 18, 41], ([1, 8], 7), ([19, 61], 6)⟩

end Sha2

/-- SHA-256: it starts from square roots of the first eight primes. -/
def sha256 (bs : List Byte) : List Byte := Sha2.narrow.hash ((Sha2.primes.take 8).map (Sha2.fraction 32 2)) bs

/-- SHA-384: it starts from square roots of the ninth to the sixteenth prime, and leaves out the last two words. -/
def sha384 (bs : List Byte) : List Byte :=
  (Sha2.wide.hash (((Sha2.primes.drop 8).take 8).map (Sha2.fraction 64 2)) bs).take 48

/-- HMAC-SHA-256 with a key of at most 64 bytes. -/
def hmac (key msg : List Byte) : List Byte :=
  let pad := fun (v : Byte) => (padTo 64 key).map (· ^^^ v)
  sha256 (pad 0x5C ++ sha256 (pad 0x36 ++ msg))

end Sys2Proof
end

