-- ==== Sys2Proof/Machine/Ops.lean ====
section
/-!
DEFINITION. The shared operations of the engine: reading and advancing the clock (R282 to R287), interrupts (R502 to
R504), events (R461, R494), readiness (R19, R463), the fault collector with its reactions (R350 to R361) and the
FAULT_N level (R360).
-/
namespace Sys2Proof.Machine
open Sys2Proof

/-! ### Clock -/

/-- C in 2^−16 ns at a RAW value (R283). -/
def Clock.countAt (c : Clock) (raw : Nat) : Int :=
  c.cA + ((raw : Int) - c.rawA) * 262144 * (2 ^ 48 + c.rate) / 2 ^ 48

/-- C now. -/
def Clock.count (c : Clock) : Int := c.countAt c.raw

/-- The time reading C + OFFSET modulo 2^48, in 2^−16 ns (R284). -/
def Clock.reading (c : Clock) : Nat := ((c.count + c.offset) % 2 ^ 48).toNat

/-- TIME_NS and TIME_FRAC (R284). -/
def Clock.ns (c : Clock) : Nat := c.reading / 65536
def Clock.frac (c : Clock) : Nat := c.reading % 65536

/-- TIME_WRAPS:TIME_NS, the ns of the timescale modulo 2^64 (R286). -/
def Clock.full (c : Clock) : Nat := c.wraps * 2 ^ 32 + c.ns

/-- How many times TIME_NS passes from its top to 0 between two RAW values (R284). -/
def Clock.wrapsBetween (c : Clock) (r0 r1 : Nat) : Nat :=
  ((c.countAt r1 + c.offset) / 2 ^ 48 - (c.countAt r0 + c.offset) / 2 ^ 48).toNat

/-- The first RAW at which C reaches a count (R288). -/
def Clock.rawOf (c : Clock) (count : Int) : Nat :=
  let d := 262144 * (2 ^ 48 + c.rate)
  ((c.rawA : Int) - (-((count - c.cA) * 2 ^ 48) / d)).toNat

/-- RAW ticks of 4 ns in a number of µs, and in a number of ms. -/
def usTicks (n : Nat) : Nat := n * 250
def msTicks (n : Nat) : Nat := n * 250000

/-! ### Interrupts -/

/-- Set status bit n in both copies; vector n is sent when the bit becomes set, enabled and not masked (R502 to R504). -/
def raiseInt (n : Nat) (s : State) : State :=
  let was := Fx.bit s.int.status0 n
  let i := { s.int with status0 := Fx.setBit s.int.status0 n true, status1 := Fx.setBit s.int.status1 n true }
  if !was && Fx.bit i.msixEnable n && i.msixOn then
    if Fx.bit i.masked n then { s with int := { i with pba := Fx.setBit i.pba n true } }
    else { s with int := i, out := s.out ++ [.msix n] }
  else { s with int := i }

/-- INT_N is driven low (R504). -/
def intNLow (s : State) : Bool :=
  ((s.int.status1 &&& s.int.pin1) != 0) || (((s.int.status0 &&& s.int.pin0) != 0) && !s.int.msixOn)

/-! ### Events -/

/-- A Seril datagram of a session (R464): its frame, the session's next counter and the check. -/
def datagram (id : Nat) (ss : Session) (kind : Nat) (msg : List Byte) : List Byte :=
  let body := [0x53, 0x45, 0x52, 0x4C] ++ u8 ss.keyId ++ u8 kind ++ u16 0 ++ u32 id ++ u64 (ss.tx + 1) ++ msg
  body ++ hmac ss.key body

/-- Own MAC address of a port (R250). -/
def portMac (n : Nat) : Nat := (Config.macBase.toNat + n) % 2 ^ 48

/-- The class row of R252: 0 PTP, 1 media, 2 control, 3 Seril. -/
def classPcp (s : State) (c : Nat) : Nat := s.net.pcp.getD c 0
def classDscp (s : State) (c : Nat) : Nat := s.net.dscp.getD c 0

/-- Send a Seril datagram over UDP (R464): a frame of class 3 on NET4, which has no gates, while its link is up (R249, R252,
R253). -/
def sendSeril (ip port : Nat) (bs : List Byte) (s : State) : State :=
  let x := Tbl.getD s.net.port 4 {}
  let c := x.cfg
  if !x.up then s
  else
    let f := etherFrame (Config.neighbourMac ip) (portMac 4) c.vlan (classPcp s 3) 0x0800
      (ipPacket c.ip ip 17 (classDscp s 3) c.ttl [] (udpPacket c.ip ip c.serilPort port bs))
    { s with out := s.out ++ [.netFrame 4 f] }

/-- Send a message to a session: its counter rises (R464). -/
def sendSession (id kind : Nat) (msg : List Byte) (s : State) : State :=
  match Tbl.find s.mbx.sessions id with
  | none => s
  | some ss =>
    let s := sendSeril ss.ip ss.port (datagram id ss kind msg) s
    { s with mbx := { s.mbx with sessions := Tbl.put s.mbx.sessions id { ss with tx := ss.tx + 1 } } }

/-- The 64 bytes of an event entry (R461). -/
def eventEntry (n code : Nat) (client : Option Nat) (related ns wraps : Nat) (data : List Byte) : List Byte :=
  let b := u32 n ++ u16 code ++ u16 (Fx.b2n client.isSome) ++ u8 (client.getD 0xFF) ++ u8 0 ++ u16 data.length ++
    u32 ns ++ u32 wraps ++ u32 related ++ padTo 32 data ++ u32 0
  b ++ u32 (crc32c b)

/-- Raise the event interrupt, at most once per 100 µs; a later one is owed (R461). -/
def eventInt (s : State) : State :=
  let ok := match s.mbx.evIntAt with | none => true | some t => decide (usTicks 100 ≤ s.clk.raw - t)
  if ok then raiseInt 8 { s with mbx := { s.mbx with evIntAt := some s.clk.raw, evIntDue := false } }
  else { s with mbx := { s.mbx with evIntDue := true } }

/-- Sessions whose mask selects an event code; an event for one client goes to that client's session only (R465). -/
def eventSessions (s : State) (code : Nat) (client : Option Nat) : List Nat :=
  (s.mbx.sessions.filter fun p =>
    let sl := Tbl.getD s.mbx.slots p.2.slot {}
    Fx.bit sl.evMask code && (match client with | none => true | some c => c = p.2.slot)).map (·.1)

/-- Post an event (R461): the entry, the producer count, the interrupt; then the datagrams of R465. Nothing is posted
before the mailbox opens. -/
def postEvent (code : Nat) (client : Option Nat) (related : Nat) (data : List Byte) (s : State) : State :=
  if !s.mbx.isOpen then s
  else
    let n := s.mbx.evProd
    let e := eventEntry n code client related s.clk.ns s.clk.wraps data
    let s := { s with mem := { s.mem with mbx := s.mem.mbx.writeBytes (0x8200 + n % 256 * 64) e },
                      mbx := { s.mbx with evProd := (n + 1) % 2 ^ 32 } }
    let s := eventInt s
    (eventSessions s code client).foldl (fun s id => sendSession id 3 e s) s

/-! ### Readiness -/

/-- The needs of a function among the other functions (R19). -/
def needsOf : Nat → List Nat
  | 0 => [Fn.security]
  | 1 => [Fn.time]
  | 2 => [Fn.time]
  | 3 => [Fn.router]
  | 4 => [Fn.router]
  | 5 => [Fn.security]
  | 6 => [Fn.security]
  | 7 => [Fn.time, Fn.ports, Fn.network, Fn.router, Fn.fronds, Fn.bracken]
  | 8 => [Fn.ports, Fn.fronds]
  | _ => []

/-- A function is ready (R12). -/
def isReady (s : State) (f : Nat) : Bool := s.sys.ready.contains f

/-- SYS_READY as a word (R500). -/
def readyWord (s : State) : Nat := s.sys.ready.foldl (fun v f => Fx.setBit v f true) 0

/-- The time from which a trial image's 600 s count: the moment from which every function but Peat and pair is ready (R527). -/
def countTrial (s : State) : State :=
  let all := [Fn.security, Fn.time, Fn.ports, Fn.network, Fn.fronds, Fn.bracken, Fn.router, Fn.supervision].all (isReady s)
  { s with pwr := { s.pwr with trialAt := if all then some (s.pwr.trialAt.getD s.clk.raw) else none } }

/-- A change of readiness updates SYS_READY and posts READY; security opens the mailbox (R449, R463). -/
def setReady (f : Nat) (on : Bool) (s : State) : State :=
  if isReady s f = on then s
  else
    let s := { s with sys := { s.sys with ready := if on then s.sys.ready ++ [f] else s.sys.ready.filter (· != f) } }
    let s := if f = Fn.security ∧ on then { s with mbx := { s.mbx with isOpen := true } } else s
    let s := countTrial s
    postEvent Ev.ready none 0 (u8 f ++ u8 (Fx.b2n on)) s

/-! ### Fault records (R350) -/

/-- The four words of a record. -/
def Record.words (r : Record) : List Nat :=
  [r.source * 2 ^ 20 + r.kind * 2 ^ 12 + r.sev * 2 ^ 8 + min r.count 255,
   r.index % 2 ^ 32,
   r.index / 2 ^ 32 % 2 ^ 16 + (r.detail % 2 ^ 15 + Fx.b2n r.ended * 2 ^ 15) * 2 ^ 16,
   r.timeNs]

/-- The 16 bytes of a record. -/
def Record.bytes (r : Record) : List Byte := r.words.flatMap u32

/-- The 24 bytes of a log entry (R490). -/
def LogEntry.bytes (e : LogEntry) : List Byte := e.rcd.bytes ++ u32 e.wraps ++ u32 e.seq

/-- Reaction entry of a kind in force (R356). -/
def reactionOf (s : State) (k : Nat) : Nat := Tbl.getD s.flt.reaction k (defaultReaction k)

/-- The action set of a kind at a severity. -/
def actionsOf (s : State) (k sev : Nat) : Nat := reactionOf s k / 2 ^ (6 * sev) % 64

/-- Key of an entry of the active table. -/
def faultKey (source kind : Nat) : Nat := source * 256 + kind

/-- The safe state is in force: an uncleared entry applied it, FAULT_TABLE_FULL holds it, or a requested march does
(R359, R354, R368). -/
def safeInForce (s : State) : Bool :=
  s.flt.table.any (fun e => e.2.safe) || s.flt.marchHold ||
  (match s.flt.full with | some sev => Fx.bit (actionsOf s K.faultTableFull sev) Act.safe | none => false)

/-- An uncleared entry holds FAULT_N (R360). -/
def entryHoldsPin (s : State) (kind sev : Nat) : Bool :=
  decide (s.flt.pinLevel ≤ sev) && Fx.bit (actionsOf s kind sev) Act.faultN

/-- VCORE lies in its servo window, in µV (R40). -/
def vcoreInWindow (uv : Nat) : Bool := decide (680000 ≤ uv) && decide (uv ≤ 860000)

/-! ### Location counts (R38, R361) -/

/-- RAW ticks of the rolling window of 3,600 s. -/
def windowTicks : Nat := msTicks 3600000

/-- Count a transient at a location; answers the count within the window and the new set, newest location first. A
new location over a full set of 1,024 replaces the one whose latest event is oldest. -/
def noteTransient (key now : Nat) (locs : List Location) : Nat × List Location :=
  let old := match locs.find? (fun l => l.key = key) with | some l => l.times | none => []
  let times := (now :: old).filter fun t => decide (now - t < windowTicks)
  let rest := locs.filter fun l => l.key != key
  (times.length, ({ key := key, times := times } :: rest).take 1024)

/-- The location of a masked record: a bulk word by its logical address whatever the kind, a word of a memory that the detail
names (log entry 40), else source and place. -/
def locationKey (r : Record) : Nat :=
  if r.kind = K.moveMasked ∨ r.kind = K.delayMasked ∨ r.kind = K.bulkMasked then 2 ^ 62 + r.index
  else if r.kind = K.taskMasked then 2 ^ 63 + r.source * 2 ^ 48 + r.index / 2 ^ 16
  else if r.source < 32 ∨ r.source = Src.scrubber then 2 ^ 80 + (r.source * 2 ^ 15 + r.detail) * 2 ^ 48 + r.index
  else r.source * 2 ^ 48 + r.index

/-- The memory that a location lies in, by the IDs of R367: what R361 schedules for repair. -/
def memoryOf (r : Record) : Option Nat :=
  if r.kind = K.moveMasked ∨ r.kind = K.delayMasked ∨ r.kind = K.bulkMasked then some (r.detail % 32)
  else if r.kind = K.taskMasked then
    (if r.index / 2 ^ 44 % 16 = 0 then some (32 + 16 * r.source + r.index / 2 ^ 40 % 16) else none)
  else if 0x200 ≤ r.source ∧ r.source < 0x400 then some (560 + (r.source - 0x200) / 32)
  else if 0x1C0 ≤ r.source ∧ r.source ≤ 0x1D8 then some (r.source - 0x1C0)
  else if r.source = Src.sram then some 576
  else if r.source < 32 then some (32 + 16 * r.source + r.detail % 16)
  else if r.source = Src.scrubber ∧ 560 ≤ r.detail ∧ r.detail < 576 then some r.detail
  else none

/-- Schedule a memory for repair (R361). -/
def scheduleRepair (m : Nat) (s : State) : State :=
  if s.flt.repairs.contains m then s else { s with flt := { s.flt with repairs := s.flt.repairs ++ [m] } }

/-- Reclassification of a masked record that takes its location past the limit, the location given by its key and by the
memory that holds it (R38, R361). -/
def reclassifyAt (key : Nat) (mem : Option Nat) (r : Record) (s : State) : Record × State :=
  match lastingOf r.kind with
  | none => (r, s)
  | some k =>
    if r.sev ≠ 1 ∨ r.ended then (r, s)
    else
      let (n, locs) := noteTransient key s.clk.raw s.flt.locs
      let s := { s with flt := { s.flt with locs := locs } }
      if s.flt.retryLimit < n then
        ({ r with kind := k, sev := 3 }, match mem with | some m => scheduleRepair m s | none => s)
      else (r, s)

/-! ### The collector -/

/-- Draw a free value of a width in bits (log entry 5). -/
def drawFree (bits : Nat) (s : State) : Nat × State :=
  (Config.freeBits s.free % 2 ^ bits, { s with free := s.free + 1 })

/-- A record of a kind at the present time: an index or a detail that the manual does not state is a free value (R350; log
entry 5). -/
def recordOf (source kind sev count index detail : Nat) (s : State) : Record × State :=
  let (ix, s) := if statesIndex kind then (index, s) else drawFree 48 s
  let (dt, s) := if statesDetail kind then (detail % 32768, s) else drawFree 15 s
  ({ source := source, kind := kind, sev := sev, count := count, index := ix, detail := dt, timeNs := s.clk.ns }, s)

/-- Write a record into the service log (R355): an unread entry that is overwritten counts as lost. Answers whether
an entry was lost. -/
def logRecord (r : Record) (s : State) : Bool × State :=
  let n := s.flt.seq + 1
  let e : LogEntry := { rcd := r, wraps := s.clk.wraps, seq := n }
  let lost := decide (s.flt.readSeq + 4096 ≤ n)
  (lost, { s with flt := { s.flt with log := (e :: s.flt.log).take 4096, seq := n,
                                      lost := if lost then s.flt.lost + 1 else s.flt.lost,
                                      lostNew := if lost then s.flt.lostNew + 1 else s.flt.lostNew,
                                      readSeq := if lost then s.flt.readSeq + 1 else s.flt.readSeq } })

/-- Mladir's copy of a record of severity 2 or above into the persistent log (R355). -/
def persistRecord (r : Record) (s : State) : State :=
  let e : LogEntry := { rcd := r, wraps := s.clk.wraps, seq := s.flt.seq }
  { s with flt := { s.flt with persist := (e :: s.flt.persist).take 8192,
                               persistLost := if 8192 ≤ s.flt.persist.length then s.flt.persistLost + 1
                                              else s.flt.persistLost } }

/-- Log by the action set, then LOG_LOST at severity 1 at most once per second, with the losses since the last one (R350,
R355). -/
def logWithLoss (r : Record) (s : State) : State :=
  let (lost, s) := logRecord r s
  let s := if 2 ≤ r.sev then persistRecord r s else s
  let due := match s.flt.lostAt with | none => true | some t => decide (msTicks 1000 ≤ s.clk.raw - t)
  if lost && due then
    let (l, s) := recordOf Src.collector K.logLost 1 (min 255 s.flt.lostNew) 0 0
      { s with flt := { s.flt with lostAt := some s.clk.raw, lostNew := 0 } }
    if Fx.bit (actionsOf s K.logLost 1) Act.log then (logRecord l s).2 else s
  else s

/-- FAULT_N that a record brings low stays low for at least 1 ms (R360). -/
def holdPin (r : Record) (s : State) : State :=
  if entryHoldsPin s r.kind r.sev && !r.ended then { s with flt := { s.flt with pinUntil := s.clk.raw + msTicks 1 } } else s

/-- The actions log and interrupt (R356), and FAULT_N's least time. -/
def logAndInterrupt (acts : Nat) (r : Record) (s : State) : State :=
  let s := holdPin r s
  let s := if Fx.bit acts Act.log then logWithLoss r s else s
  if Fx.bit acts Act.interrupt then postEvent Ev.fault none 0 r.bytes (raiseInt 9 s) else s

/-- Enter or update the entry of a record (R354). Answers none when the table is full. -/
def enterRecord (r : Record) (s : State) : Option State :=
  let k := faultKey r.source r.kind
  match Tbl.find s.flt.table k with
  | some e =>
    let e' : FaultEntry := { e with sev := max e.sev r.sev, latest := r, total := e.total + max 1 r.count }
    some { s with flt := { s.flt with table := Tbl.put s.flt.table k e' } }
  | none =>
    if s.flt.table.length < 256 then
      let e' : FaultEntry := { sev := r.sev, first := r, latest := r, total := max 1 r.count }
      some { s with flt := { s.flt with table := Tbl.put s.flt.table k e' } }
    else none

/-- Change the entry of a key, when it is held. -/
def alterEntry (k : Nat) (f : FaultEntry → FaultEntry) (s : State) : State :=
  match Tbl.find s.flt.table k with
  | some e => { s with flt := { s.flt with table := Tbl.put s.flt.table k (f e) } }
  | none => s

/-- Request a switch-over (R359, R322): ACTIVE is to drop at the next sample tick. Answers whether one was possible. -/
def requestSwitch (s : State) : Bool × State :=
  if s.pair.activeOut ∧ s.pair.stepAtBoundary then
    (true, { s with pair := { s.pair with dropDue := true, requestAt := some s.clk.raw } })
  else (false, s)

/-- The source has a function that can be reset (R358). -/
def hasReset (src : Nat) : Bool :=
  decide (src < 32) || (decide (0x100 ≤ src) && decide (src < 0x160)) || (decide (0x180 ≤ src) && decide (src ≤ 0x184)) ||
  decide (src = Src.pair) || (decide (0x1C0 ≤ src) && decide (src ≤ 0x1D8)) || decide (src = Src.mladir) ||
  (decide (0x440 ≤ src) && decide (src < 0x480))

/-- Start the reset of the function that holds a source (R358); it ends at RESET_FUNCTION_DONE. -/
def startReset (src : Nat) (s : State) : State :=
  if hasReset src && !s.flt.resets.contains src then
    let s := { s with flt := { s.flt with resets := s.flt.resets ++ [src], resetsDue := s.flt.resetsDue ++ [src] } }
    if src = Src.mladir then { s with sys := { s.sys with mladirUp := false, mladirRestarting := true } } else s
  else s

/-- Switch-over, safe state and reset function of an action set (R356, R358, R359). -/
def applyReactions (acts : Nat) (r : Record) (s : State) : State :=
  let k := faultKey r.source r.kind
  let (switched, s) := if Fx.bit acts Act.switch then requestSwitch s else (false, s)
  let s := if Fx.bit acts Act.safe then
      alterEntry k (fun e => if switched then { e with safeWait := true } else { e with safe := true }) s
    else s
  if Fx.bit acts Act.reset then
    startReset r.source (if hasReset r.source then alterEntry k (fun e => { e with resetting := true }) s else s)
  else s

/-- The collector holds FAULT_TABLE_FULL at the highest severity it could not enter (R354). -/
def tableFull (sev : Nat) (s : State) : State :=
  let now := match s.flt.full with | some v => max v sev | none => sev
  if s.flt.full = some now then s
  else
    let acts := actionsOf s K.faultTableFull now
    let (r, s) := recordOf Src.collector K.faultTableFull now 1 0 0 s
    let old := s.flt.fullEntry
    let e : FaultEntry := { sev := now, first := if s.flt.full.isSome then old.first else r, latest := r,
                            total := if s.flt.full.isSome then old.total + 1 else 1 }
    let s := logAndInterrupt acts r { s with flt := { s.flt with full := some now, fullEntry := e } }
    if Fx.bit acts Act.switch then (requestSwitch s).2 else s

/-- FAULT_TABLE_FULL ends when a clear leaves a free entry (R354). -/
def tableRoom (s : State) : State :=
  match s.flt.full with
  | some sev =>
    if s.flt.table.length < 256 then
      let e := s.flt.fullEntry.latest
      logAndInterrupt (actionsOf s K.faultTableFull sev) { e with ended := true, timeNs := s.clk.ns }
        { s with flt := { s.flt with full := none, fullEntry := {} } }
    else s
  | none => s

/-- Clear the entry of a key (R354). -/
def clearEntry (k : Nat) (s : State) : State :=
  tableRoom { s with flt := { s.flt with table := Tbl.erase s.flt.table k } }

/-- Kinds whose log is a local detection (R332). -/
def isDetection (k : Nat) : Bool :=
  [K.deadlineMissed, K.taskLasting, K.mixLasting, K.moveLasting, K.delayLasting, K.bulkMasked, K.pageLasting,
   K.netReconcile, K.pairReconcile, K.pairCommand].contains k

/-- Note a local detection with the frame in progress; those of older frames are no longer needed (R332). -/
def noteDetection (r : Record) (s : State) : State :=
  if isDetection r.kind then
    { s with pair := { s.pair with
        detections := (s.sys.frameNo, r.sev) :: s.pair.detections.filter fun d => decide (s.sys.frameNo < d.1 + 8) } }
  else s

/-- The collector takes a record of a location (R353 to R361). -/
def collectAt (key : Nat) (mem : Option Nat) (r : Record) (s : State) : State :=
  let (r, s) := reclassifyAt key mem r s
  let s := noteDetection r s
  let acts := actionsOf s r.kind r.sev
  if r.ended then clearEntry (faultKey r.source r.kind) (logAndInterrupt acts r s)
  else
    let s := logAndInterrupt acts r s
    let s := if 2 ≤ r.sev then { s with flt := { s.flt with latest := r } } else s
    let s := if 3 ≤ r.sev then
        let e : LogEntry := { rcd := r, wraps := s.clk.wraps, seq := s.flt.seq }
        { s with flt := { s.flt with gasp := (e :: s.flt.gasp).take 16 } }
      else s
    if 2 ≤ r.sev ∨ Fx.bit acts Act.faultN ∨ Fx.bit acts Act.safe then
      match enterRecord r s with
      | some s => applyReactions acts r s
      | none => applyReactions acts r (tableFull r.sev s)
    else applyReactions acts r s

/-- The collector takes a record, whose location its own fields name (R353 to R361). -/
def collect (r : Record) (s : State) : State := collectAt (locationKey r) (memoryOf r) r s

/-- A block reports a fault: the record of R350 with the present time. -/
def report (source kind sev : Nat) (index detail : Nat) (s : State) : State :=
  let (r, s) := recordOf source kind sev 1 index detail s
  collect r s

/-- A block reports a fault of a location that the record's fields do not tell from others, and that no memory holds. -/
def reportAt (key source kind sev : Nat) (index detail : Nat) (s : State) : State :=
  let (r, s) := recordOf source kind sev 1 index detail s
  collectAt key none r s

/-- Is a log of a kind due: at its start, then at most once per second while it continues (R430, R469). -/
def logDue (key : Nat) (s : State) : Bool :=
  match Tbl.find s.flt.violations key with
  | none => true
  | some (t, _) => decide (msTicks 1000 ≤ s.clk.raw - t)

/-- A block that reports at most once per second while something continues; the record's count is the occurrences
since its previous record (R350, R469). -/
def reportLimited (source kind sev index detail : Nat) (s : State) : State :=
  let key := faultKey source kind
  let since := match Tbl.find s.flt.violations key with | some (_, n) => n | none => 0
  if logDue key s then
    let (r, s) := recordOf source kind sev (min 255 (since + 1)) index detail
      { s with flt := { s.flt with violations := Tbl.put s.flt.violations key (s.clk.raw, 0) } }
    collect r s
  else
    let t := match Tbl.find s.flt.violations key with | some (t, _) => t | none => 0
    { s with flt := { s.flt with violations := Tbl.put s.flt.violations key (t, since + 1) } }

/-- A source ends a condition: an END record that names what the condition's entry does (R353). -/
def endCondition (source kind sev : Nat) (s : State) : State :=
  match Tbl.find s.flt.table (faultKey source kind) with
  | some e => collect { e.latest with sev := sev, count := 1, ended := true, timeNs := s.clk.ns } s
  | none =>
    let (r, s) := recordOf source kind sev 1 0 0 s
    collect { r with ended := true } s

/-- A condition stands in the active table. -/
def conditionStands (s : State) (source kind : Nat) : Bool := Tbl.has s.flt.table (faultKey source kind)

/-- A fault that TEST.INJECT has asked for and that a detector meets now (R380): it is there once. -/
def takeInjected (hit : Nat × Nat × Nat → Bool) (s : State) : Bool × State :=
  match s.supv.injected.find? hit with
  | some x => (true, { s with supv := { s.supv with injected := s.supv.injected.erase x } })
  | none => (false, s)

/-! ### Bulk addresses (R423) -/

/-- The physical bank of a logical one (R423). -/
def physBank (s : State) (l : Nat) : Nat := Tbl.getD s.sys.bankMap l l

/-- The logical bank that a physical one serves. -/
def logicalOf (s : State) (b : Nat) : Option Nat := (List.range 24).find? fun l => physBank s l = b

/-- The logical bulk address of a byte of a logical bank (R423). -/
def bulkAddr (l off : Nat) : Nat := l / 4 * 2 ^ 25 + off / 256 * 1024 + l % 4 * 256 + off % 256

/-- The physical bank that serves a logical bulk address, and the byte's place in its bank (R423). -/
def bankServing (s : State) (a : Nat) : Nat := physBank s (a / 2 ^ 25 * 4 + a / 256 % 4)
def bankOffset (a : Nat) : Nat := a / 1024 % 2 ^ 15 * 256 + a % 256

/-! ### Reading and writing slots and pages of plain tables -/

/-- A client slot. -/
def slotOf (s : State) (c : Nat) : Slot := Tbl.getD s.mbx.slots c {}

/-- Put a client slot. -/
def putSlot (c : Nat) (sl : Slot) (s : State) : State := { s with mbx := { s.mbx with slots := Tbl.put s.mbx.slots c sl } }

/-- The family of the rate in force. -/
def fam (s : State) : Nat := s.sys.rate / 2

end Sys2Proof.Machine
end

