-- ==== Sys2Proof/Machine/LinkSend.lean ====
section
/-!
DEFINITION. Sending on the twin link (R344 to R346): a sequenced message takes the next number and is held until it is
acknowledged; every message sent carries the acknowledgement.
-/
namespace Sys2Proof.Machine
open Sys2Proof

/-- LINK_ACK and LINK_NAK are not sequenced (R344). -/
def isUnsequenced : LinkMsg → Bool
  | .ack => true
  | .nak _ => true
  | _ => false

/-- LANES travels while the link trains (R342); every other message needs the link up. -/
def isTraining : LinkMsg → Bool
  | .lanes _ _ => true
  | .ack => true
  | .nak _ => true
  | _ => false

/-- Class of a message (R344). -/
def classOf : LinkMsg → Nat
  | .hello _ | .configHash _ | .recon _ _ _ _ | .pktRecon _ | .fetch _ | .data _ _ => 1
  | .command _ _ _ _ _ | .commandAck _ _ _ | .stateCtrl _ _ => 1
  | .config _ _ _ | .state _ => 2
  | _ => 0

/-- A message as it leaves, with the acknowledgement and the frame number of its header (R344). -/
def linkOut (seq : Nat) (again : Bool) (m : LinkMsg) (s : State) : Output :=
  .link seq s.pair.link.rxSeq (s.sys.frameNo % 2 ^ 32) again m

/-- A message goes out: a sequenced one takes the next number and is held until it is acknowledged (R345). -/
def emitLink (m : LinkMsg) (s : State) : State :=
  let k := s.pair.link
  let k' := if isUnsequenced m then { k with ackDue := false } else
    { k with
      txSeq := (k.txSeq + 1) % 2 ^ 16, ackDue := false
      unacked := k.unacked ++ [(k.txSeq, m, s.clk.raw, false)] }
  { s with out := s.out ++ [linkOut k.txSeq false m s], pair := { s.pair with link := k' } }

/-- The message that goes out next of those that wait: the lowest class, in order of arrival (R346). -/
def nextQueued (q : List LinkMsg) : Option LinkMsg :=
  (q.find? fun m => decide (classOf m = 0)).or ((q.find? fun m => decide (classOf m = 1)).or q.head?)

/-- Messages that wait go out as far as the window of 1,024 unacknowledged messages allows. -/
def drainQueue : Nat → State → State
  | 0, s => s
  | n + 1, s =>
    match nextQueued s.pair.link.queue with
    | none => s
    | some m =>
      if 1024 ≤ s.pair.link.unacked.length then s
      else drainQueue n (emitLink m { s with pair := { s.pair with link := { s.pair.link with queue := s.pair.link.queue.erase m } } })

/-- Send a message (R345, R346). -/
def sendLink (m : LinkMsg) (s : State) : State :=
  let k := s.pair.link
  if !k.up && !isTraining m then s
  else if isUnsequenced m ∨ (k.unacked.length < 1024 ∧ k.queue = []) then emitLink m s
  else drainQueue 1024 { s with pair := { s.pair with link := { k with queue := k.queue ++ [m] } } }

/-- Commands are forwarded to a partner that is IN_STEP or SYNCING, by the active engine (R329). -/
def forwards (s : State) : Bool :=
  s.sys.pairEn && s.pair.activeOut && s.pair.link.up &&
  (decide (s.pair.state = 3) || decide (s.pair.state = 4))

end Sys2Proof.Machine
end

