-- ==== Sys2Proof/Machine/Params.lean ====
section
/-!
DEFINITION. Parameter pages: what each page number names (R126), which fields it has, their ranges, steps and reset
values (R68, R73 to R119, R481, R484). Values are in the engineering units of R470; a page record lists the fields
that differ from their reset value.
-/
namespace Sys2Proof.Machine
open Sys2Proof

/-- Sample rates in Hz by rate code (R160). -/
def fsOf : Nat → Nat
  | 0 => 44100
  | 1 => 48000
  | 2 => 88200
  | 3 => 96000
  | 4 => 176400
  | _ => 192000

/-- Rate family: 0 the 48 kHz, 1 the 96 kHz, 2 the 192 kHz family (R4). -/
def familyOf (rate : Nat) : Nat := rate / 2

/-- The value that means off or −∞ in a level field (R470). -/
def dbOff : Int := -2147483648

/-- No endpoint, in an endpoint field (R470). -/
def noEndpoint : Int := 0x1FFFF

/-- How a field takes a value (R68). -/
inductive FieldKind where
  | quantity
  /-- A level that may also be off. -/
  | levelOrOff
  /-- A choice: a code out of its list is refused with CONFLICT. -/
  | choice
  | endpoint
  /-- A crosspoint: level in [31:0], flags in [34:32], precedence level in [43:40] (R107, R484). -/
  | cross
  /-- A raw crosspoint word, whose reserved field reads zero (R108). -/
  | rawCross
  /-- 0 for off, else a quantity. -/
  | quantityOrZero
  /-- The nearest of a list of values; none of them in the list is a CONFLICT (R83). -/
  | listed (values : List Int)
  /-- A meter type, 0 to 2, or from 3 on the block length of a pilot-tone detector (log entry 18). -/
  | meterOrLength
  deriving DecidableEq, Repr

/-- Range, step and reset value of a field. -/
structure FieldSpec where
  kind : FieldKind := .quantity
  lo : Int := 0
  hi : Int := 0
  step : Int := 1
  dflt : Int := 0
  structural : Bool := false
  deriving DecidableEq, Repr

/-- A quantity field. -/
def qty (lo hi step dflt : Int) : FieldSpec := { lo := lo, hi := hi, step := step, dflt := dflt }
/-- A choice of n items. -/
def choice (n : Nat) (dflt : Int) : FieldSpec := { kind := .choice, lo := 0, hi := (n : Int) - 1, dflt := dflt }
/-- A structural field. -/
def struct (f : FieldSpec) : FieldSpec := { f with structural := true }

/-- Where a block stands: standalone, or in an input, bus or output strip (R101). -/
inductive Place where
  | alone | inputStrip | busStrip | outputStrip
  deriving DecidableEq, Repr

/-- What a page number names (R126). -/
inductive PageName where
  | router (n : Nat)
  | selection (n : Nat)
  | flags
  | lane (n : Nat)
  | port (n : Nat)
  | block (place : Place) (strip order : Nat) (kind : BlockKind)
  | instance_ (page : Nat)
  | nothing
  deriving DecidableEq, Repr

/-- The block of an order of a strip (R101); order 0 is the strip enable. -/
def stripBlock : Place → Nat → Option BlockKind
  | .inputStrip, n => [BlockKind.stripEnable, .trim, .delay, .highPass, .lowPass, .peq, .gateOrExpander, .compressor,
      .limiter, .presence, .fader][n]?
  | .busStrip, n => [BlockKind.stripEnable, .peq, .compressor, .ancGain, .delay, .fader][n]?
  | .outputStrip, n => [BlockKind.stripEnable, .trim, .delay, .highPass, .lowPass, .peq, .fir, .limiter, .pilot,
      .fader][n]?
  | .alone, _ => none

/-- Input strips, buses, output strips, mix inputs and network channels that exist in a family (R47, R105). -/
def inStrips (fam : Nat) : Nat := if fam = 0 then 2048 else if fam = 1 then 1024 else 0
/-- Bus strips (R4). -/
def busStrips (fam : Nat) : Nat := if fam = 0 then 512 else if fam = 1 then 256 else 0
def outStrips (fam : Nat) : Nat := if fam = 0 then 512 else if fam = 1 then 256 else 0
def netChannels (fam : Nat) : Nat := if fam = 0 then 8192 else if fam = 1 then 4096 else 0
def portSlots (fam : Nat) : Nat := if fam = 0 then 32 else if fam = 1 then 16 else 8

/-- An endpoint ID exists at a rate family, by range and index (R46, R47). Expert pins count as existing. -/
def endpointExists (fam id : Nat) : Bool :=
  if id < 0xC00 then decide (id % 32 < portSlots fam)
  else if id < 0x1800 then decide ((id - 0xC00) % 32 < portSlots fam)
  else if id < 0x2000 then false
  else if id < 0x4000 then decide (id - 0x2000 < netChannels fam)
  else if id < 0x6000 then decide (id - 0x4000 < netChannels fam)
  else if id < 0x6800 then decide (id - 0x6000 < inStrips fam)
  else if id < 0x7000 then decide (id - 0x6800 < inStrips fam)
  else if id < 0x7200 then decide (fam ≤ 1)
  else if id < 0x7400 then decide (id - 0x7200 < outStrips fam)
  else if id < 0x7600 then decide (id - 0x7400 < outStrips fam)
  else if id < 0x7700 then decide (fam ≤ 1)
  else if id < 0x7800 then false
  else if id < 0x8000 then decide (fam ≤ 1)
  else if id < 0x10000 then true
  else decide (id < 0x10200)

/-- What a page number names at a rate family (R126). -/
def pageName (fam p : Nat) : PageName :=
  if p < 0x200 then
    if (List.range 256).any fun o => endpointExists fam (p * 256 + o) && isSinkRange (p * 256 + o)
    then .router p else .nothing
  else if p < 0x208 then (if fam = 0 ∨ (fam = 1 ∧ p < 0x204) then .selection (p - 0x200) else .nothing)
  else if p = 0x208 then (if fam ≤ 1 then .flags else .nothing)
  else if p < 0x400 then .nothing
  else if p < 0x600 then (if fam ≤ 1 then .lane (p - 0x400) else .nothing)
  else if p < 0x660 then .port (p - 0x600)
  else if p < 0x700 then .nothing
  else if p < 0x800 then .block .alone (p - 0x700) 0 .generator
  else if p < 0x900 then .block .alone (p - 0x800) 0 .detector
  else if p < 0x1000 then .nothing
  else if p < 0x9000 then strip .inputStrip ((p - 0x1000) / 16) ((p - 0x1000) % 16) (inStrips fam)
  else if p < 0xA000 then strip .busStrip ((p - 0x9000) / 8) ((p - 0x9000) % 8) (busStrips fam)
  else if p < 0xC000 then strip .outputStrip ((p - 0xA000) / 16) ((p - 0xA000) % 16) (outStrips fam)
  else if p < 0x10000 then .instance_ p
  else .nothing
where
  /-- Ranges whose endpoints are sinks; expert pins may be. -/
  isSinkRange (id : Nat) : Bool :=
    decide (0xC00 ≤ id ∧ id < 0x1800) || decide (0x4000 ≤ id ∧ id < 0x6800) || decide (0x7200 ≤ id ∧ id < 0x7400) ||
    decide (0x7800 ≤ id ∧ id < 0x10000) || decide (0x10100 ≤ id ∧ id < 0x10200)
  strip (pl : Place) (n o limit : Nat) : PageName :=
    if n < limit then match stripBlock pl o with
      | some k => .block pl n o k
      | none => .nothing
    else .nothing

/-- Dynamics rows 0 to 10 and IDs 11 to 17 of a block (R89, R481). -/
def dynSpec (k : BlockKind) (place : Place) (id : Nat) : Option FieldSpec :=
  let lim := decide (k = .limiter)
  let cmp := decide (k = .compressor)
  let gate := decide (k = .gate)
  let exp := decide (k = .expander)
  match id with
  | 0 => some (if lim then qty (-4000) 0 10 (-100) else if cmp then qty (-6000) 0 10 (-2000) else qty (-8000) 0 10 (-5000))
  | 1 => if exp then some (qty 100 2000 10 200) else if cmp then some (qty 100 5000 10 400) else none
  | 2 => if gate || exp then some (qty 0 8000 10 4000) else none
  | 3 => if exp then some (qty 0 2400 10 0) else if cmp then some (qty 0 2400 10 600)
         else if lim then some (qty 0 1200 10 200) else none
  | 4 => if gate then some (qty 0 1200 10 400) else none
  | 5 => if gate then some (qty 50 50000 10 500) else if exp then some (qty 50 200000 10 5000)
         else if cmp then some (qty 50 200000 10 10000) else none
  | 6 => if gate then some (qty 0 2000000 1000 50000) else none
  | 7 => if gate || exp then some (qty 5000 5000000 1000 200000)
         else if cmp then some (qty 5000 5000000 1000 250000) else some (qty 5000 2000000 1000 100000)
  | 8 => if cmp then some (qty 0 2400 10 0) else none
  | 9 => if lim then some (struct (choice (if place = .inputStrip then 1 else 2) (if place = .outputStrip then 1 else 0))) else none
  | 10 => if lim then some (qty 0 256 1 48) else none
  | 11 => some (choice 2 0)
  | 12 => some (qty 5000 300000 100 10000)
  | 13 => some { kind := .quantityOrZero, lo := 2000, hi := 50000 }
  | 14 => if place = .alone then none else some { kind := .endpoint, dflt := noEndpoint }
  | 15 => if place = .alone then some (struct (qty 1 8 1 1)) else none
  | 16 => if place = .alone then some (struct (choice 2 0)) else none
  | _ => none

/-- Orders that a response of a high-pass or low-pass block allows within a maximum order (R83). -/
def passOrders (most response : Int) : List Int :=
  (if response = 0 then [1, 2, 3, 4, 5, 6, 7, 8] else if response = 1 then [2, 4, 8] else [2]).filter fun n => decide (n ≤ most)

/-- The value of an ascending list nearest to another, of two as near the greater (R68). -/
def nearestOf : List Int → Int → Int
  | [], v => v
  | [a], _ => a
  | a :: b :: l, v => if 2 * v < a + b then a else nearestOf (b :: l) v

/-- The specification of a parameter of a block (R68 to R100, R481). `get` reads a field of the page as applied so
far, for the fields whose range depends on another (R68). fs in Hz, `fam` the rate family. Defaults that the manual does not
give: a fader is off; a generator sweeps to 0.45 f_s in 1 s and pulses every sample; a meter's RMS time constant is 300 ms,
its hold and fall are 0 and its event threshold is off (DESIGN CHOICE, log entry 79). A Q beyond a shelf's 0.30 to 2.00 that
stands when the band's type becomes a shelf is kept, and used as it stands (R84; DESIGN CHOICE, log entry 79). -/
def blockSpec (k : BlockKind) (place : Place) (fam : Nat) (fs : Int) (get : Nat → Int) (id : Nat) : Option FieldSpec :=
  let f45 := 45 * fs
  match k with
  | .stripEnable => if id = 0 then some (choice 2 0) else none
  | .trim =>
    match id with
    | 0 => some (qty (-8000) 2400 1 0)
    | 1 => some (choice 2 0)
    | 2 => some (choice 2 0)
    | 3 => some (qty 0 256 1 64)
    | _ => none
  | .fader =>
    match id with
    | 0 => some { kind := .levelOrOff, lo := -10000, hi := 1200, dflt := dbOff }
    | 1 => some (choice 2 0)
    | 2 => some (qty 0 256 1 64)
    | _ => none
  | .delay =>
    let most : Int := if place = .alone then 20000000 else if place = .outputStrip then 2000000 else 250000
    let dmax : Int := if place = .alone then 1000000 else if place = .outputStrip then 20000 else 0
    match id with
    | 0 => some (struct (qty 0 most 1000 dmax))
    | 1 => some (choice 3 0)
    | 2 =>
      let mx := get 0
      let hi := if get 1 = 0 then mx
        else if get 1 = 1 then Fx.roundAway (mx * fs) 1000000
        -- mm: t·c with c = 331.3 + 0.606·T m/s, T in 0.1 °C
        else Fx.roundAway (mx * (3313000 + 606 * get 3)) 10000000
      some (qty 0 hi 1 0)
    | 3 => some (qty (-200) 500 1 200)
    | 4 => some (qty 0 256 1 64)
    | _ => none
  | .highPass | .lowPass =>
    let top : Int := if place = .alone then 8 else if k = .highPass then 4 else 2
    match id with
    | 0 => some (struct (qty 1 top 1 (if place = .alone then 4 else top)))
    | 1 => some (choice (if get 0 < 2 then 1 else 3) 0)
    | 2 => some { kind := .listed (passOrders (get 0) (get 1)), dflt := min 2 (get 0) }
    | 3 => some (qty 1000 f45 1 (if k = .highPass then 8000 else 1600000))
    | 4 => some (qty 30 1000 1 71)
    | 5 => some (choice 2 0)
    | _ => none
  | .peq =>
    let bands : Int := if place = .busStrip then 8 else 16
    if id = 0 then some (struct (qty 1 bands 1 bands))
    else if 32 ≤ id ∧ ((id / 32 - 1 : Nat) : Int) < get 0 then
      let b := id / 32 * 32
      match id % 32 with
      | 0 => some (choice 8 0)
      | 1 => some (qty 1000 f45 1 100000)
      | 2 => some (qty (-3000) 1800 1 0)
      | 3 => some (if get b = 1 ∨ get b = 2 then qty 30 200 1 71 else qty 10 4000 1 71)
      | 4 => some (choice 2 0)
      | _ => none
    else none
  | .crossover =>
    if id = 0 then some (struct (choice 3 0))
    else if id = 1 then some (struct (qty 2 4 1 2))
    else if id = 2 then some (qty 2000 f45 1 12000)
    else if id = 3 ∨ id = 4 then
      if (id : Int) - 1 < get 1 then
        -- at least 1/3 octave above the point before: f·2^(1/3)
        let low := Fx.roundAway (get (id - 1) * Fx.pow2 (Fx.ratio 1 3)) Fx.one
        some (qty low f45 1 (if id = 3 then 120000 else 600000))
      else none
    else if 32 ≤ id ∧ ((id / 32 - 1 : Nat) : Int) < get 1 then
      match id % 32 with
      | 0 => some (qty (-8000) 2400 1 0)
      | 1 => some (choice 2 0)
      | 2 => some (choice 2 0)
      | _ => none
    else none
  | .fir =>
    let top : Int := if place = .outputStrip then 512 else if fam = 0 then 4096 else 2048
    match id with
    | 0 => some (struct (qty 1 top 1 512))
    | 2 => some (qty 0 3 1 0)
    | 3 => some (qty 0 (get 0 - 1) 1 0)
    | _ => none
  | .gate | .expander | .compressor | .limiter => dynSpec k place id
  | .gateOrExpander =>
    -- a field of the type that is not in force is checked and stored all the same (R68)
    if id = 17 then some (choice 2 0)
    else (dynSpec (if get 17 = 1 then .expander else .gate) place id).or (dynSpec (if get 17 = 1 then .gate else .expander) place id)
  | .presence =>
    match id with
    | 0 => some (qty (-8000) (-2000) 10 (-4500))
    | 1 => some (qty 10000 5000000 1000 500000)
    | _ => none
  | .ancGain =>
    match id with
    | 0 => if place = .alone then none else some { kind := .endpoint, dflt := noEndpoint }
    | 1 => some (qty (-9000) (-2000) 10 (-6000))
    | 2 => some (qty 0 100 5 50)
    | 3 => some (qty 0 2000 10 1000)
    | 4 => some (qty 0 2000 10 600)
    | 5 => some (qty 10 600 10 100)
    | 6 => some (qty 10 600 10 50)
    | 7 => some (qty (-8000) (-2000) 10 (-5000))
    | 8 => some (qty 50000 2000000 1000 200000)
    | _ => none
  | .asrc =>
    match id with
    | 0 => some (choice 96 0)
    | 1 => some (choice 2 0)
    | 2 => some (struct (choice 7 1))
    | _ => none
  | .pilot =>
    match id with
    | 0 => some (choice 2 0)
    | 1 => some (qty 1800000 (min 2200000 f45) 1 2000000)
    | 2 => some (qty (-6000) (-1200) 1 (-3000))
    | 3 => some (struct (choice 2 0))
    | _ => none
  | .generator =>
    match id with
    | 0 => some (choice 6 0)
    | 1 => some (qty (-12000) 0 1 (-2000))
    | 2 => some (qty 1000 f45 1 100000)
    | 3 => some (qty 1000 f45 1 f45)
    | 4 => some (qty 100000 600000000 1 1000000)
    | 5 => some (choice 2 0)
    | 6 => some (qty 1 4294967295 1 1)
    | 7 => some (qty 1 65536 1 1)
    | 8 => some (choice 2 0)
    | _ => none
  | .detector =>
    -- ID 0 below 3 is a meter type; from 3 on it is the block length of a pilot-tone detector (log entry 18)
    let pilot := decide (3 ≤ get 0)
    if id = 0 then some { kind := .meterOrLength }
    else if pilot then
      match id with
      | 1 => some (qty (-9000) (-3000) 1 (-6000))
      | 2 => some (choice 512 0)
      | _ => none
    else
      match id with
      | 1 => some (qty 0 10000000 1 0)
      | 2 => some (qty 0 6000 1 0)
      | 3 => some (qty 10000 10000000 1 300000)
      | 4 => some { kind := .levelOrOff, lo := -15000, hi := 0, dflt := dbOff }
      | 5 => some (qty 0 1200 1 0)
      | _ => none

/-- Fields of the other pages (R484): a sink, a mix input, a flag, a lane, a port. -/
def laneSpec (id : Nat) : Option FieldSpec :=
  if id = 0x1000 then some (qty (-4000) 1806 1 0)
  else if id = 0x1001 ∨ id = 0x1002 then some (choice 2 0)
  else if id = 0x1003 then some (qty 0 256 1 64)
  else if id = 0x1004 then some (choice 2 1)
  else if id = 0x1005 then some (qty (-4000) 0 10 0)
  else if id = 0x1006 then some (qty 0 1200 10 0)
  else if id = 0x1007 then some (qty 5000 2000000 1000 100000)
  else if id = 0x1008 then some (qty 5 300 1 25)
  else if id = 0x1009 then some (qty 500 100000 100 5000)
  else if 0x1100 ≤ id ∧ id < 0x1200 then
    match id % 16 with
    | 0 => some { kind := .levelOrOff, lo := 0, hi := 6000, step := 10, dflt := 2000 }
    | 1 => some (qty 1000 2000000 1000 50000)
    | 2 => some (qty 10000 30000000 1000 1500000)
    | n => if 8 ≤ n then some { kind := .endpoint, dflt := 0xFFFFFFFF } else none
  else none

/-- Reset value of a crosspoint field: off, not assigned, stepped, level 0 (R484: level in [31:0]). -/
def xpReset : Int := 0x80000000

/-- Highest field ID of crosspoints: one for each mix input of the family (R105, R109). -/
def mixInputs (fam : Nat) : Nat := if fam = 0 then 2048 else if fam = 1 then 1024 else 0

/-- The raw-word fields of a page start here (R484). -/
def rawBase : Nat := 0x1000000

/-- The field specification of any page; raw words and taps have no reset of their own: they are absent (−1). -/
def fieldSpec (inst : Nat → Option BlockKind) (fam : Nat) (fs : Int) (p : Nat) (get : Nat → Int) (id : Nat) :
    Option FieldSpec :=
  match pageName fam p with
  | .router _ =>
    if 1024 ≤ id then none
    else match id % 4 with
      | 0 => some { kind := .endpoint, dflt := noEndpoint }
      | 1 => some (qty 0 256 1 64)
      | 2 => some (choice 2 0)
      | _ => none
  | .selection _ =>
    if 2048 ≤ id then none
    else match id % 8 with
      | 0 => some { kind := .endpoint, dflt := noEndpoint }
      | 1 => some (qty 0 256 1 64)
      | 2 => some (qty (-8000) (-2000) 10 (-4500))
      | 3 => some (qty 10000 5000000 1000 500000)
      | _ => none
  | .flags => if id < 256 then some (choice 2 0) else none
  | .lane _ =>
    if id < mixInputs fam then some { kind := .cross, dflt := xpReset }
    else if rawBase ≤ id ∧ id < rawBase + mixInputs fam then some { kind := .rawCross, dflt := -1 }
    else laneSpec id
  | .port _ =>
    match id with
    | 0 => some { kind := .endpoint, dflt := 0xFFFFFFFF }
    | 1 => some { kind := .endpoint, dflt := 0xFFFFFFFF }
    | 2 => some (qty 1 32 1 32)
    | _ => none
  | .block pl _ _ k =>
    if rawBase ≤ id then some { kind := .endpoint, dflt := -1 } else blockSpec k pl fam fs get id
  | .instance_ pg =>
    match inst pg with
    | none => none
    | some k => if rawBase ≤ id then some { kind := .endpoint, dflt := -1 } else blockSpec k .alone fam fs get id
  | .nothing => none

/-- The outcome of putting a value into a field (R68): refused as CONFLICT, or the applied value. -/
def applyField (f : FieldSpec) (v : Int) : Option Int :=
  match f.kind with
  | .endpoint => some v
  | .cross =>
    let w := Fx.toUnsigned 64 v
    let l := Fx.toSigned 32 w
    let a := if l = dbOff then l else Fx.clamp (-12000) 1806 l
    some (Fx.toUnsigned 32 a + (Fx.bits w 34 32 : Int) * 2 ^ 32 + (Fx.bits w 43 40 : Int) * 2 ^ 40)
  | .rawCross => some (Fx.toUnsigned 30 v)
  | .choice => if f.lo ≤ v ∧ v ≤ f.hi then some v else none
  | .levelOrOff => if v = dbOff then some v else some (rng f v)
  | .quantityOrZero => if v ≤ 0 then some 0 else some (rng f v)
  | .listed l => if l = [] then none else some (nearestOf l v)
  | .meterOrLength => some (if v < 3 then max 0 v else Fx.clamp 20000 1000000 v)
  | .quantity => some (rng f v)
where
  rng (f : FieldSpec) (v : Int) : Int := Fx.clamp f.lo f.hi (Fx.roundAway (Fx.clamp f.lo f.hi v) f.step * f.step)

end Sys2Proof.Machine
end

