-- ==== Sys2Proof/Machine/MailMem.lean ====
section
/-!
DEFINITION. Mailbox memory as it is read and written (R447, R449): the header and the slot table are views of the
structured state, each word written by one side only; rings, event ring and windows are bytes.
-/
namespace Sys2Proof.Machine
open Sys2Proof

/-- The maintenance state is in force (R466). -/
def inMaint (s : State) : Bool := s.sys.maint.isSome

/-- A field of the running image's header (R525); before a start, what the engine ships with. -/
def imageField (s : State) (off n shipped : Nat) : Nat :=
  if s.pwr.header = [] then shipped else fromLE ((s.pwr.header.drop off).take n)

def firmwareVersion (s : State) : Nat := imageField s 8 2 Config.firmwareVersion.toNat
def firmwareBuild (s : State) : Nat := imageField s 12 4 Config.firmwareBuild.toNat
/-- The Seril version, major in the high byte (R2, R525). -/
def serilVersion (s : State) : Nat := imageField s 10 2 (0x0200 + Config.serilMinor.toNat)

/-- A word of the header (R449). -/
def headerWord (s : State) (off : Nat) : Nat :=
  match off with
  | 0 => 0x4C524553
  | 4 => 2 + serilVersion s * 2 ^ 16
  | 8 => s.sys.heartbeat
  | 12 => s.mbx.evProd
  | 16 => Fx.b2n s.mbx.isOpen + 2 * Fx.b2n s.sys.pairEn + 4 * Fx.b2n s.pair.activeOut + 8 * Fx.b2n (inMaint s)
  | 20 => readyWord s
  | 24 => Config.serial.toNat % 2 ^ 32
  | _ => 0

/-- A word of a slot's entry (R447). -/
def slotWord (sl : Slot) (off : Nat) : Nat :=
  match off with
  | 0 => sl.state + sl.path * 2 ^ 8 + sl.rights * 2 ^ 16
  | 4 => sl.tag
  | 8 => sl.reqProd
  | 12 => sl.reqCons
  | 16 => sl.respProd
  | 20 => sl.respCons
  | 24 => sl.evCons
  | _ => sl.heartbeat

/-- A 32-bit word of mailbox memory; everything reads zero until the mailbox opens (R449). -/
def mbxWord (s : State) (off : Nat) : Nat :=
  let off := off / 4 * 4
  if !s.mbx.isOpen then 0
  else if off < 0x100 then headerWord s off
  else if off < 0x200 then slotWord (slotOf s ((off - 0x100) / 32)) (off % 32)
  else s.mem.mbx.readLE off 4

/-- A byte of mailbox memory. -/
def mbxByte (s : State) (off : Nat) : Byte := BitVec.ofNat 8 (mbxWord s off / 256 ^ (off % 4))

/-- Replace the enabled bytes of a word (R419). -/
def mergeBytes (old new enables : Nat) : Nat :=
  (List.range 4).foldl (fun v i =>
    v + (if Fx.bit enables i then new / 256 ^ i % 256 else old / 256 ^ i % 256) * 256 ^ i) 0

/-- A client's write of a word of its slot's entry: the words that the client writes take it (R447). A heartbeat that
changes restarts the liveness time (R448). -/
def slotWrite (c off v : Nat) (s : State) : State :=
  let sl := slotOf s c
  match off with
  | 8 => putSlot c { sl with reqProd := v } s
  | 20 => putSlot c (if sl.respCons = v then sl else { sl with respCons := v, consAt := s.clk.raw }) s
  | 24 => putSlot c { sl with evCons := v } s
  | 28 => putSlot c (if sl.heartbeat = v then sl else { sl with heartbeat := v, beatAt := s.clk.raw }) s
  | _ => s

/-- A word write to mailbox memory through port B, with byte enables (R419, R447, R449). -/
def mbxWriteWord (off v enables : Nat) (s : State) : State :=
  let off := off / 4 * 4
  let w := mergeBytes (mbxWord s off) v enables
  if !s.mbx.isOpen then s
  else if off < 0x100 then s
  else if off < 0x200 then slotWrite ((off - 0x100) / 32) (off % 32) w s
  else { s with mem := { s.mem with mbx := s.mem.mbx.writeLE off w 4 } }

/-- A byte write. -/
def mbxWriteByte (off : Nat) (b : Byte) (s : State) : State :=
  mbxWriteWord off (b.toNat * 256 ^ (off % 4)) (2 ^ (off % 4)) s

end Sys2Proof.Machine
end

