-- ==== Sys2Proof/Machine/Seril.lean ====
section
/-!
DEFINITION. The Seril protocol (16, 17): responses and their prefix (R472, R473), the response ring and datagrams (R450,
R464), data references and held results (R452, R458, R471), the sequence history (R454, R455), and the serving of a
request: rights, maintenance state, pair and readiness, then the command's own body (R451, R463, R465 to R467, R469).
-/
namespace Sys2Proof.Machine
open Sys2Proof

/-- What a command answers: status, clamp records, detail, command data, and data that go to the data reference. -/
structure Reply where
  status : Nat := 0
  clamps : List Clamp := []
  detail : Nat := 0
  data : List Byte := []
  refData : List Byte := []
  /-- The response comes later: a long command still at work, a transaction of R329, a write that waits (R128). -/
  later : Bool := false
  deriving DecidableEq, Repr

/-- The detail word: reason and index (R473). -/
def reason (r idx : Nat) : Nat := r * 2 ^ 24 + idx % 2 ^ 24

/-- A refusal. -/
def refuse (status : Nat) (detail : Nat := 0) : Reply := { status := status, detail := detail }

/-- A reply with data: CLAMPED when a field was clamped (R453). -/
def done (clamps : List Clamp) (data : List Byte) (refData : List Byte := []) : Reply :=
  { status := if clamps = [] then St.ok else St.clamped, clamps := clamps, data := data, refData := refData }

/-- Clamp records wider than 32 bits take two (R472). -/
def Clamp.bytes (c : Clamp) : List Byte := u16 c.field ++ u16 c.entry ++ s32 c.requested ++ s32 c.applied

/-- The response prefix with its clamp records: at most 64 (R453, R472). -/
def Reply.prefix (r : Reply) : List Byte :=
  let cs := r.clamps.take 64
  u8 r.status ++ u8 cs.length ++ u16 r.clamps.length ++ u32 r.detail ++ cs.flatMap Clamp.bytes

/-- A message: header with its CRC-32C, then the payload (R452). -/
def message (seq code flags slot : Nat) (payload : List Byte) : List Byte :=
  let h := u32 seq ++ u16 code ++ u16 flags ++ u16 payload.length ++ u8 slot ++ u8 2
  h ++ u32 (crc32c (h ++ u32 0 ++ payload)) ++ payload

/-- A response with its flags changed: the CRC is formed again (R455). -/
def reflag (msg : List Byte) (flags : Nat) : List Byte :=
  message (fromLE (msg.take 4)) (fromLE ((msg.drop 4).take 2)) (fromLE ((msg.drop 6).take 2) ||| flags)
    (fromLE ((msg.drop 10).take 1)) (msg.drop 16)

/-- Length of a message in a ring: padded to 16 bytes (R450). -/
def padded (n : Nat) : Nat := (n + 15) / 16 * 16

/-- Free bytes of a slot's response ring (R450). -/
def respFree (sl : Slot) : Nat := 2048 - (sl.respProd + 2 ^ 32 - sl.respCons) % 2 ^ 32

/-- Write a message into a slot's response ring, with a pad message where it does not fit before the end (R450). -/
def ringWrite (c : Nat) (msg : List Byte) (s : State) : State :=
  let sl := slotOf s c
  let base := 0x0A00 + c * 0x1000
  let off := sl.respProd % 2048
  let n := padded msg.length
  let room := 2048 - off
  let (m, prod) :=
    if room < n then
      (s.mem.mbx.writeBytes (base + off) (padTo room (message 0 0 0 c (List.replicate (room - 16) 0))), sl.respProd + room)
    else (s.mem.mbx, sl.respProd)
  let m := m.writeBytes (base + prod % 2048) (padTo n msg)
  let since := if sl.respProd = sl.respCons then s.clk.raw else sl.consAt
  raiseInt c (putSlot c { sl with respProd := (prod + n) % 2 ^ 32, consAt := since } { s with mem := { s.mem with mbx := m } })

/-- The session of a UDP slot. -/
def sessionOf (s : State) (c : Nat) : Option Nat := (s.mbx.sessions.find? fun p => p.2.slot = c).map (·.1)

/-- Send a response to a slot: the ring, or a datagram for a UDP session (R444, R464). -/
def sendResponse (c : Nat) (msg : List Byte) (s : State) : State :=
  if (slotOf s c).state ≠ 1 then s
  else if (slotOf s c).path = 2 then
    match sessionOf s c with
    | some id => sendSession id 2 msg s
    | none => s
  else ringWrite c msg s

/-- Put bytes at the place of a data reference (R452). -/
def writeRef (c : Nat) (r : DataRef) (bs : List Byte) (s : State) : State :=
  let bs := bs.take r.length
  if r.place = 0 then { s with mem := { s.mem with mbx := s.mem.mbx.writeBytes (0xC200 + c * 0x7C0 + r.address) bs } }
  else { s with out := s.out ++ [.hostWrite r.address bs] }

/-- The entry of a sequence number in a slot's history. -/
def histOf (sl : Slot) (seq : Nat) : Option HistEntry := sl.hist.find? fun h => h.seq = seq

/-- Record a response in the history (R454). -/
def cacheResponse (c seq : Nat) (msg : List Byte) (s : State) : State :=
  let sl := slotOf s c
  putSlot c { sl with hist := sl.hist.map fun h => if h.seq = seq then { h with resp := some msg } else h } s

/-- Keep a held result: at most two a slot (R458). -/
def hold (c seq : Nat) (bs : List Byte) (s : State) : State :=
  let sl := slotOf s c
  putSlot c { sl with held := ({ seq := seq, data := bs, readAt := s.clk.raw } :: sl.held).take 2 } s

/-- The request is in progress (R451). -/
def atWork (sl : Slot) (seq : Nat) : Bool := sl.work.any fun w => decide (w.1 = seq)

/-- The data reference of a request in progress (R452). -/
def refOf (sl : Slot) (seq : Nat) : Option DataRef := match sl.work.find? fun w => decide (w.1 = seq) with | some w => w.2.2 | none => none

/-- The request leaves the commands in progress. -/
def finish (c seq : Nat) (s : State) : State :=
  let sl := slotOf s c
  putSlot c { sl with work := sl.work.filter fun w => decide (w.1 ≠ seq) } s

/-- What a response of `room` data bytes carries in line, and what goes to the data reference (R452, R471). -/
def placeData (ref : Option DataRef) (room : Nat) (r : Reply) : List Byte × List Byte :=
  match ref with
  | some _ => if r.refData = [] ∧ room < r.data.length then ([], r.data) else (r.data, r.refData)
  | none => (r.data ++ r.refData, [])

/-- Write the data of a reply to its reference, when there are any (R452). -/
def putRef (c : Nat) (ref : Option DataRef) (bs : List Byte) (s : State) : State :=
  match ref with
  | some d => if bs = [] then s else writeRef c d bs s
  | none => s

/-- Record a response and send it (R450, R454). -/
def respond (c seq code flags : Nat) (payload : List Byte) (s : State) : State :=
  let m := message seq code flags c payload
  sendResponse c m (cacheResponse c seq m s)

/-- Answer a request that is in progress (R453, R458, R471, R472): data to the reference go there; what does not fit its
place is held, with MORE and the total length. A command of a slot that was released since is not answered (R448). -/
def answer (c seq code flags : Nat) (r : Reply) (s : State) : State :=
  if !atWork (slotOf s c) seq then s
  else
    let ref := refOf (slotOf s c) seq
    let s := finish c seq s
    let room := 1008 - r.prefix.length
    let whole := r.data ++ r.refData
    -- data past 16 MiB make the command fail (R458)
    if 16777216 < whole.length then respond c seq code flags (refuse St.noResource).prefix s
    else
      let inline := (placeData ref room r).1
      let out := (placeData ref room r).2
      let s := putRef c ref out s
      if room < inline.length ∨ (match ref with | some d => d.length | none => 0) < out.length then
        respond c seq code (flags + 0x20)
          (r.prefix ++ (if inline.length ≤ room - 4 then inline else inline.take (room - 4)) ++ u32 whole.length) (hold c seq whole s)
      else respond c seq code flags (r.prefix ++ inline) s

/-- What a command is, for serving it: its code and marks (R475), the function it needs (R463), and whether it reads,
changes shared configuration or state, or changes local settings only (R467). -/
inductive Reach where
  | read | shared | here
  deriving DecidableEq, Repr

structure Cmd where
  code : Nat
  reach : Reach := .read
  expert : Bool := false
  maint : Bool := false
  needs : Option Nat := none
  /-- Needs the maintenance right (R466), or the provision right (R465). -/
  right : Nat := 0
  deriving DecidableEq, Repr

/-- A data reference lies in its place (R452). -/
def refOk (sl : Slot) (r : DataRef) : Bool :=
  if r.place = 0 then decide (r.address + r.length ≤ 1984)
  else decide (r.place = 1) && decide (sl.path = 0) && decide (r.length ≤ 4194304) && decide (r.address + r.length ≤ 2 ^ 52)

/-- The slot has the rights a command needs (R465). -/
def hasRights (sl : Slot) (c : Cmd) : Bool :=
  Fx.bit sl.rights 0 && (!c.expert || Fx.bit sl.rights 1) && (decide (c.right = 0) || Fx.bit sl.rights c.right)

/-- Paired engine on standby. -/
def isStandby (s : State) : Bool := s.sys.pairEn && !s.pair.activeOut

/-- Commands in progress of a slot (R451). -/
def inProgress (sl : Slot) : Nat := sl.work.length

/-- Enter a request in the history, the oldest entry leaving when 64 are held (R454, R455). -/
def enterHistory (r : Req) (code : Nat) (s : State) : State :=
  let sl := slotOf s r.slot
  putSlot r.slot { sl with hist := ({ seq := r.seq, crc := r.crc, code := code } :: sl.hist).take 64, work := (r.seq, code, r.data) :: sl.work } s

/-- Bad data reference (R469). -/
def badLength (s : State) : State := reportLimited Src.mailbox K.mbxLength 1 0 0 s

/-- The body of a command: it sees the request and the state with the request in the history. -/
abbrev Body := Req → State → State × Reply

/-- Post PROGRESS of a command at work (R455, R456): how far it has come is a free value (log entry 5). -/
def postProgress (c seq code : Nat) (s : State) : State :=
  let (v, s) := drawFree 16 s
  postEvent Ev.progress (some c) seq (u16 code ++ u16 (v % 1001)) s

/-- The endpoint's access to host memory for a data reference fails (R469). -/
def hostFails (r : Req) : Bool := match r.data with | some d => decide (d.place = 1) && d.bad | none => false

/-- Run a command's body when rights, the maintenance state, the pair's roles and readiness allow it (R463, R465 to
R467). Answers the state and the reply. -/
def admitted (c : Cmd) (r : Req) (body : Body) (s : State) : State × Reply :=
  let sl := slotOf s r.slot
  if !(match r.data with | some d => refOk sl d | none => true) then (badLength s, refuse St.badLen)
  else if !hasRights sl c then
    ((if sl.path = 2 then reportLimited Src.mailbox K.mbxAuth 1 r.slot 0 s else s), refuse St.denied)
  else if c.maint && !inMaint s then (s, refuse St.denied)
  else if c.reach = .shared && isStandby s then
    if s.pair.state = 4 ∧ s.pair.link.up then
      ({ s with out := s.out ++ [.relay r.slot r.seq c.code false] }, { later := true })
    else (s, refuse St.notReady (reason 0x08 0))
  else if hostFails r then (report Src.mailbox K.pcieError 2 0 0 s, refuse St.faulted)
  else match c.needs with
    | some f => if isReady s f then body r s else (s, refuse St.notReady (reason 0x09 f))
    | none => body r s

/-- The slot may have a request taken: the mailbox is open and Mladir responds (R18), the slot is
claimed, and its response ring has room (R451;
log entry 7). -/
def takes (s : State) (c : Nat) : Bool :=
  let sl := slotOf s c
  s.mbx.isOpen && s.sys.mladirUp && decide (c < 8) && decide (sl.state = 1) && (decide (sl.path = 2) || decide (1024 ≤ respFree sl))

/-- A request whose header and CRC are right is handled by R455, then answered. -/
def serveState (c : Cmd) (r : Req) (body : Body) (s : State) : State :=
  if !takes s r.slot then s
  else
    let sl := slotOf s r.slot
    match histOf sl r.seq with
    | some h =>
      if h.crc ≠ r.crc then
        let s := reportLimited Src.mailbox K.mbxSeq 1 r.slot 0 s
        sendResponse r.slot (message r.seq c.code 0 r.slot (refuse St.conflict).prefix) s
      else match h.resp with
        | some m => sendResponse r.slot (reflag m 1) s
        | none => postProgress r.slot r.seq h.code s
    | none =>
      let busy := decide (8 ≤ inProgress sl)
      let s := enterHistory r c.code s
      if busy then answer r.slot r.seq c.code 0 (refuse St.busy) s
      else if r.partner then
        if s.pair.link.up then { s with out := s.out ++ [.relay r.slot r.seq c.code true] }
        else answer r.slot r.seq c.code 0 (refuse St.notReady (reason 0x08 0)) s
      else
        let (s, rep) := admitted c r body s
        if rep.later then s else answer r.slot r.seq c.code 0 rep s

/-- Serve a request: every Seril command's meaning. -/
def serve (c : Cmd) (r : Req) (body : Body) (s : State) : Host.Outcome State Fault Refusal := .next (serveState c r body s)

/-- An unknown flag or a reserved value (R469, R474). -/
def badRequest (s : State) : State × Reply := ({ s with mbx := { s.mbx with badCmd := s.mbx.badCmd + 1 } }, refuse St.badCmd)

/-- A flag field whose unknown bits are not zero is answered BAD_CMD (R470, R474): `n` flags are known. -/
def withFlags (n flags : Nat) (b : Body) : Body := fun r s =>
  if 2 ^ n ≤ flags then badRequest s else b r s

/-- A setting read or set (R475): operation 0 reads, 1 sets; another operation is a choice out of its list (R68). -/
def readOrSet (op : Nat) (set : State → State × List Clamp) (report : State → List Byte) : Body := fun _ s =>
  if op = 0 then (s, done [] (report s))
  else if op = 1 then let (s, cs) := set s; (s, done cs (report s))
  else (s, refuse St.conflict)

/-- Clamp a field to a range, with its record (R68, R472). -/
def clampField (field entry : Nat) (lo hi v : Int) : Int × List Clamp :=
  let a := Fx.clamp lo hi v
  (a, if a = v then [] else [{ field := field, entry := entry, requested := v, applied := a }])

/-- Clamp a field to a range and round it to its step, ties away from zero (R68). -/
def clampStep (field entry : Nat) (lo hi step v : Int) : Int × List Clamp :=
  let a := Fx.clamp lo hi (Fx.roundAway (Fx.clamp lo hi v) step * step)
  (a, if a = v then [] else [{ field := field, entry := entry, requested := v, applied := a }])

end Sys2Proof.Machine
end

