-- ==== Sys2Proof/Machine/PageOps.lean ====
section
/-!
DEFINITION. Parameter pages and endpoints at work: which pages and fields exist (R126, R484), the banks and emergency
images (R127, R147, R148), which endpoints are sources or sinks, of which stage, and present (R46 to R48, R58), and
the plan of a page write before it is accepted (R53, R54, R68, R127).
-/
namespace Sys2Proof.Machine
open Sys2Proof

/-! ### Pages and fields -/

/-- The sample rate in Hz. -/
def fsNow (s : State) : Int := fsOf s.sys.rate

/-- The block type of an instance page. -/
def instKind (s : State) (p : Nat) : Option BlockKind := (Tbl.find s.blk.inst p).map (·.kind)

/-- A page number names something (R126). -/
def pageExists (s : State) (p : Nat) : Bool :=
  match pageName (fam s) p with
  | .nothing => false
  | .instance_ q => (instKind s q).isSome || Tbl.has s.frond.tasks q
  | _ => true

/-- The block of a page: its type and its place. -/
def pageBlock (s : State) (p : Nat) : Option (BlockKind × Place) :=
  match pageName (fam s) p with
  | .block pl _ _ k => some (k, pl)
  | .instance_ q => (instKind s q).map fun k => (k, .alone)
  | _ => none

/-- Words of the image's parameter area of an expert task that an omitted field takes: the area starts from zeros
until words are written (R183; log entry 26). -/
def expertField (t : ExpertTask) (id : Nat) : Option FieldSpec :=
  if rawBase ≤ id ∧ id < rawBase + t.params then some { kind := .endpoint, dflt := 0 } else none

/-- The field of an ID in a page, given how to read the page's other fields. -/
def fieldOf (s : State) (p : Nat) (get : Nat → Int) (id : Nat) : Option FieldSpec :=
  match Tbl.find s.frond.tasks p with
  | some t => expertField t id
  | none => fieldSpec (instKind s) (fam s) (fsNow s) p get id

/-- The value a record gives a field that it does not list (R484): its reset value, where a range or a default that
depends on another field uses that field's listed or reset value. -/
def fieldDefault (s : State) (p : Nat) (r : PageRec) (id : Nat) : Int :=
  let base := fun j => match fieldOf s p (fun _ => 0) j with | some f => f.dflt | none => 0
  match fieldOf s p (fun j => (Tbl.find r j).getD (base j)) id with
  | some f => f.dflt
  | none => 0

/-- A field of a record. -/
def recGet (s : State) (p : Nat) (r : PageRec) (id : Nat) : Int :=
  match Tbl.find r id with
  | some v => v
  | none => fieldDefault s p r id

/-! ### Banks (R127 to R131, R147, R148) -/

/-- The page's own active bank. -/
def activeRec (s : State) (p : Nat) : PageRec := Tbl.getD s.page.active p []

/-- The page's shadow bank; while the page is re-seeding its content is the active bank's (R128). -/
def shadowRec (s : State) (p : Nat) : PageRec :=
  if Tbl.find s.page.status p = some .reseeding then activeRec s p else Tbl.getD s.page.shadow p []

/-- The bank every reader uses: the emergency image in force, else the active bank (R147, R148). -/
def effRec (s : State) (p : Nat) : PageRec :=
  match Tbl.find s.page.redirect p with
  | some i => Tbl.getD s.page.image (i * 65536 + p) []
  | none => activeRec s p

def activeGet (s : State) (p id : Nat) : Int := recGet s p (activeRec s p) id
def shadowGet (s : State) (p id : Nat) : Int := recGet s p (shadowRec s p) id
def effGet (s : State) (p id : Nat) : Int := recGet s p (effRec s p) id

/-- Put a record into the shadow bank. -/
def putShadowRec (p : Nat) (r : PageRec) (s : State) : State :=
  { s with page := { s.page with shadow := Tbl.put s.page.shadow p r } }

/-- A re-seeding page becomes free: its shadow bank holds the active bank's content (R128). -/
def finishReseed (p : Nat) (s : State) : State :=
  if Tbl.find s.page.status p = some .reseeding then
    putShadowRec p (activeRec s p) { s with page := { s.page with status := Tbl.erase s.page.status p } }
  else s

/-- Set a page's status. -/
def setStatus (p : Nat) (st : Option PageStatus) (s : State) : State :=
  { s with page := { s.page with status := match st with
      | some v => Tbl.put s.page.status p v
      | none => Tbl.erase s.page.status p } }

/-- Release a page's hold: its shadow bank is re-seeded from the active bank (R128, R132). -/
def releasePage (p : Nat) (s : State) : State := setStatus p (some .reseeding) s

/-- The sections of a crossover split, with its all-passes, stand from this section on (R85): split i has 2·half sections
and i times the `ap` sections of its matched all-pass. -/
def splitStart (half ap : Nat) : Nat → Nat
  | 0 => 0
  | i + 1 => splitStart half ap i + 2 * half + i * ap

/-- The raw words of a block that a basic write of a field re-derives (R104, R108; a section has six words, log entry
27): of a crossover the frequency of a split re-derives the sections of that split, its type and number of ways all of
them. -/
def rawOfField (k : Option (BlockKind × Place)) (type : Int) (id n : Nat) : Bool :=
  let i := n - rawBase
  match k with
  | none => decide (i = id)
  | some (.peq, _) => decide (32 ≤ id ∧ i / 6 + 1 = id / 32)
  | some (.fir, _) => false
  | some (.highPass, _) => true
  | some (.lowPass, _) => true
  | some (.crossover, _) =>
    let (half, ap) := if type = 0 then (2, 1) else if type = 1 then (4, 2) else (1, 0)
    decide (id < 2) || (decide (id < 5) && decide (splitStart half ap (id - 2) ≤ i / 6) && decide (i / 6 < splitStart half ap (id - 1)))
  | some _ => false

/-- A field's value into a record: a basic write takes the raw words of the same part away (R104, R108). -/
def recPut (s : State) (p : Nat) (r : PageRec) (id : Nat) (v : Int) : PageRec :=
  let raws : Bool := match pageName (fam s) p with | .lane _ => true | .block _ _ _ _ => true | .instance_ _ => true | _ => false
  let k := match pageName (fam s) p with | .lane _ => none | _ => pageBlock s p
  let r : PageRec := if raws && decide (id < rawBase) then r.filter fun f => !(decide (rawBase ≤ f.1) && rawOfField k (recGet s p r 0) id f.1) else r
  Tbl.put r id v

/-- The edit that empties a record: every field takes its reset value (R484). -/
def clearField : Nat := 2 ^ 32

/-- A field that is structural: pages do not carry it for scenes, and no record resets it (R69, R126). -/
def isStructural (s : State) (p id : Nat) : Bool :=
  match fieldOf s p (fun _ => 0) id with
  | some f => f.structural
  | none => false

/-- An edit into the shadow bank. -/
def putShadow (e : Edit) (s : State) : State :=
  let s := finishReseed e.page s
  putShadowRec e.page (if e.field = clearField then (shadowRec s e.page).filter fun f => isStructural s e.page f.1 else recPut s e.page (shadowRec s e.page) e.field e.value) s

/-! ### Endpoints (R45 to R48) -/

/-- A pin of a block instance or of an image's task: whether it is a source, and its stage (R46). -/
def pinInfo (s : State) (id : Nat) : Option (Bool × Nat) :=
  match s.blk.inst.find? fun e => decide (e.2.pinBase ≤ id) && decide (id < e.2.pinBase + e.2.ins + e.2.outs) with
  | some e => some (decide (e.2.pinBase + e.2.ins ≤ id), e.2.stage)
  | none =>
    match s.frond.tasks.find? fun e => e.2.ins.contains id || e.2.outs.contains id || e.2.sides.contains id with
    | some e => some (e.2.outs.contains id, e.2.stage)
    | none => none

/-- An ID names something at the present rate family; an unassigned pin names nothing (R47, R48). -/
def named (s : State) (id : Nat) : Bool :=
  endpointExists (fam s) id && (!(decide (0x8000 ≤ id) && decide (id < 0x10000)) || (pinInfo s id).isSome)

/-- The endpoint is a source (R46). -/
def isSource (s : State) (id : Nat) : Bool :=
  if 0x8000 ≤ id ∧ id < 0x10000 then (match pinInfo s id with | some (b, _) => b | none => false)
  else decide (id < 0xC00) || (decide (0x2000 ≤ id) && decide (id < 0x4000)) || (decide (0x6800 ≤ id) && decide (id < 0x7200)) ||
    (decide (0x7400 ≤ id) && decide (id < 0x7700)) || (decide (0x10000 ≤ id) && decide (id < 0x10100))

/-- A strip's enable page (R126). -/
def inStripPage (n : Nat) : Nat := 0x1000 + n * 16
def busStripPage (n : Nat) : Nat := 0x9000 + n * 8
def outStripPage (n : Nat) : Nat := 0xA000 + n * 16

/-- A strip is enabled in the bank in force. -/
def stripOn (s : State) (page : Nat) : Bool := decide (effGet s page 0 = 1)

/-- The stage of an endpoint: 6 for the port edge (R46, R66). -/
def stageOf (s : State) (id : Nat) : Nat :=
  if id < 0xC00 then 0
  else if id < 0x1800 then 6
  else if id < 0x4000 then 0
  else if id < 0x6000 then 5
  else if id < 0x7000 then 1
  else if id < 0x7200 then (if stripOn s (busStripPage (id - 0x7000)) then 3 else 2)
  else if id < 0x7600 then 4
  else if id < 0x7800 then 0
  else if id < 0x8000 then 5
  else if id < 0x10000 then (match pinInfo s id with | some (_, st) => st | none => 0)
  else if id < 0x10100 then 0
  else 5

/-- A connection reads the previous frame by stage (R58); a Bracken selection has stage 2. -/
def againstOrder (srcStage sinkStage : Nat) : Bool := decide (sinkStage ≤ srcStage)

/-- Slots of a port frame at a port's configuration (R62, R223). -/
def frameSlots (c : PortCfg) : Nat := if c.format = 2 then c.slots else 2

/-- The configuration of a port: the reset configuration follows the engine's rate (R244). -/
def portCfg (s : State) (p : Nat) : PortCfg :=
  match (Tbl.getD s.port.port p {}).cfg with
  | some c => c
  | none => { rate := s.sys.rate, slots := portSlots (fam s) }

/-- The slot mask of a port direction in force (R62). -/
def slotMask (s : State) (p : Nat) (output : Bool) : Nat :=
  ((effGet s (0x600 + p) (if output then 1 else 0)).toNat) % 2 ^ 32

/-- The slot count of a port in force: never more than the port frame holds (R62). -/
def slotCount (s : State) (p : Nat) : Nat := min (effGet s (0x600 + p) 2).toNat (frameSlots (portCfg s p))

/-- The port's slot is enabled in a direction (R48, R62). -/
def slotOn (s : State) (p slot : Nat) (output : Bool) : Bool :=
  let pt := Tbl.getD s.port.port p {}
  (if output then pt.outOn else pt.inOn) && !pt.away && !(decide (pt.state = 3) && decide (64 ≤ pt.stopRamp)) &&
  decide (slot < slotCount s p) && Fx.bit (slotMask s p output) slot

/-- A stream covers a network channel. The channels of one on NET4 stay absent until a step of that port is over (R279). -/
def inStream {α : Type} (s : State) (t : Tbl α) (cfg : α → StreamCfg) (ch : Nat) : Bool :=
  let steps := (Tbl.getD s.net.port 4 {}).stepping.isSome
  t.any fun e => decide ((cfg e.2).first ≤ ch) && decide (ch < (cfg e.2).first + (cfg e.2).channels) &&
    !(steps && (cfg e.2).paths.any fun p => decide (p.port = 4))

/-- The pin's instance has committed (R182). -/
def pinLive (s : State) (id : Nat) : Bool :=
  s.blk.inst.any (fun e => e.2.live && decide (e.2.pinBase ≤ id) && decide (id < e.2.pinBase + e.2.ins + e.2.outs)) ||
  s.frond.tasks.any (fun e => e.2.live && (e.2.ins.contains id || e.2.outs.contains id || e.2.sides.contains id))

/-- The endpoint is present: its object is configured in the committed configuration (R48). A bus and a player voice
always are; a generator, meter or detector is once its page has a field, a recorder track once it is assigned (log
entry 28). -/
def present (s : State) (id : Nat) : Bool :=
  named s id &&
  (if id < 0xC00 then slotOn s (id / 32) (id % 32) false
   else if id < 0x1800 then slotOn s ((id - 0xC00) / 32) ((id - 0xC00) % 32) true
   else if id < 0x4000 then inStream s s.net.rx (·.cfg) (id - 0x2000)
   else if id < 0x6000 then inStream s s.net.tx (·.cfg) (id - 0x4000)
   else if id < 0x7000 then stripOn s (inStripPage (id % 0x800))
   else if id < 0x7200 then true
   else if id < 0x7600 then stripOn s (outStripPage (id % 0x200))
   else if id < 0x7800 then true
   else if id < 0x8000 then Tbl.has s.peat.track (id - 0x7800)
   else if id < 0x10000 then pinLive s id
   else if id < 0x10100 then decide (effRec s (0x700 + (id - 0x10000)) ≠ [])
   else decide (effRec s (0x800 + (id - 0x10100)) ≠ []))

/-! ### Connections and selections in a bank -/

/-- The source that a router record gives a sink; none for no connection. -/
def srcIn (s : State) (r : PageRec) (sink : Nat) : Option Nat :=
  let v := recGet s (sink / 256) r (sink % 256 * 4)
  if v = noEndpoint then none else some v.toNat

/-- The selection a record gives a mix input. -/
def selIn (s : State) (r : PageRec) (m : Nat) : Option Nat :=
  let v := recGet s (0x200 + m / 256) r (m % 256 * 8)
  if v = noEndpoint then none else some v.toNat

/-- Sinks that a bank table gives a source, ascending by page and then by sink. -/
def connectedIn (t : Tbl PageRec) : List (Nat × Nat) :=
  (t.filter fun e => decide (e.1 < 0x200)).flatMap fun e =>
    (e.2.filter fun f => decide (f.1 < 1024) && decide (f.1 % 4 = 0) && decide (f.2 ≠ noEndpoint)).map fun f =>
      (e.1 * 256 + f.1 / 4, f.2.toNat)

/-- Selections that a bank table makes: mix input and source. -/
def selectedIn (t : Tbl PageRec) : List (Nat × Nat) :=
  (t.filter fun e => decide (0x200 ≤ e.1) && decide (e.1 < 0x208)).flatMap fun e =>
    (e.2.filter fun f => decide (f.1 < 2048) && decide (f.1 % 8 = 0) && decide (f.2 ≠ noEndpoint)).map fun f =>
      ((e.1 - 0x200) * 256 + f.1 / 8, f.2.toNat)

/-- Connections in the shadow state: committed ones and changes not committed (R51). -/
def shadowConnections (s : State) : Nat :=
  let a := (connectedIn s.page.active).map (·.1)
  let b := (connectedIn (Tbl.keep (fun p _ => decide (Tbl.find s.page.status p ≠ some .reseeding)) s.page.shadow)).map (·.1)
  (a ++ b.filter fun x => !a.contains x).length

/-- The effective bank of every page that has one listed. -/
def effTable (s : State) : Tbl PageRec :=
  let ps := (s.page.active.map (·.1)) ++ ((s.page.redirect.map (·.1)).filter fun p => !Tbl.has s.page.active p)
  ps.map fun p => (p, effRec s p)

/-! ### The plan of a write (R53, R54, R68) -/

/-- A write in the making: the state with its edits in the shadow banks, the edits and other changes in order, the
clamps, and response data after fn. -/
structure Plan where
  st : State
  edits : List Edit := []
  changes : List Change := []
  clamps : List Clamp := []
  data : List Byte := []
  deriving DecidableEq, Repr

/-- An edit without a check. -/
def Plan.edit (pl : Plan) (p id : Nat) (v : Int) : Plan :=
  { pl with st := putShadow ⟨p, id, v⟩ pl.st, edits := pl.edits ++ [⟨p, id, v⟩] }

/-- A clamp record, when the applied value differs. -/
def Plan.clamp (pl : Plan) (field entry : Nat) (want got : Int) : Plan :=
  if want = got then pl
  else
    let low : Clamp := { field := field, entry := entry, requested := want, applied := got }
    -- a value wider than 32 bits takes a second record with its high word (R472)
    let wide := fun v : Int => decide (2147483648 ≤ v) || decide (v < -2147483648)
    let high : Clamp := { field := field + 4, entry := entry, requested := want / 2 ^ 32, applied := got / 2 ^ 32 }
    { pl with clamps := pl.clamps ++ (if wide want || wide got then [low, high] else [low]) }

/-- Write a field in engineering units: range, step and choice checks (R68). A field the page does not have names
nothing (R481). `at_` and `entry` name the field in a clamp record (R472). -/
def Plan.write (pl : Plan) (p id : Nat) (v : Int) (at_ entry : Nat) : Except Reply Plan :=
  match fieldOf pl.st p (shadowGet pl.st p) id with
  | none => .error (refuse St.noResource (reason 0x03 id))
  | some f => match applyField f v with
    | none => .error (refuse St.conflict (reason 0x03 id))
    | some a => .ok ((pl.edit p id a).clamp at_ entry v a)

/-- A trigger word names a presence flag or a control flag that exists, or is none (R119, R482). -/
def triggerExists (fam : Nat) (v : Int) : Bool :=
  let w := v.toNat
  decide (v = 0xFFFFFFFF) ||
  (decide (0 ≤ v) && decide (Fx.bits w 29 16 = 0) &&
    (match Fx.bits w 31 30 with
     | 0 => decide (w % 65536 < mixInputs fam)
     | 1 => decide (w % 65536 < inStrips fam)
     | 2 => decide (w % 65536 < 256)
     | _ => false))

/-- A side input of a strip names a source (R75, R46), and a detector page takes a type that the family offers (R5, R47). -/
def fieldRefusal (s : State) (p id : Nat) (v : Int) : Option Reply :=
  match pageBlock s p with
  | some (.detector, _) => if fam s = 2 ∧ id = 0 ∧ 3 ≤ v then some (refuse St.noResource (reason 0x03 id)) else none
  | some (k, _) =>
    if rawBase ≤ id ∨ v = noEndpoint then none
    else if (id = 14 ∧ k ≠ .peq) ∨ (id = 0 ∧ k = .ancGain) then
      if v < 0 ∨ !named s v.toNat then some (refuse St.noResource (reason 0x07 v.toNat))
      else if !isSource s v.toNat then some (refuse St.conflict (reason 0x07 v.toNat))
      else none
    else none
  | none =>
    let src := fun v : Int =>
      if v = noEndpoint then none
      else if v < 0 ∨ !named s v.toNat then some (refuse St.noResource (reason 0x07 v.toNat))
      else if !isSource s v.toNat then some (refuse St.conflict (reason 0x07 v.toNat))
      else none
    match pageName (fam s) p with
    | .router _ => if id < 1024 ∧ id % 4 = 0 then src v else none
    | .selection _ => if id < 2048 ∧ id % 8 = 0 then src v else none
    | .lane _ =>
      if 0x1100 ≤ id ∧ id < 0x1200 ∧ 8 ≤ id % 16 ∧ !triggerExists (fam s) v then some (refuse St.noResource (reason 0x03 id)) else none
    | _ => none

/-- Write a parameter as BLOCK.PARAM and a scene do: structural ones are refused (R69, R126, R481). -/
def Plan.param (pl : Plan) (p id : Nat) (v : Int) (at_ entry : Nat) : Except Reply Plan :=
  if isStructural pl.st p id then .error (refuse St.conflict (reason 0x03 id))
  else match fieldRefusal pl.st p id v with
    | some e => .error e
    | none => pl.write p id v at_ entry

/-- The split points of a crossover, each at least 1/3 octave above the one before: the engine raises each in turn (R85),
without a clamp record, since no request named it. -/
def Plan.raiseSplits (p : Nat) (pl : Plan) : Plan :=
  match pageBlock pl.st p with
  | some (.crossover, _) =>
    [3, 4].foldl (fun (pl : Plan) id =>
      let low := Fx.roundAway (shadowGet pl.st p (id - 1) * Fx.pow2 (Fx.ratio 1 3)) Fx.one
      if (id : Int) - 1 < shadowGet pl.st p 1 ∧ shadowGet pl.st p id < low then pl.edit p id (min low (45 * fsNow pl.st)) else pl) pl
  | _ => pl

/-- Write several fields in order. -/
def Plan.writes (pl : Plan) (p : Nat) : List (Nat × Int × Nat × Nat) → Except Reply Plan
  | [] => .ok pl
  | (id, v, f, e) :: rest => match pl.write p id v f e with
    | .error r => .error r
    | .ok pl => Plan.writes pl p rest

/-- Run one step of a plan for each entry of a batch, in order; a refusal names its entry (R54). -/
def planEach {α : Type} (f : Nat → α → Plan → Except Reply Plan) : Nat → List α → Plan → Except Reply Plan
  | _, [], pl => .ok pl
  | i, a :: as_, pl => match f i a pl with
    | .error r => .error { r with detail := reason 0x01 i }
    | .ok pl => planEach f (i + 1) as_ pl

/-- The pages that edits touch, each once, in order. -/
def pagesOf (es : List Edit) : List Nat :=
  es.foldl (fun ps e => if ps.contains e.page then ps else ps ++ [e.page]) []

/-! ### Frames ahead (R22, R53, R329) -/

/-- Sample period and frame period in ns, rounded down. -/
def frameNs (s : State) : Nat := s.sys.b * 1000000000 / fsOf s.sys.rate

/-- C at a grid index (R288). -/
def gridCount (s : State) (j : Nat) : Int := s.clk.gridG + (j : Int) * 65536000000000 / fsNow s

/-- C at the boundary that begins a frame, none before the frame tick runs. -/
def boundaryCount (s : State) (f : Nat) : Int := gridCount s (s.clk.boundaryJ + (f - s.sys.frameNo) * s.sys.b)

/-- The first boundary not yet passed. -/
def nextFrame (s : State) : Nat := if s.sys.running then s.sys.frameNo + 1 else s.sys.frameNo

/-- The apply frame of R329: the least n + 2 or more whose beginning lies at least 25 µs ahead. -/
def applyFrame (s : State) : Nat :=
  if !s.sys.running then s.sys.frameNo
  else
    let n := s.sys.frameNo
    let far := fun f => decide (25 * 65536000 ≤ boundaryCount s f - s.clk.count)
    if far (n + 2) then n + 2 else if far (n + 3) then n + 3 else n + 4

/-- The frame at whose beginning an accepted change commits: the next one on a solo engine, the apply frame in a pair
(R53). -/
def commitFrame (s : State) : Nat := if s.sys.pairEn then applyFrame s else nextFrame s

end Sys2Proof.Machine
end

