-- ==== Sys2Proof/Machine/Admission.lean ====
section
/-!
DEFINITION. Admission (02, 05): the tasks of a graph with their costs (R30, R69, R80 to R101, R164), placement first-fit
by decreasing cost (R31, R32), and the simulated frame of R123. A graph is judged over a list of views of its pages: the
committed banks, the new ones, and the emergency images (R123, R145).
-/
namespace Sys2Proof.Machine
open Sys2Proof

/-! ### Figures (R29, R105) -/

def frondRate (fam : Nat) : Nat := if fam = 0 then 75000 else if fam = 1 then 37500 else 18750
def frondLimit (fam : Nat) : Nat := if fam = 0 then 52500 else if fam = 1 then 26250 else 13125
def totalLimit (fam : Nat) : Nat := if fam = 0 then 1627500 else if fam = 1 then 813750 else 406875
def largestTask (fam : Nat) : Nat := if fam = 0 then 3750 else if fam = 1 then 1875 else 937
/-- Lane terms per sample period, K. -/
def laneTerms (fam : Nat) : Nat := if fam = 0 then 2291 else if fam = 1 then 1145 else 0

/-! ### Costs -/

/-- A library task's cost: at small B the dispatch share grows (R30). -/
def libCost (c b : Nat) : Nat := c + (Fx.ceilDiv 16 b - 2)

/-- An expert task's cost (R30, R164). -/
def expertCost (f v fb vb b : Nat) : Nat := v + 4 * vb + Fx.ceilDiv (f + 4 * fb) b + Fx.ceilDiv 16 b

/-- Cost of a crossover by type and ways (R85). -/
def crossoverCost (type ways : Nat) : Nat :=
  let n := ways - 2
  if type = 0 then [60, 132, 218].getD n 0 else if type = 1 then [116, 258, 428].getD n 0 else [32, 62, 92].getD n 0

/-- Sampling rate of an ASRC's foreign rate code: 6 is 32 kHz (R93, R481). -/
def foreignRate (code : Nat) : Nat := if code = 6 then 32000 else fsOf code

/-- The cost of a standalone block by its type and parameters (R76 to R93), without the task share. -/
def blockCost (s : State) (k : BlockKind) (get : Nat → Int) : Nat :=
  let g := fun i => (get i).toNat
  let ch := g 15
  let link := if g 16 = 1 then 4 * ch else 0
  match k with
  | .trim => 4
  | .fader => 6
  | .delay => 10
  | .highPass | .lowPass => 14 * Fx.ceilDiv (g 0) 2
  | .peq => 14 * g 0
  | .crossover => crossoverCost (g 0) (g 1)
  | .fir => g 0 + 12
  | .gate | .expander | .gateOrExpander => 40 * ch + link
  | .compressor => 52 * ch + link
  | .limiter => (if g 9 = 1 then 64 else 40) * ch + link
  | .ancGain => 44
  | .asrc =>
    let n := frameSlots (portCfg s (g 0))
    12 + (if foreignRate (g 2) ≤ 2 * fsOf s.sys.rate then 40 else 72) * n
  | .presence => 6
  | .pilot => 8
  | .generator => 12
  | .detector => 24
  | .stripEnable => 0

/-- A task of a graph: its key (the page, with the partition above bit 16), cost, stage, source endpoints read in the
same frame, tasks it waits for, and its footprint in words. -/
structure TaskSpec where
  key : Nat
  cost : Nat
  stage : Nat
  reads : List Nat := []
  before : List Nat := []
  words : Nat := 0
  deriving DecidableEq, Repr

/-- A view of the pages of a graph. -/
abbrev View := Nat → PageRec

def activeView (s : State) : View := activeRec s
def shadowView (s : State) : View := shadowRec s
/-- What is in force: the committed banks under the images of the emergency inputs (R148). -/
def effView (s : State) : View := effRec s
/-- The committed banks with an input's images over them (R145). -/
def imageView (s : State) (i : Nat) : View := fun p =>
  match Tbl.find s.page.image (i * 65536 + p) with | some r => r | none => activeRec s p

/-- The views that admission unites: committed, new, and every assigned emergency image (R123, R145). -/
def allViews (s : State) : List View :=
  activeView s :: shadowView s :: (s.scene.emerg.filter fun e => e.2.scene.isSome).map fun e => imageView s e.1

/-- Pages that any bank or image lists, each once, ascending is not needed. -/
def listedPages (s : State) : List Nat :=
  let ps := s.page.active.map (·.1) ++ s.page.shadow.map (·.1) ++ s.page.image.map fun e => e.1 % 65536
  ps.foldl (fun l p => if l.contains p then l else p :: l) []

/-- A sink's sources that are read in the same frame, in any view (R27, R58, R59). -/
def sameFrame (s : State) (vs : List View) (sink : Nat) : List Nat :=
  vs.filterMap fun v =>
    let r := v (sink / 256)
    match srcIn s r sink with
    | some src =>
      if againstOrder (stageOf s src) (stageOf s sink) ∨ recGet s (sink / 256) r (sink % 256 * 4 + 2) = 1 then none else some src
    | none => none

/-- A side input's source read in the same frame at a stage (R75). -/
def sideRead (s : State) (v : View) (page id stage : Nat) : Option Nat :=
  let x := recGet s page (v page) id
  if x = noEndpoint then none else if againstOrder (stageOf s x.toNat) stage then none else some x.toNat

/-- The strip tasks, instances, generators, detectors and expert tasks of the views (R69, R97, R98, R101). The fixed charges
of 12 and 24 cycles of generators and detectors take R30's addition at B below 8 like every other cost: the manual does not
say (DESIGN CHOICE, log entry 79). -/
def tasksOf (s : State) (vs : List View) : List TaskSpec :=
  let b := s.sys.b
  let on := fun p => vs.any fun v => recGet s p (v p) 0 = 1
  let mk := fun (p cost stage : Nat) (reads before : List Nat) =>
    ({ key := p, cost := libCost cost b, stage := stage, reads := reads, before := before } : TaskSpec)
  let strips := (listedPages s).filterMap fun p =>
    match pageName (fam s) p with
    | .block .inputStrip n 0 _ =>
      if on p then
        let side := vs.flatMap fun v => [6, 7, 8].filterMap fun o => sideRead s v (p + o) 14 1
        some (mk p 450 1 (sameFrame s vs (0x6000 + n) ++ side) [])
      else none
    | .block .busStrip n 0 _ =>
      if on p then
        let side := vs.flatMap fun v => (sideRead s v (p + 2) 14 3).toList ++ (sideRead s v (p + 3) 0 3).toList
        some (mk p 250 3 side [2 ^ 20 + n])
      else none
    | .block .outputStrip n 0 _ =>
      if on p then
        let pilot := vs.any fun v => recGet s (p + 8) (v (p + 8)) 3 = 1
        let side := vs.flatMap fun v => (sideRead s v (p + 7) 14 4).toList
        some (mk p (if pilot then 908 else 900) 4 (sameFrame s vs (0x7200 + n) ++ side) [])
      else none
    | .block .alone _ 0 .generator => if vs.any fun v => v p ≠ [] then some (mk p 12 1 [] []) else none
    | .block .alone n 0 .detector =>
      if vs.any fun v => v p ≠ [] then some (mk p 24 5 (sameFrame s vs (0x10100 + n)) []) else none
    | _ => none
  let insts := s.blk.inst.flatMap fun (p, i) =>
    let costs := vs.map fun v => blockCost s i.kind (recGet s p (v p))
    let c := costs.foldl max 0
    let reads := (List.range i.ins).flatMap fun j => sameFrame s vs (i.pinBase + j)
    let taps := (vs.map fun v => (recGet s p (v p) 0).toNat).foldl max 0
    if i.kind = .fir ∧ 1024 < taps then
      let n := Fx.ceilDiv taps 1024
      (List.range n).map fun k =>
        let taps := if k + 1 < n then 1024 else taps - 1024 * (n - 1)
        mk (p + 65536 * k) (taps + 14 + (if k + 1 < n then 0 else 3 * (n - 1))) i.stage reads
          (if k + 1 < n then [] else (List.range (n - 1)).map fun j => p + 65536 * j)
    else if i.kind = .asrc then [mk p (c + 2) (if recGet s p (shadowRec s p) 1 = 0 then 1 else 6) [] []]
    else [mk p (c + 2) i.stage reads []]
  let experts := s.frond.tasks.map fun (p, t) =>
    let words := 3 * t.params + 2 * t.stateWords + ((t.rings.filter fun r => !r.bulk).map (·.size)).foldl (· + ·) 0
    ({ key := p, cost := expertCost t.f t.v t.fb t.vb b, stage := t.stage, words := words
       reads := (t.ins ++ t.sides).flatMap fun j => sameFrame s vs j } : TaskSpec)
  strips ++ insts ++ experts

/-! ### Placement (R31, R33) -/

/-- Fronds in service: every frond but the spare and the retired ones (R33, R35). -/
def inService (s : State) : List Nat :=
  (List.range 32).filter fun f => decide (s.sys.spareFrond ≠ some f) && !s.sys.retired.contains f

/-- Insert by decreasing cost, ties by key. -/
def insertTask (t : TaskSpec) : List TaskSpec → List TaskSpec
  | [] => [t]
  | u :: us => if u.cost < t.cost ∨ (u.cost = t.cost ∧ t.key < u.key) then t :: u :: us else u :: insertTask t us

/-- Place tasks first-fit; the loads by frond. Answers the tasks that do not fit as well (R31, R35). -/
def placeAll (limit : Nat) (fronds : List Nat) : List TaskSpec → Tbl Nat → Tbl Placed → List TaskSpec →
    Tbl Placed × List TaskSpec
  | [], _, acc, left => (acc, left)
  | t :: ts, load, acc, left =>
    match fronds.find? fun f => decide (Tbl.getD load f 0 + t.cost ≤ limit) with
    | some f => placeAll limit fronds ts (Tbl.put load f (Tbl.getD load f 0 + t.cost))
        (Tbl.put acc t.key { frond := f, cost := t.cost, stage := t.stage }) left
    | none => placeAll limit fronds ts load acc (left ++ [t])

/-- First-fit placement of a graph. -/
def placeTasks (s : State) (ts : List TaskSpec) : Tbl Placed × List TaskSpec :=
  placeAll (frondLimit (fam s)) (inService s) (ts.foldl (fun l t => insertTask t l) []) [] [] []

/-! ### The simulated frame (R123) -/

/-- The producer of a source within the frame: a task key or a lane at 2^20 + n; none for a stage-0 source. -/
def producerOf (s : State) (ts : List TaskSpec) (src : Nat) : Option Nat :=
  if 0x6800 ≤ src ∧ src < 0x7000 then some (inStripPage (src - 0x6800))
  else if 0x7000 ≤ src ∧ src < 0x7200 then
    (if ts.any fun t => t.key = busStripPage (src - 0x7000) then some (busStripPage (src - 0x7000)) else some (2 ^ 20 + (src - 0x7000)))
  else if 0x7400 ≤ src ∧ src < 0x7600 then some (outStripPage (src - 0x7400))
  else if 0x8000 ≤ src ∧ src < 0x10000 then
    match s.blk.inst.find? fun e => decide (e.2.pinBase ≤ src) && decide (src < e.2.pinBase + e.2.ins + e.2.outs) with
    | some (p, _) => some ((ts.filter fun t => t.key % 65536 = p).foldl (fun m t => max m t.key) p)
    | none => (s.frond.tasks.find? fun e => e.2.outs.contains src).map (·.1)
  else none

/-- Mix inputs assigned on a lane in any view, a raw word before the basic field (R104, R122, R123). -/
def assignedIn (s : State) (vs : List View) (lane : Nat) : List Nat :=
  vs.foldl (fun l v =>
    ((v (0x400 + lane)).filterMap fun (id, x) =>
      if id < mixInputs (fam s) ∧ Fx.bit (x.toNat / 2 ^ 32) 1 ∧ !Tbl.has (v (0x400 + lane)) (rawBase + id) then some id
      else if rawBase ≤ id ∧ id < rawBase + mixInputs (fam s) ∧ Fx.bit x.toNat 24 then some (id - rawBase) else none).foldl
        (fun l i => if l.contains i then l else l ++ [i]) l) []

/-- Lanes with an assigned crosspoint in any view. -/
def lanesUsed (s : State) : List Nat :=
  (listedPages s).filterMap fun p => if 0x400 ≤ p ∧ p < 0x600 then some (p - 0x400) else none

/-- Insertion into an ascending list of numbers. -/
def insertNat (n : Nat) : List Nat → List Nat
  | [] => [n]
  | m :: ms => if n ≤ m then n :: m :: ms else m :: insertNat n ms

/-- When each term of a lane is taken: a term takes `unit`, from its source's completion on. -/
def laneTimes (unit : Nat) : List Nat → Nat → Nat
  | [], t => t
  | r :: rs, t => laneTimes unit rs (max t r + unit)

/-- State of the simulation: completion times by task key or lane, core-free times by frond × 4 + core. -/
structure Sim where
  finish : Tbl Nat := []
  free : Tbl Nat := []
  deriving DecidableEq, Repr

/-- Completion of the sources a task reads. -/
def Sim.ready (m : Sim) (s : State) (ts : List TaskSpec) (reads before : List Nat) : Nat :=
  let a := (reads.filterMap (producerOf s ts)).foldl (fun x k => max x (Tbl.getD m.finish k 0)) 0
  before.foldl (fun x k => max x (Tbl.getD m.finish k 0)) a

/-- One task: on the core of its frond that is free first. -/
def Sim.task (m : Sim) (s : State) (ts : List TaskSpec) (pl : Tbl Placed) (moverEnd dur : Nat) (t : TaskSpec) : Sim :=
  let f := (Tbl.getD pl t.key { frond := 0, cost := 0, stage := 0 }).frond
  let core := [1, 2, 3].foldl (fun c k => if Tbl.getD m.free (f * 4 + k) 0 < Tbl.getD m.free (f * 4 + c) 0 then k else c) 0
  let start := max (max (Tbl.getD m.free (f * 4 + core) 0) (m.ready s ts t.reads t.before)) (if t.stage = 1 then moverEnd else 0)
  { finish := Tbl.put m.finish t.key (start + dur), free := Tbl.put m.free (f * 4 + core) (start + dur) }

/-- When the source of a selection is complete: at the frame tick for stage 0 and for the previous frame. -/
def selReady (s : State) (ts : List TaskSpec) (m : Sim) (vs : List View) (i : Nat) : Nat :=
  (vs.filterMap fun v => selIn s (v (0x200 + i / 256)) i).foldl (fun x src =>
    if stageOf s src = 1 then match producerOf s ts src with
      | some k => max x (Tbl.getD m.finish k 0)
      | none => x
    else x) 0

/-- The outcome of admission: the placement, or the condition that fails with its figures (R31, R473). -/
inductive Admit where
  | ok (pl : Tbl Placed)
  | no (cond index total limit what time : Nat)
  deriving DecidableEq, Repr

/-- Simulate one frame at the guaranteed rates (R123). Times are in units of which a frame has rate × K; a task takes
4 · cost · K of them, a lane term as many as the frond rate. -/
def simulate (s : State) (vs : List View) (ts : List TaskSpec) (pl : Tbl Placed) : Option (Nat × Nat × Nat) :=
  let k := max 1 (laneTerms (fam s))
  let r := frondRate (fam s)
  let frame := r * k
  -- a stage's tasks in the order of the dispatch lists (R156)
  let run := fun (m : Sim) (st : Nat) =>
    ((ts.filter fun t => t.stage = st).foldl (fun l t => insertTask t l) []).foldl
      (fun m t => m.task s ts pl (frame / 10) (4 * t.cost * k) t) m
  let m := run {} 1
  let lanes := lanesUsed s
  let (m, lateLane) := lanes.foldl (fun (m, bad) n =>
      let rs := ((assignedIn s vs n).map (selReady s ts m vs)).foldl (fun l x => insertNat x l) []
      let last := laneTimes r rs 0
      ({ m with finish := Tbl.put m.finish (2 ^ 20 + n) (last + 32 * r) },
       if bad = none ∧ 95 * frame < 100 * last then some (n, last + 32 * r) else bad)) (m, none)
  let m := run (run (run (run m 3) 4) 5) 6
  match lateLane with
  | some (n, t) => some (0x05, n, 1000 * t / frame)
  | none =>
    match ts.find? fun t => decide (80 * frame < 100 * Tbl.getD m.finish t.key 0) with
    | some t => some (0x04, t.key % 65536, 1000 * Tbl.getD m.finish t.key 0 / frame)
    | none => none

/-- Admit a graph (R31, R123, R167). -/
def weigh (s : State) (vs : List View) : Admit :=
  let ts := tasksOf s vs
  let total := ts.foldl (fun a t => a + t.cost) 0
  let f := fam s
  match ts.find? fun t => decide (largestTask f < t.cost) with
  | some t => .no 0x04 2 total (largestTask f) (t.key % 65536) 0
  | none =>
    if totalLimit f < total then .no 0x04 1 total (totalLimit f) 0 0
    else
      let (pl, left) := placeTasks s ts
      match left with
      | t :: _ => .no 0x04 3 total (frondLimit f) (t.key % 65536) 0
      | [] => match simulate s vs ts pl with
        | some (0x05, n, t) => .no 0x05 n total (totalLimit f) n t
        | some (_, key, t) => .no 0x04 4 total (totalLimit f) key t
        | none => .ok pl

/-- The refusal of an admission, with its command data (R31, R473). -/
def Admit.refusal : Admit → Option Reply
  | .ok _ => none
  | .no r i total limit what time =>
    some { status := St.noResource, detail := reason r i, data := u32 total ++ u32 limit ++ u16 what ++ u16 time }

/-- Space of one delay in the pool: its maximum in samples plus B, times 4 bytes, rounded up to 4 KiB (R77). -/
def delaySpace (fs : Int) (b : Nat) (maxUs : Int) : Nat :=
  if maxUs ≤ 0 then 0 else Fx.ceilDiv (((Fx.roundAway (maxUs * fs) 1000000).toNat + b) * 4) 4096 * 4096

/-- Delay space that the graph reserves (R77): delays of enabled strips and of instances. -/
def delayReserved (s : State) (vs : List View) : Nat :=
  let most := fun p => (vs.map fun v => recGet s p (v p) 0).foldl max 0
  let on := fun p => vs.any fun v => recGet s p (v p) 0 = 1
  let need := fun p o => if on p then delaySpace (fsNow s) s.sys.b (most (p + o)) else 0
  let strips := (listedPages s).map fun p => match pageName (fam s) p with
    | .block .inputStrip _ 0 _ => need p 2
    | .block .busStrip _ 0 _ => need p 4
    | .block .outputStrip _ 0 _ => need p 2
    | _ => 0
  let insts := s.blk.inst.map fun (p, i) => if i.kind = .delay then delaySpace (fsNow s) s.sys.b (most p) else 0
  (strips ++ insts).foldl (· + ·) 0

/-- The delay pool holds what the graph reserves (R77, R424). -/
def delayFits (s : State) (vs : List View) : Bool := decide (delayReserved s vs ≤ s.sys.split.getD 0 64 * 1048576)

end Sys2Proof.Machine
end

