-- ==== Sys2Proof/Machine/SceneOps.lean ====
section
/-!
DEFINITION. Scenes, commit lists, actions and emergency images (06): the scene body (R484), what a load writes (R133,
R137), when an action commits and how late (R140, R142), and the redirection of pages (R145 to R149).
-/
namespace Sys2Proof.Machine
open Sys2Proof

/-! ### Scene bodies (R484) -/

/-- A page record of a scene body. -/
structure PageRecord where
  page : Nat
  whole : Bool
  items : List (Nat × Int)
  deriving DecidableEq, Repr

/-- A number at a byte offset. -/
def getLE (bs : List Byte) (off n : Nat) : Nat := fromLE ((bs.drop off).take n)
/-- A two's-complement number at a byte offset. -/
def getS (bs : List Byte) (off n : Nat) : Int := Fx.toSigned (8 * n) (getLE bs off n)

/-- n items of 12 bytes. -/
def itemsOf : Nat → List Byte → List (Nat × Int)
  | 0, _ => []
  | n + 1, bs => (getLE bs 0 4, getS bs 4 8) :: itemsOf n (bs.drop 12)

/-- n records, and the bytes after them; none where the bytes end early or a reserved byte or kind is not as R484. -/
def recordsOf : Nat → List Byte → Option (List PageRecord × List Byte)
  | 0, bs => some ([], bs)
  | n + 1, bs =>
    let k := getLE bs 4 4
    if bs.length < 8 + 12 * k ∨ 1 < getLE bs 2 1 ∨ getLE bs 3 1 ≠ 0 then none
    else
      match recordsOf n (bs.drop (8 + 12 * k)) with
      | none => none
      | some (rs, rest) =>
        some ({ page := getLE bs 0 2, whole := getLE bs 2 1 = 0, items := itemsOf k (bs.drop 8) } :: rs, rest)

/-- Field IDs lie in ascending order, none repeated. -/
def ascending : List (Nat × Int) → Bool
  | [] => true
  | [_] => true
  | a :: b :: t => decide (a.1 < b.1) && ascending (b :: t)

/-- No page appears twice (R133). -/
def pagesOnce : List PageRecord → Bool
  | [] => true
  | r :: rs => !(rs.any fun q => q.page = r.page) && pagesOnce rs

/-- The records of a scene body, or why it is refused: a length that does not match, a header field of another value,
a page or field ID that repeats (R133, R484). -/
def parseScene (bs : List Byte) : Except Reply (List PageRecord) :=
  if bs.length < 64 then .error (refuse St.badLen)
  else if bs.take 4 ≠ [0x53, 0x43, 0x4E, 0x42] ∨ getLE bs 4 2 ≠ 1 ∨ getLE bs 6 2 ≠ 64 ∨ getLE bs 51 13 ≠ 0 then
    .error (refuse St.badCmd)
  else if getLE bs 12 4 ≠ bs.length then .error (refuse St.badLen)
  else match recordsOf (getLE bs 8 4) (bs.drop 64) with
    | some (rs, []) =>
      if !pagesOnce rs then .error (refuse St.conflict)
      else match rs.find? fun r => !ascending r.items with
        | some r => .error (refuse St.conflict (reason 0x02 r.page))
        | none => .ok rs
    | _ => .error (refuse St.badLen)

/-- A record as bytes. -/
def PageRecord.bytes (r : PageRecord) : List Byte :=
  u16 r.page ++ u8 (if r.whole then 0 else 1) ++ u8 0 ++ u32 r.items.length ++ r.items.flatMap fun i => u32 i.1 ++ s64 i.2

/-- A scene body. -/
def sceneBody (n flags : Nat) (name : List Byte) (rs : List PageRecord) : List Byte :=
  let body := rs.flatMap PageRecord.bytes
  [0x53, 0x43, 0x4E, 0x42] ++ u16 1 ++ u16 64 ++ u32 rs.length ++ u32 (64 + body.length) ++ padTo 32 name ++ u16 n ++
    u8 flags ++ List.replicate 13 0 ++ body

/-- A router record with the crossfade length of every sink that it names: a whole record that omits one takes the engine
default in force at its load, not the length that the page holds (R55, R484). -/
def withLengths (s : State) (p : Nat) (r : PageRec) : PageRec :=
  if 0x200 ≤ p then r
  else (r.filter fun f => f.1 % 4 = 0).foldl (fun t f => Tbl.put t (f.1 + 1) (recGet s p r (f.1 + 1))) r

/-- The whole record of a page's active bank (R137). -/
def captureRecord (s : State) (p : Nat) : PageRecord :=
  { page := p, whole := true, items := withLengths s p ((activeRec s p).filter fun f => !isStructural s p f.1) }

/-! ### Loading (R133, R137) -/

/-- A router item gives a source to a sink that does not exist or is an unassigned pin (R137). -/
def badRouterItem (s : State) (p : Nat) (i : Nat × Int) : Bool :=
  decide (p < 0x200) && decide (i.1 < 1024) && decide (i.1 % 4 = 0) && decide (i.2 ≠ noEndpoint) &&
  (let sink := p * 256 + i.1 / 4
   !named s sink || isSource s sink)

/-- Write the items of a record into a plan, clamped as the page's own commands clamp them (R68). Clamp records name
the item's field ID and index (R472). -/
def planItems (p : Nat) : Nat → List (Nat × Int) → Plan → Except Reply Plan
  | _, [], pl => .ok pl
  | k, (id, v) :: is_, pl => match pl.param p id v id k with
    | .error r => .error r
    | .ok pl => planItems p (k + 1) is_ pl

/-- Crossfade lengths that a whole router record omits take the engine default (R55). -/
def routerDefaults (s : State) (r : PageRecord) : List (Nat × Int) :=
  if r.whole ∧ r.page < 0x200 ∧ s.route.xfDefault ≠ 64 then
    ((List.range 256).map fun i => i * 4 + 1).filterMap fun f =>
      if r.items.any fun i => i.1 = f then none else some (f, (s.route.xfDefault : Int))
  else []

/-- Load one record into the shadow bank: a whole record replaces the page, an entry record goes over the active
content (R133). -/
def planRecord (r : PageRecord) (pl : Plan) : Except Reply Plan :=
  let pl := if r.whole then pl.edit r.page clearField 0 else pl
  let items := routerDefaults pl.st r ++ r.items
  (planItems r.page 0 items pl).map (·.raiseSplits r.page)

/-- The records a load takes, and how many pages and items it leaves out under SKIP_ABSENT; without the flag the first
absent page refuses (R137). -/
def takeRecords (s : State) (skip : Bool) : List PageRecord → Except Reply (List PageRecord × Nat)
  | [] => .ok ([], 0)
  | r :: rs =>
    if !pageExists s r.page then
      if skip then (match takeRecords s skip rs with
        | .ok (l, n) => .ok (l, n + 1)
        | .error e => .error e)
      else .error (refuse St.noResource (reason 0x02 r.page))
    else
      let bad := r.items.filter (badRouterItem s r.page)
      if bad ≠ [] ∧ !skip then .error (refuse St.noResource (reason 0x02 r.page))
      else match takeRecords s skip rs with
        | .ok (l, n) => .ok ({ r with items := r.items.filter fun i => !badRouterItem s r.page i } :: l, n + bad.length)
        | .error e => .error e

/-- Load a list of records in order. -/
def planRecords : List PageRecord → Plan → Except Reply Plan
  | [], pl => .ok pl
  | r :: rs, pl => match planRecord r pl with
    | .error e => .error { e with detail := if e.detail = 0 then reason 0x02 r.page else e.detail }
    | .ok pl => planRecords rs pl

/-! ### Times of boundaries (R140, R142) -/

/-- The full time now in 2^−16 ns. -/
def Clock.full16 (c : Clock) : Int := (c.wraps : Int) * 2 ^ 48 + c.reading

/-- The time of the boundary that begins a frame, in 2^−16 ns (R140). -/
def boundaryTime16 (s : State) (f : Nat) : Int := s.clk.full16 + (boundaryCount s f - s.clk.count)

/-- The frame whose boundary lies nearest to a time in ns; halfway takes the later (R140). -/
def nearestFrame (s : State) (t : Nat) : Nat :=
  let p2 : Int := s.sys.b * 65536000000000
  let d := (t : Int) * 65536 - boundaryTime16 s s.sys.frameNo
  ((s.sys.frameNo : Int) + (2 * d * fsNow s + p2) / (2 * p2)).toNat

/-- Lateness of a frame against a time, rounded to the nearest ns (R140, R142). -/
def latenessAt (s : State) (f t : Nat) : Int := Fx.roundAway (boundaryTime16 s f - (t : Int) * 65536) 65536

/-- How an action stands (R142): the frame it commits at and its lateness once its boundary has passed. -/
inductive Judged where
  | onTime (f : Nat)
  | late (f ns : Nat)
  | expired
  deriving DecidableEq, Repr

/-- Judge an action that can first commit at frame `f0` (R142). -/
def judge (s : State) (t : Option Nat) (always : Bool) (f0 : Nat) : Judged :=
  match t with
  | none => .onTime f0
  | some t =>
    let f := nearestFrame s t
    if f0 ≤ f then .onTime f
    else
      let ns := latenessAt s f0 t
      if ns ≤ s.scene.lateMs * 1000000 ∨ always then .late f0 ns.toNat else .expired

/-! ### Directory and areas (R134) -/

/-- Size of the bodies of a kind, in bytes. -/
def sceneBytes (s : State) (f : Nat → SceneEntry → Bool) : Nat :=
  (s.scene.dir.filter fun e => f e.1 e.2).foldl (fun n e => n + e.2.body.length) 0

/-- KiB of the resident area in use. -/
def residentKiB (s : State) : Nat := Fx.ceilDiv (sceneBytes s fun _ e => e.resident) 1024

/-- A scene is persistent: scene 0, and every scene assigned to an emergency input (R134). -/
def isPersistent (s : State) (n : Nat) : Bool := decide (n = 0) || s.scene.emerg.any fun e => e.2.scene = some n

/-- Every entry as persistent as its scene is now: the boot flash holds a copy of each persistent body (R134). -/
def keepPersistent (s : State) : State :=
  let dir := Tbl.mapV (fun n (e : SceneEntry) =>
    let p := isPersistent s n
    { e with persistent := p, boot := if p then some (e.boot.getD e.body) else none }) s.scene.dir
  { s with scene := { s.scene with dir := dir } }

/-- A body as it is read: the first copy whose CRC holds, of a persistent scene the one in the boot flash before the other
(R136). -/
def readScene (s : State) (n : Nat) : Option (List Byte) :=
  (Tbl.find s.scene.dir n).bind fun e => (e.boot.toList ++ [e.body]).find? fun b => decide (crc32c b = e.crc)

/-- The records of a scene, or why they cannot be had: no such scene, no copy whose CRC holds, a body out of form (R133,
R136). -/
def sceneRecords (s : State) (n : Nat) : Except Reply (List PageRecord) :=
  if !Tbl.has s.scene.dir n then .error (refuse St.noResource)
  else match readScene s n with
    | none => .error (refuse St.faulted)
    | some b => match parseScene b with
      | .error _ => .error (refuse St.faulted)
      | .ok rs => .ok rs

/-- Bodies of persistent scenes hold at most 8 MiB, of resident scenes at most their area (R134). -/
def areasFit (s : State) : Bool :=
  decide (sceneBytes s (fun n e => e.persistent || isPersistent s n) ≤ 8388608) && decide (residentKiB s ≤ s.scene.areaKiB)

/-- The newest version of an object, stored or being stored (R135, R405): 1 clip, 2 scene. -/
def storedVersion (s : State) (kind id : Nat) : Nat :=
  let now := if kind = 1 then (match Tbl.find s.peat.clip id with | some c => c.version | none => 0)
    else (match Tbl.find s.scene.dir id with | some e => e.version | none => 0)
  (s.peat.storing.filter fun x => decide (x.kind = kind) && decide (x.id = id)).foldl (fun m x => max m x.version) now

/-- Put a scene into the directory under a new version (R135). -/
def putScene (n flags : Nat) (name body : List Byte) (s : State) : State :=
  let e : SceneEntry :=
    { name := name, resident := Fx.bit flags 0, persistent := isPersistent s n, version := storedVersion s 2 n + 1
      crc := crc32c body, body := body, boot := if isPersistent s n then some body else none }
  { s with scene := { s.scene with dir := Tbl.put s.scene.dir n e } }

/-- A scene whose body stands in Peat only needs Peat (R134). -/
def needsPeat (s : State) (n : Nat) : Bool :=
  match Tbl.find s.scene.dir n with
  | some e => !e.resident && !e.persistent && !isReady s Fn.peat
  | none => false

/-- The content of a router entry's home code (R483). -/
def homeOf (e : SceneEntry) : Nat := if e.persistent then 2 else if e.resident then 1 else 0

/-! ### Holds (R128, R131, R132) -/

/-- The page is held by a commit list or an action. -/
def isHeld (s : State) (p : Nat) : Bool :=
  match Tbl.find s.page.status p with
  | some (.heldList _) => true
  | some (.heldAction _) => true
  | _ => false

/-- The page is held by something other than a given holder. -/
def heldByOther (s : State) (own : PageStatus) (p : Nat) : Bool := isHeld s p && decide (Tbl.find s.page.status p ≠ some own)

def isPending (s : State) (p : Nat) : Bool := decide (Tbl.find s.page.status p = some .pending)
def isReseeding (s : State) (p : Nat) : Bool := decide (Tbl.find s.page.status p = some .reseeding)

/-- Hold pages. -/
def holdPages (st : PageStatus) (ps : List Nat) (s : State) : State := ps.foldl (fun s p => setStatus p (some st) s) s

/-- Release the pages that a holder holds. -/
def releasePages (own : PageStatus) (ps : List Nat) (s : State) : State :=
  ps.foldl (fun s p => if Tbl.find s.page.status p = some own then releasePage p s else s) s

def pagesHeldBy (s : State) (own : PageStatus) : List Nat := (s.page.status.filter fun e => e.2 = own).map (·.1)

/-- Block instances and expert tasks that were staged and never committed leave with their list. -/
def dropUnborn (cs : List Change) (s : State) : State :=
  cs.foldl (fun s c => match c with
    | .blockNew p _ _ => { s with blk := { s.blk with inst := Tbl.keep (fun q i => q != p || i.live) s.blk.inst } }
    | .instNew _ first _ _ => { s with frond := { s.frond with tasks := Tbl.keep (fun _ t => t.firstPage != first || t.live) s.frond.tasks } }
    | _ => s) s

/-- Discard a commit list: its pages are re-seeded and released (R132). -/
def discardList (n : Nat) (s : State) : State :=
  match Tbl.find s.scene.lists n with
  | none => s
  | some l =>
    let s := releasePages (.heldList n) (pagesHeldBy s (.heldList n)) (dropUnborn l.changes s)
    { s with scene := { s.scene with lists := Tbl.erase s.scene.lists n } }

/-- Forget an action and release what it holds. -/
def dropAction (a : Nat) (s : State) : State :=
  let cs := match Tbl.find s.scene.actions a with | some x => x.changes | none => []
  let s := releasePages (.heldAction a) (pagesHeldBy s (.heldAction a)) (dropUnborn cs s)
  let sets := s.commit.sets.filter fun c => decide (c.action ≠ some a)
  let txns := s.pair.txns.filter fun t => decide (t.action ≠ some a)
  { s with
    scene := { s.scene with actions := Tbl.erase s.scene.actions a }
    commit := { s.commit with sets := sets }
    pair := { s.pair with txns := txns } }

/-- The client of an action: a forwarded one belongs to none of this engine's slots. -/
def Action.client (x : Action) : Option Nat := if x.slot < 8 then some x.slot else none

/-! ### Events of actions (R139, R142) -/

/-- The end of an action that commits nothing: COMMAND_DONE names its request (R456, R494). -/
def actionFails (a : Nat) (status detail : Nat) (s : State) : State :=
  match Tbl.find s.scene.actions a with
  | none => s
  | some x =>
    postEvent Ev.commandDone x.client x.seq (u16 x.code ++ u8 status ++ u8 0 ++ u32 detail ++ fnB 0) (dropAction a s)

/-- SCENE_ARMED (R139). -/
def postArmed (a : Nat) (x : Action) (s : State) : State :=
  postEvent Ev.sceneArmed x.client x.seq
    (u16 a ++ u16 x.number ++ u8 (Fx.b2n x.isList) ++ u8 0 ++ u32 ((s.clk.raw - x.since) / 250)) s

/-- SCENE_APPLIED of a commit at the boundary that has just come (R142). -/
def postApplied (a : Nat) (x : Action) (status lateNs : Nat) (s : State) : State :=
  let t := (Fx.roundAway (boundaryTime16 s s.sys.frameNo) 65536).toNat
  postEvent Ev.sceneApplied x.client x.seq
    (u16 a ++ u16 x.number ++ u8 (Fx.b2n x.isList) ++ u8 status ++ fnB s.sys.frameNo ++ u32 s.clk.boundaryNs ++
      nt10B (t / 1000000000) (t % 1000000000) ++ u32 lateNs) s

/-- Status and lateness of an action that commits at the boundary that has come (R142): one that a time step has carried
past its boundary is LATE beyond one frame period only. -/
def completion (s : State) (x : Action) : Nat × Nat :=
  match x.time with
  | none => (St.ok, 0)
  | some t =>
    if s.sys.frameNo ≤ nearestFrame s t then (St.ok, 0)
    else
      let ns := latenessAt s s.sys.frameNo t
      if x.late ∨ (s.sys.b : Int) * 1000000000 < ns * fsNow s then (St.late, ns.toNat) else (St.ok, 0)

/-! ### Emergency inputs (R145 to R149) -/

def emergOf (s : State) (n : Nat) : Emerg := Tbl.getD s.scene.emerg n {}
def putEmerg (n : Nat) (e : Emerg) (s : State) : State := { s with scene := { s.scene with emerg := Tbl.put s.scene.emerg n e } }

/-- The input redirects its pages: asserted, or latched after a release (R147, R149). -/
def Emerg.inForce (e : Emerg) : Bool := e.scene.isSome && (e.asserted || e.latched)

/-- The redirection of every page: the image of the highest input in force that touches it (R149). -/
def redirection (s : State) : Tbl Nat :=
  ((s.scene.emerg.filter fun e => e.2.inForce).flatMap fun e => e.2.pages.map fun p => (p, e.1)).foldl
    (fun t (p, i) => if Tbl.getD t p 0 ≤ i then Tbl.put t p i else t) []

/-- An input at a boundary: a debounced change that is due (R147, R149). -/
def Emerg.boundary (e : Emerg) (frame : Nat) : Emerg :=
  match e.due with
  | some (f, on) =>
    if f ≤ frame then
      if on then { e with due := none, asserted := true, latched := false }
      else { e with due := none, asserted := false, latched := e.latchMode && e.asserted }
    else e
  | none => e

/-- The images of a scene: every record resolved into a complete page image (R145). -/
def imagesOf (s : State) (rs : List PageRecord) : Except Reply (Tbl PageRec) :=
  rs.foldl (fun acc r => match acc with
    | .error e => .error e
    | .ok t =>
      let base := { s with page := { s.page with status := [], shadow := Tbl.put s.page.shadow r.page (activeRec s r.page) } }
      match planRecord r { st := base } with
      | .error e => .error e
      | .ok pl => .ok (Tbl.put t r.page (Tbl.getD pl.st.page.shadow r.page []))) (.ok [])

/-- Assign a scene to an emergency input, or take its assignment away (R145). -/
def applyEmerg (n : Nat) (scene : Option Nat) (latch : Bool) (s : State) : State :=
  let e := emergOf s n
  let clear := { s with page := { s.page with image := Tbl.keep (fun k _ => k / 65536 != n) s.page.image } }
  match scene with
  | none => keepPersistent (putEmerg n { e with scene := none, pages := [] } clear)
  | some k =>
    match sceneRecords s k with
    | .error _ => s
    | .ok rs => match takeRecords s true rs with
      | .error _ => s
      | .ok (rs, _) => match imagesOf s rs with
        | .error _ => s
        | .ok t =>
          let img := t.foldl (fun m r => Tbl.put m (n * 65536 + r.1) r.2) clear.page.image
          keepPersistent (putEmerg n { e with scene := some k, latchMode := latch, pages := t.map (·.1) }
            { clear with page := { clear.page with image := img } })

/-- The memories that hold the images have room for those of a state (R145, R416); for none there always is. -/
def imagesFit (s : State) : Bool := s.page.image.isEmpty || Config.imagesFit (s.page.image.map (·.1))

/-- Inputs whose own pin differs from the state that decides take it at the beginning of a frame (R147, R150). -/
def followPins (f : Nat) (s : State) : State :=
  let em := Tbl.mapV (fun _ (e : Emerg) =>
    let target : Bool := match e.due with
      | some (_, on) => on
      | none => e.asserted
    if target = e.pin then e else { e with due := some (f, e.pin) }) s.scene.emerg
  { s with scene := { s.scene with emerg := em } }

/-- The frame at whose beginning the own pins redirect: one later in a pair (R147, R150). -/
def emergFrame (s : State) : Nat := if s.sys.pairEn then nextFrame s + 1 else nextFrame s

/-- This engine's pins decide: the router is ready, and in a pair the engine is active (R145, R150). -/
def pinsDecide (s : State) : Bool := isReady s Fn.router && (!s.sys.pairEn || s.pair.activeOut)

/-- SCENE.EMERG_CLEAR at its boundary (R149). -/
def applyEmergClear (n : Nat) (s : State) : State := putEmerg n { emergOf s n with latched := false } s

end Sys2Proof.Machine
end

