-- ==== Sys2Proof/Machine/ExpertOps.lean ====
section
/-!
DEFINITION. Program images and instances (07: R175 to R186), standalone block instances (R67, R69), and the pins, pages
and addresses that they take.
-/
namespace Sys2Proof.Machine
open Sys2Proof

/-! ### Runs of pins and pages (R182) -/

/-- The first start from `a`, stepping by one, at which a run of n lies free below `top`; `used` lists taken runs. -/
def firstFree (used : List (Nat × Nat)) (n top : Nat) : Nat → Nat → Option Nat
  | 0, _ => none
  | fuel + 1, a =>
    if top < a + n then none
    else match used.find? fun r => decide (r.1 < a + n) && decide (a < r.1 + r.2) && decide (0 < r.2) with
      | some r => firstFree used n top fuel (r.1 + r.2)
      | none => some a

/-- The lowest free run in [lo, top). -/
def lowestRun (used : List (Nat × Nat)) (lo top n : Nat) : Option Nat := firstFree used n top (used.length + 1) lo

/-- Pins in use: standalone instances and expert tasks, committed or staged. -/
def usedPins (s : State) : List (Nat × Nat) :=
  (s.blk.inst.map fun e => (e.2.pinBase, e.2.ins + e.2.outs)) ++
  s.frond.tasks.flatMap fun e => (e.2.ins ++ e.2.outs).map fun i => (i, 1)

/-- Instance pages in use. -/
def usedPages (s : State) : List (Nat × Nat) :=
  (s.blk.inst.map fun e => (e.1, 1)) ++ s.frond.tasks.map fun e => (e.1, 1)

def lowestPins (s : State) (n : Nat) : Option Nat := lowestRun (usedPins s) 0x8000 0x10000 n
def lowestPages (s : State) (n : Nat) : Option Nat := lowestRun (usedPages s) 0xC000 0x10000 n

/-! ### Images (R176 to R181) -/

/-- A section of an image (R178). -/
structure ImgSection where
  type : Nat
  flags : Nat
  off : Nat
  len : Nat
  count : Nat
  deriving DecidableEq, Repr

/-- A pin descriptor (R180): direction, flags and the label that its producer chose. -/
structure ImgPin where
  dir : Nat
  flags : Nat
  label : Nat
  deriving DecidableEq, Repr

/-- A parsed image: tasks with rings and pins as indices, and the words of its sections. -/
structure Parsed where
  id : Nat
  version : Nat
  families : Nat
  code : List W48
  x : List W24
  y : List W24
  params : List W24
  tasks : List (ExpertTask × Nat)
  pins : List ImgPin
  deriving DecidableEq, Repr

def imgBad (type item : Nat) : Reply := refuse St.conflict (reason 0x0A (type * 65536 + item))

/-- Item size and largest count of a section type (R178). -/
def sectionForm (t tasks pins : Nat) : Option (Nat × Nat) :=
  match t with
  | 1 => some (6, 8192)
  | 2 => some (4, 8192)
  | 3 => some (4, 8192)
  | 4 => some (64, tasks)
  | 5 => some (8, pins)
  | 6 => some (16, 1024)
  | 7 => some (4, 32768 * tasks)
  | 8 => some (1, 524288)
  | _ => none

/-- The section table. -/
def imgSections (bs : List Byte) : Nat → Nat → List ImgSection
  | 0, _ => []
  | n + 1, at_ =>
    { type := getLE bs at_ 2, flags := getLE bs (at_ + 2) 2, off := getLE bs (at_ + 4) 4, len := getLE bs (at_ + 8) 4
      count := getLE bs (at_ + 12) 4 } :: imgSections bs n (at_ + 16)

/-- Items from index i on, by a reader of one item; the index of the first that it refuses. -/
def readItems {α : Type} (read : Nat → Option α) : Nat → Nat → Except Nat (List α)
  | 0, _ => .ok []
  | n + 1, i => match read i with
    | none => .error i
    | some a => match readItems read n (i + 1) with
      | .ok l => .ok (a :: l)
      | .error j => .error j

/-- A data word; its top byte must be zero (R176). -/
def wordItem (bs : List Byte) (off : Nat) : Option W24 :=
  if getLE bs (off + 3) 1 ≠ 0 then none else some (BitVec.ofNat 24 (getLE bs off 3))

/-- Instructions of CODE. -/
def codeItems (bs : List Byte) : Nat → Nat → List W48
  | 0, _ => []
  | n + 1, off => BitVec.ofNat 48 (getLE bs off 6) :: codeItems bs n (off + 6)

/-- A ring descriptor (R180). -/
def ringItem (bs : List Byte) (off : Nat) : Option Ring :=
  let place := getLE bs off 1
  let size := getLE bs (off + 4) 4
  if 1 < place ∨ getLE bs (off + 1) 3 ≠ 0 ∨ getLE bs (off + 12) 4 ≠ 0 ∨ size = 0 ∨ (if place = 0 then 65536 else 4194304) < size then none
  else some { bulk := place = 1, size := size, af := getLE bs (off + 8) 2, as_ := getLE bs (off + 10) 2 }

/-- A pin descriptor (R180). -/
def pinItem (bs : List Byte) (off : Nat) : Option ImgPin :=
  let d := getLE bs off 1
  let f := getLE bs (off + 1) 1
  if 1 < d ∨ 1 < f ∨ getLE bs (off + 2) 2 ≠ 0 then none else some { dir := d, flags := f, label := getLE bs (off + 4) 4 }

/-- A handler entry: within CODE when its flag is set, else all ones (R179). -/
def handlerOk (flag : Bool) (entry code : Nat) : Bool := if flag then decide (entry < code) else decide (entry = 0xFFFFFFFF)

/-- A task descriptor (R179), with the parameter words that it starts from; pins are indices here. -/
def taskItem (bs : List Byte) (off code nparams index image : Nat) (rings : List Ring) (pins : List ImgPin) :
    Option (ExpertTask × Nat) :=
  let pin := fun i => pins.getD i { dir := 0, flags := 0, label := 0 }
  let g := fun o n => getLE bs (off + o) n
  let fl := g 5 1
  let firstPin := g 44 2
  let ni := g 46 1
  let no := g 47 1
  let okNums := decide (g 0 4 < code) && [1, 3, 4, 5].contains (g 4 1) && decide (fl < 4) && decide (g 8 4 ≤ 120000) &&
    decide (g 12 4 ≤ 3750) && decide (g 16 4 ≤ 30000) && decide (g 20 4 ≤ 937) &&
    handlerOk (Fx.bit fl 0) (g 24 4) code && handlerOk (Fx.bit fl 1) (g 28 4) code && decide (g 32 2 ≤ 16384) &&
    decide (g 34 2 ≤ 16384) && decide (g 36 4 ≤ 65536) && decide (g 42 2 ≤ 16) && decide (g 40 2 + g 42 2 ≤ rings.length) &&
    decide (ni ≤ 64) && decide (no ≤ 64) && decide (firstPin + ni + no ≤ pins.length) && decide (g 52 4 ≤ 32768) &&
    decide (g 48 4 + g 52 4 ≤ nparams) && decide (g 56 8 = 0)
  let ins := (List.range ni).map fun i => firstPin + i
  let outs := (List.range no).map fun i => firstPin + ni + i
  let dirs := (ins.all fun i => decide ((pin i).dir = 0)) && outs.all fun i => decide ((pin i).dir = 1)
  if !(okNums && dirs) then none
  else some ({ image := image, index := index, entry := g 0 4
               dmaHandler := if Fx.bit fl 0 then some (g 24 4) else none
               tickHandler := if Fx.bit fl 1 then some (g 28 4) else none
               stage := g 4 1, latency := g 6 2, f := g 8 4, v := g 12 4, fb := g 16 4, vb := g 20 4
               scratchX := g 32 2, scratchY := g 34 2, stateWords := g 36 4, params := g 52 4
               ins := ins, outs := outs, sides := ins.filter fun i => decide ((pin i).flags = 1)
               labels := (ins ++ outs).map fun i => (pin i).label, rings := (rings.drop (g 40 2)).take (g 42 2)
               codeLo := 0, codeLen := 0, xBase := 0, xLen := 0, yBase := 0, yLen := 0, firstPage := 0 }, g 48 4)

/-- Sections overlap. -/
def overlaps (a b : ImgSection) : Bool := decide (a.off < b.off + b.len) && decide (b.off < a.off + a.len)

/-- The first section that breaks R178. -/
def badSection (size tasks pins : Nat) : List ImgSection → Option ImgSection
  | [] => none
  | c :: cs =>
    let form := sectionForm c.type tasks pins
    let ok := match form with
      | some (sz, lim) => decide (c.len = c.count * sz) &&
          (if c.type = 4 ∨ c.type = 5 then decide (c.count = lim) else decide (c.count ≤ lim))
      | none => false
    if !ok ∨ c.flags ≠ 0 ∨ size < c.off + c.len ∨ (cs.any fun d => d.type = c.type ∨ overlaps c d) then some c
    else badSection size tasks pins cs

/-- Bytes with the CRC field taken as zero. -/
def zeroed (bs : List Byte) (off : Nat) : List Byte := bs.take off ++ [0, 0, 0, 0] ++ bs.drop (off + 4)

/-- The checks of R181 up to the sections, descriptors and data words. -/
def parseImage (bs : List Byte) : Except Reply Parsed :=
  if bs.length ≠ getLE bs 8 4 ∨ bs.length < 64 then .error (refuse St.badLen)
  else if crc32c (zeroed bs 60) ≠ getLE bs 60 4 then .error (refuse St.badCrc)
  else if bs.take 4 ≠ [0x46, 0x52, 0x49, 0x4D] ∨ getLE bs 4 2 ≠ 2 ∨ getLE bs 6 2 ≠ 64 then .error (refuse St.conflict)
  else
    let nsec := getLE bs 22 2
    let nt := getLE bs 24 2
    let np := getLE bs 26 2
    let fams := getLE bs 20 1
    if 524288 < bs.length ∨ getLE bs 12 4 = 0 ∨ fams = 0 ∨ 8 ≤ fams ∨ getLE bs 21 1 ≠ 0 ∨ nsec = 0 ∨ 16 < nsec ∨ nt = 0 ∨ 64 < nt ∨
        np = 0 ∨ 4096 < np ∨ bs.length < 64 + 16 * nsec then .error (imgBad 0 0)
    else
      let secs := imgSections bs nsec 64
      match badSection bs.length nt np secs with
      | some c => .error (imgBad c.type 0)
      | none =>
        let sec := fun t => (secs.find? fun c => c.type = t).getD { type := t, flags := 0, off := 0, len := 0, count := 0 }
        if (sec 1).count = 0 then .error (imgBad 1 0)
        else if (sec 4).count = 0 then .error (imgBad 4 0)
        else
          let words := fun t => readItems (fun i => wordItem bs ((sec t).off + 4 * i)) (sec t).count 0
          match words 2, words 3, words 7, readItems (fun i => pinItem bs ((sec 5).off + 8 * i)) (sec 5).count 0,
              readItems (fun i => ringItem bs ((sec 6).off + 16 * i)) (sec 6).count 0 with
          | .ok x, .ok y, .ok p, .ok pins, .ok rings =>
            match readItems (fun i => taskItem bs ((sec 4).off + 64 * i) (sec 1).count p.length i (getLE bs 12 4) rings pins) nt 0 with
            | .error i => .error (imgBad 4 i)
            | .ok ts =>
              if (ts.foldl (fun n t => n + t.1.ins.length + t.1.outs.length) 0) ≠ np then .error (imgBad 4 0)
              else .ok { id := getLE bs 12 4, version := getLE bs 16 4, families := fams
                         code := codeItems bs (sec 1).count (sec 1).off, x := x, y := y, params := p, tasks := ts, pins := pins }
          | .error i, _, _, _, _ => .error (imgBad 2 i)
          | _, .error i, _, _, _ => .error (imgBad 3 i)
          | _, _, .error i, _, _ => .error (imgBad 7 i)
          | _, _, _, .error i, _ => .error (imgBad 5 i)
          | _, _, _, _, .error i => .error (imgBad 6 i)

/-- Free runs of the three areas (R154, R155, R181): program 0x2000 to 0x3FFF, constants 0x2000 to 0x3FFF. -/
def imageRuns (s : State) (k : Nat) : List (Nat × Nat) :=
  s.frond.images.map fun e => if k = 0 then (e.2.code, e.2.codeLen) else if k = 1 then (e.2.xBase, e.2.xLen) else (e.2.yBase, e.2.yLen)

/-- The largest free run of an area from `lo` to 0x4000. -/
def largestRun (used : List (Nat × Nat)) : Nat → Nat
  | 0 => 0
  | n + 1 => if (lowestRun used 0x2000 0x4000 (n + 1)).isSome then n + 1 else largestRun used n

/-- An area that cannot hold a run (R181). -/
def areaFull (s : State) (k : Nat) : Reply :=
  { status := St.noResource, detail := reason 0x06 (16 + k), data := u32 (largestRun (imageRuns s k) 8192) }

/-- The loading of an image (R181): the refusal, or the image as it would be placed; none when it is loaded already. -/
def placeImage (s : State) (bs : List Byte) : Except Reply (Option Image × Image) :=
  match parseImage bs with
  | .error e => .error e
  | .ok p =>
    match Tbl.find s.frond.images p.id with
    | some i => if i.bytes = bs then .ok (none, i) else .error (refuse St.conflict)
    | none =>
      match lowestRun (imageRuns s 0) 0x2000 0x4000 p.code.length, lowestRun (imageRuns s 1) 0x2000 0x4000 p.x.length,
          lowestRun (imageRuns s 2) 0x2000 0x4000 p.y.length with
      | some c, some x, some y =>
        -- the number and the total of images bound no area of their own: the code area is named (log entry 19)
        if 16 ≤ s.frond.images.length ∨ 4194304 < (s.frond.images.foldl (fun n e => n + e.2.bytes.length) 0) + bs.length then
          .error (areaFull s 0)
        else
          let i : Image := { id := p.id, version := p.version, bytes := bs, code := c, codeLen := p.code.length
                             xBase := x, xLen := p.x.length, yBase := y, yLen := p.y.length }
          .ok (some i, i)
      | none, _, _ => .error (areaFull s 0)
      | _, none, _ => .error (areaFull s 1)
      | _, _, none => .error (areaFull s 2)

/-- Write words from an address on. -/
def putWords {α : Type} : Nat → List α → Tbl α → Tbl α
  | _, [], t => t
  | a, w :: ws, t => putWords (a + 1) ws (Tbl.put t a w)

/-- The address lies in the program area or a constant area of an image (R154, R181). -/
def Image.holds (i : Image) (kind w : Nat) : Bool :=
  if kind = 0 then inRun w i.code i.codeLen else if kind = 1 then inRun w i.xBase i.xLen else inRun w i.yBase i.yLen

/-- The image enters every core of every frond, the spare included, at the addresses that were assigned to it (R181, R185). -/
def applyImage (bs : List Byte) (code x y : Nat) (s : State) : State :=
  match parseImage bs with
  | .ok p =>
    if Tbl.has s.frond.images p.id then s
    else
      let i : Image := { id := p.id, version := p.version, bytes := bs, code := code, codeLen := p.code.length
                         xBase := x, xLen := p.x.length, yBase := y, yLen := p.y.length }
      { s with frond := { s.frond with
          images := Tbl.put s.frond.images i.id i
          prog := putWords code p.code s.frond.prog
          xconst := putWords x p.x s.frond.xconst
          yconst := putWords y p.y s.frond.yconst
          own := Tbl.keep (fun k _ => !i.holds (k / 65536 % 4) (k % 65536)) s.frond.own } }
  | .error _ => s

/-- EXPERT.IMAGE_UNLOAD frees the image's areas (R184). -/
def applyImageDrop (id : Nat) (s : State) : State :=
  { s with frond := { s.frond with images := Tbl.erase s.frond.images id } }

/-! ### Instances (R175, R182, R184) -/

/-- First byte of the routing and frond overflow area, past the port rings that stand at its start (R61, R424; log entry
19), and the area's end, as 32-bit word indices. -/
def ringArea (s : State) : Nat × Nat :=
  let lo := (s.sys.split.getD 0 64 + s.sys.split.getD 1 16) * 262144
  (lo + 786432, lo + s.sys.split.getD 2 16 * 262144)

/-- Bulk rings in use, each rounded up to a 16-byte boundary (R175). -/
def usedRings (s : State) : List (Nat × Nat) :=
  s.frond.tasks.flatMap fun e => (e.2.rings.filter (·.bulk)).map fun r => (r.base, (r.size + 3) / 4 * 4)

/-- Allocate the bulk rings of one task. -/
def placeRings (area : Nat × Nat) : List Ring → List (Nat × Nat) → Option (List Ring)
  | [], _ => some []
  | r :: rs, used =>
    if !r.bulk then (placeRings area rs used).map (r :: ·)
    else
      let n := (r.size + 3) / 4 * 4
      match lowestRun used area.1 area.2 n with
      | none => none
      | some a => (placeRings area rs ((a, n) :: used)).map ({ r with base := a } :: ·)

/-- Bulk rings at bases that another engine has assigned (R185). -/
def giveBases : List Ring → List Nat → List Ring
  | [], _ => []
  | r :: rs, bs => if r.bulk then { r with base := bs.head?.getD 0 } :: giveBases rs (bs.drop 1) else r :: giveBases rs bs

/-- Enter the tasks of an instance, not yet committed (R182): their bulk rings first-fit, or at the bases given. -/
def reserveTasks (i : Image) (pin page : Nat) (bases : Option (List (List Nat))) :
    List (ExpertTask × Nat) → Nat → State → Option State
  | [], _, s => some s
  | (t, _) :: ts, k, s =>
    match (match bases with | some l => some (giveBases t.rings (l.getD k [])) | none => placeRings (ringArea s) t.rings (usedRings s)) with
    | none => none
    | some rs =>
      let t := { t with
        ins := t.ins.map (pin + ·), outs := t.outs.map (pin + ·), sides := t.sides.map (pin + ·), rings := rs
        codeLo := i.code, codeLen := i.codeLen, xBase := i.xBase, xLen := i.xLen, yBase := i.yBase, yLen := i.yLen
        firstPage := page, live := false }
      reserveTasks i pin page bases ts (k + 1) { s with frond := { s.frond with tasks := Tbl.put s.frond.tasks (page + k) t } }

/-- The bases of an instance's bulk rings, task by task. -/
def ringBases (s : State) (first : Nat) : List (List Nat) :=
  (s.frond.tasks.filter fun e => decide (e.2.firstPage = first)).map fun e => (e.2.rings.filter (·.bulk)).map (·.base)

/-- Enter an instance, not yet committed, with its pages' banks from the PARAMS words (R182). -/
def reserveInst (image page pin : Nat) (bases : Option (List (List Nat))) (s : State) : Option State :=
  match Tbl.find s.frond.images image with
  | none => none
  | some i => match parseImage i.bytes with
    | .error _ => none
    | .ok p =>
      match reserveTasks i pin page bases p.tasks 0 s with
      | none => none
      | some s =>
        let banks := (p.tasks.zip (List.range p.tasks.length)).foldl (fun (t : Tbl PageRec) e =>
          let ws := ((p.params.drop e.1.2).take e.1.1.params).map fun w => (w.toNat : Int)
          Tbl.put t (page + e.2) (putWords rawBase ws [])) []
        some { s with page := { s.page with
          active := banks.foldl (fun t e => Tbl.put t e.1 e.2) s.page.active
          shadow := banks.foldl (fun t e => Tbl.put t e.1 e.2) s.page.shadow } }

/-- The creation commits: first run index 0, state and rings clear (R182). -/
def applyInstNew (first : Nat) (s : State) : State :=
  let tasks := Tbl.mapV (fun _ t => if t.firstPage = first ∧ !t.live then { t with live := true, runIndex := 0, copy := false } else t) s.frond.tasks
  let born := (s.frond.tasks.filter fun e => e.2.firstPage = first && !e.2.live)
  let bulk := born.foldl (fun m e => (e.2.rings.filter (·.bulk)).foldl (fun m r => Memory.clear m (4 * r.base) (4 * r.size)) m) s.mem.bulk
  { s with frond := { s.frond with tasks := tasks }, mem := { s.mem with bulk := bulk } }

/-- The banks of a page are empty again. -/
def emptyPage (p : Nat) (s : State) : State :=
  { s with page := { s.page with
      active := Tbl.erase s.page.active p, shadow := Tbl.erase s.page.shadow p, status := Tbl.erase s.page.status p } }

/-- A deletion commits: pins, pages, task area and rings become free (R184). -/
def applyInstDrop (first : Nat) (s : State) : State :=
  let gone := s.frond.tasks.filter fun e => e.2.firstPage = first
  let s := gone.foldl (fun s e => emptyPage e.1 s) s
  { s with frond := { s.frond with
      tasks := Tbl.keep (fun _ t => t.firstPage != first) s.frond.tasks
      mark := gone.foldl (fun m e => Tbl.erase m e.1) s.frond.mark } }

/-- The run state of a standalone block goes, that of its partitions with it. -/
def dropPage (p : Nat) (t : Tbl BlkState) : Tbl BlkState := Tbl.keep (fun k _ => k % 65536 != p) t

/-- A standalone block's creation commits (R67). -/
def applyBlockNew (p : Nat) (s : State) : State :=
  match Tbl.find s.blk.inst p with
  | some i => { s with blk := { s.blk with inst := Tbl.put s.blk.inst p { i with live := true }, st := dropPage p s.blk.st } }
  | none => s

/-- A standalone block's deletion commits. -/
def applyBlockDrop (p : Nat) (s : State) : State :=
  emptyPage p
    { s with
      blk := { s.blk with inst := Tbl.erase s.blk.inst p, st := dropPage p s.blk.st, asrc := Tbl.erase s.blk.asrc p }
      frond := { s.frond with mark := Tbl.erase s.frond.mark p } }

/-- Number of partition tasks of a FIR (R87). -/
def firParts (taps : Nat) : Nat := if 1024 < taps then Fx.ceilDiv taps 1024 else 1

/-- Input and output pins of a standalone block, the side input last among the inputs (R67, R75, R85, R91). -/
def blockPins (k : BlockKind) (get : Nat → Int) : Nat × Nat :=
  match k with
  | .gate | .expander | .gateOrExpander | .compressor | .limiter => ((get 15).toNat + 1, (get 15).toNat)
  | .ancGain => (2, 1)
  | .crossover => (1, (get 1).toNat)
  | .asrc => (0, 0)
  | _ => (1, 1)

/-- The emergency images of a page hold its structural fields as they stand now (R69, R145). -/
def refreshImages (p : Nat) (s : State) : State :=
  let keep := fun (r : PageRec) => r.filter fun f => !isStructural s p f.1
  let new := (activeRec s p).filter fun f => isStructural s p f.1
  { s with page := { s.page with
      image := Tbl.mapV (fun k r => if k % 65536 = p then new.foldl (fun t f => Tbl.put t f.1 f.2) (keep r) else r) s.page.image } }

/-- A reshaped instance: its pins keep their base, the number of partitions follows its taps (R69, R87). -/
def applyReshape (p : Nat) (s : State) : State :=
  let s := refreshImages p s
  match Tbl.find s.blk.inst p with
  | some i =>
    let parts := if i.kind = .fir then firParts (activeGet s p 0).toNat else 1
    let (a, b) := blockPins i.kind (activeGet s p)
    { s with blk := { s.blk with inst := Tbl.put s.blk.inst p { i with parts := parts, ins := a, outs := b } } }
  | none => s

/-! ### Connections of pins (R49, R184) -/

/-- The pins of an instance page. -/
def pinsOf (s : State) (p : Nat) : List Nat :=
  match Tbl.find s.blk.inst p with
  | some i => (List.range (i.ins + i.outs)).map (i.pinBase + ·)
  | none => (s.frond.tasks.filter fun e => e.2.firstPage = p).flatMap fun e => e.2.ins ++ e.2.outs

/-- Edits that remove every connection and selection that names a pin, in a bank table (R184). -/
def detachEdits (t : Tbl PageRec) (pins : List Nat) : List Edit :=
  ((connectedIn t).filter fun (sink, src) => pins.contains sink || pins.contains src).map (fun (sink, _) =>
    ({ page := sink / 256, field := sink % 256 * 4, value := noEndpoint } : Edit)) ++
  ((selectedIn t).filter fun (_, src) => pins.contains src).map (fun (m, _) =>
    ({ page := 0x200 + m / 256, field := m % 256 * 8, value := noEndpoint } : Edit))

/-! ### Frond addresses (log entry 19) -/

/-- Words that a task takes in the task area: three banks, two state copies, rings (R167). -/
def taskWords (t : ExpertTask) : Nat :=
  3 * t.params + 2 * t.stateWords + ((t.rings.filter fun r => !r.bulk).map (·.size)).foldl (· + ·) 0

/-- Frond rings laid one after another. -/
def layRings : Nat → List Ring → List Ring
  | _, [] => []
  | a, r :: rs => if r.bulk then r :: layRings a rs else { r with base := a } :: layRings (a + r.size) rs

/-- A task's words from an address of the task area on; its context block and staging words find their place when a run
begins (log entry 19). -/
def layAt (area : Nat) (t : ExpertTask) : ExpertTask :=
  let pp := area + 3 * t.params
  { t with
    ctx := 0x100000, inBase := 0x104000, outBase := 0x104000 + t.ins.length * 32, bank := area, ppA := pp, ppB := pp + t.stateWords
    rings := layRings (pp + 2 * t.stateWords) t.rings }

/-- The persistent words of a task: its state copies and frond rings, in the order of its layout. -/
def keptWords (t : ExpertTask) : List Nat := (List.range (taskWords t - 3 * t.params)).map (t.bank + 3 * t.params + ·)

/-- Write a task's persistent words. -/
def putKept (f : Nat) (t : ExpertTask) (ws : List W24) (fr : Fronds) : Fronds :=
  ((keptWords t).zip ws).foldl (fun fr e => fr.write f 0 false e.1 e.2) fr

/-- A task's persistent words as a frond holds them, and their number of zeros. -/
def readKept (fr : Fronds) (f : Nat) (t : ExpertTask) : List W24 := (keptWords t).map fun a => fr.read f 0 false a
def zeroKept (t : ExpertTask) : List W24 := (keptWords t).map fun _ => 0

/-- A task enters a frond's task area beside those that stand there: at the lowest free run, or, where none is long enough,
all of them one after another from the area's start. The area always holds them (R167). -/
def enterArea (f key : Nat) (t : ExpertTask) (ws : List W24) (there : List (Nat × ExpertTask)) (fr : Fronds) : Fronds :=
  let put := fun (fr : Fronds) (k : Nat) (t : ExpertTask) (ws : List W24) =>
    let fr := putKept f t ws fr
    { fr with tasks := Tbl.put fr.tasks k t }
  match lowestRun (there.map fun o => (o.2.bank, taskWords o.2)) 0x10C000 0x140000 (taskWords t) with
  | some a => put fr key (layAt a t) ws
  | none =>
    ((there ++ [(key, t)]).foldl (fun (acc : Fronds × Nat) o =>
      (put acc.1 o.1 (layAt acc.2 o.2) (if o.1 = key then ws else readKept fr f o.2), acc.2 + taskWords o.2)) (fr, 0x10C000)).1

/-- An expert task keeps its frond and its addresses under a new placement. -/
def keepsPlace (s : State) (pl : Tbl Placed) (e : Nat × ExpertTask) : Bool :=
  match Tbl.find s.frond.placed e.1, Tbl.find pl e.1 with
  | some o, some p => decide (o.frond = p.frond ∧ e.2.ctx ≠ 0)
  | _, _ => false

/-- The entries that an admission reserves in a group (R427): for the port rings, the mover, Bracken, the packet engine, the
fronds in use and in a pair the twin mirror, at most 192 of them. -/
def reservedSlots (s : State) (g : Nat) : List (Nat × Nat) :=
  let fronds := (s.frond.placed.map fun e => e.2.frond).eraseDups
  let owners := fronds ++ [34, 32, 33, 35] ++ (if s.sys.pairEn then [38] else [])
  ((Config.slotPlan g fronds s.sys.pairEn).filter fun e => decide (e.1 < 256) && owners.contains e.2).take 192

/-- The scheduler writes and locks the reserved entries of every group, reclaiming what an expert write assigned; every other
entry stands (R174, R427). -/
def reserveSlots (s : State) : State :=
  let group := fun (t : Tbl Group) (g : Nat) =>
    let x := Tbl.getD t g {}
    Tbl.put t g { x with slots := (reservedSlots s g).foldl (fun l e => Tbl.put l e.1 (e.2, true)) x.slots }
  { s with arb := { s.arb with group := (List.range 6).foldl group s.arb.group } }

/-- Take a placement into force at a boundary: expert tasks on a new frond get addresses there and their state with
them (R34); a task that has none yet starts clear (R182). -/
def settlePlacement (pl : Tbl Placed) (s : State) : State :=
  let move := fun (acc : Fronds × List Nat) (e : Nat × ExpertTask) =>
    match Tbl.find pl e.1 with
    | none => acc
    | some p =>
      if keepsPlace s pl e then (acc.1, e.1 :: acc.2)
      else
        let there := acc.1.tasks.filter fun o => o.1 != e.1 && (acc.2.contains o.1 || keepsPlace s pl o) &&
          (match Tbl.find pl o.1 with | some q => decide (q.frond = p.frond) | none => false)
        let ws := match Tbl.find s.frond.placed e.1 with
          | some o => if e.2.ctx = 0 then zeroKept e.2 else readKept s.frond o.frond e.2
          | none => zeroKept e.2
        (enterArea p.frond e.1 e.2 ws there acc.1, e.1 :: acc.2)
  reserveSlots { s with frond := { (s.frond.tasks.foldl move (s.frond, [])).1 with placed := pl } }

end Sys2Proof.Machine
end

