-- ==== Sys2Proof/Machine/Kernel.lean ====
section
/-!
DEFINITION. Arithmetic of the processing library, sample by sample (04): gain ramps, second-order sections and the
derivation of their words, FIR, delay, dynamics, generators, meters. Where the manual bounds a result without stating
it bit for bit (a level or gain within ±0.01 dB, R88), the model computes it exactly and rounds once (log entry 6).
-/
namespace Sys2Proof.Machine
open Sys2Proof

/-- Gains of blocks stand in units of 2^−20 (R88, R111; log entry 16 for trims and faders). -/
def gainOne : Int := 1048576

/-- Linear gain of a level in 0.01 dB, in units of 2^−20; the off level is zero. -/
def dbToGain (h : Int) : Int := if h ≤ -2147483648 then 0 else Fx.roundAway (Fx.dbGain h) (2 ^ 44)

/-- The gain of a ramp at its present position (R73). -/
def Ramp.now (r : Ramp) : Int :=
  if r.len ≤ r.pos then r.g1 else Fx.roundEven (r.g0 * r.len + (r.g1 - r.g0) * r.pos) r.len

/-- One sample later: the n-th sample after the boundary carries position n (R73). -/
def Ramp.step (r : Ramp) : Ramp := if r.pos < r.len then { r with pos := r.pos + 1 } else r

/-- A commit starts a ramp from the present gain to the target (R73). -/
def Ramp.retarget (r : Ramp) (g : Int) (len : Nat) : Ramp := { g0 := r.now, g1 := g, pos := 0, len := len }

/-- A sample times a gain in 2^−20, convergently rounded and saturated to Q1.23 (R72). -/
def mulGain (x g : Int) : Int := Fx.satQ23 (Fx.roundEven (x * g) gainOne)

/-- Did storing x·g saturate (R72). -/
def clips (x g : Int) : Bool := let v := Fx.roundEven (x * g) gainOne; Fx.satQ23 v != v

/-- Apply a ramped gain to samples: the samples, the ramp after them, and whether any clipped. -/
def rampGain : Ramp → List Int → List Int × Ramp × Bool
  | r, [] => ([], r, false)
  | r, x :: xs =>
    let r := r.step
    let (ys, r', c) := rampGain r xs
    (mulGain x r.now :: ys, r', c || clips x r.now)

/-- Saturate to the 56-bit accumulator (R192). -/
def sat56 (v : Int) : Int := Fx.sat 56 v

/-- One sample through a section, bit for bit as the library's kernel computes it (R80 and the section example of 08):
numerator products in Q9.47 with the words read as Q1.23, the shift s, the high and low words of the output history,
ADD24 of the low part, and the two stores with shift 2. -/
def Section.step (c : Section) (x : Int) : Int × Section :=
  let a0 := sat56 (2 * (c.b0 * x))
  let a0 := sat56 (a0 + 2 * (c.b1 * c.x1))
  let a0 := sat56 (a0 + 2 * (c.b2 * c.x2))
  let a0 := sat56 (a0 * 2 ^ c.shift)
  let a0 := sat56 (a0 - 2 * (c.a2 * (c.y2 / 2 ^ 24)))
  let a1 := -(2 * (c.a2 * (c.y2 % 2 ^ 24)))
  let a0 := sat56 (a0 - 2 * (c.a1 * (c.y1 / 2 ^ 24)))
  let a1 := a1 - 2 * (c.a1 * (c.y1 % 2 ^ 24))
  let a0 := sat56 (a0 + a1 / 2 ^ 24)
  let y := 4 * a0
  (Fx.satQ23 (Fx.roundEven y (2 ^ 24)), { c with x1 := x, x2 := c.x1, y1 := Fx.sat 48 y, y2 := c.y1 })

/-- The result of a sample before its stores: outside the range of either store it saturates (R72). -/
def Section.saturates (c : Section) (x : Int) : Bool :=
  let a0 := sat56 (2 * (c.b0 * x))
  let a0 := sat56 (a0 + 2 * (c.b1 * c.x1))
  let a0 := sat56 (a0 + 2 * (c.b2 * c.x2))
  let a0 := sat56 (a0 * 2 ^ c.shift)
  let a0 := sat56 (a0 - 2 * (c.a2 * (c.y2 / 2 ^ 24)))
  let a1 := -(2 * (c.a2 * (c.y2 % 2 ^ 24)))
  let a0 := sat56 (a0 - 2 * (c.a1 * (c.y1 / 2 ^ 24)))
  let a1 := a1 - 2 * (c.a1 * (c.y1 % 2 ^ 24))
  let y := 4 * sat56 (a0 + a1 / 2 ^ 24)
  decide (Fx.sat 48 y ≠ y) || decide (Fx.satQ23 (Fx.roundEven y (2 ^ 24)) ≠ Fx.roundEven y (2 ^ 24))

/-- Some sample through a section saturates. -/
def Section.clips : Section → List Int → Bool
  | _, [] => false
  | c, x :: xs => c.saturates x || Section.clips (c.step x).2 xs

/-- Samples through one section. -/
def Section.run : Section → List Int → List Int × Section
  | c, [] => ([], c)
  | c, x :: xs =>
    let (y, c1) := c.step x
    let (ys, c2) := Section.run c1 xs
    (y :: ys, c2)

/-- Some sample through a chain of sections saturates. -/
def clipSections : List Section → List Int → Bool
  | [], _ => false
  | c :: cs, xs => c.clips xs || clipSections cs (c.run xs).1

/-- Samples through a chain of sections. -/
def runSections : List Section → List Int → List Int × List Section
  | [], xs => (xs, [])
  | c :: cs, xs =>
    let (ys, c1) := c.run xs
    let (zs, cs1) := runSections cs ys
    (zs, c1 :: cs1)

/-- The section that passes its input unchanged: b0 = 1. -/
def Section.unit : Section := { b0 := 2097152 }

/-- New words into a section, its histories kept (R74, R87, R104). -/
def Section.load (c w : Section) : Section :=
  { w with x1 := c.x1, x2 := c.x2, y1 := c.y1, y2 := c.y2 }

/-- Put word sets into a chain: a section that stays keeps its history. -/
def loadSections : List Section → List Section → List Section
  | _, [] => []
  | [], w :: ws => w :: loadSections [] ws
  | c :: cs, w :: ws => c.load w :: loadSections cs ws

/-- Round a 64-fraction-bit value to a Q3.21 word, ranged to 24 bits. -/
def q321 (v : Int) : Int := Fx.sat 24 (Fx.roundAway v (2 ^ 43))

/-- The least shift s ≤ 3 for which every numerator value over 2^s is in the range of Q3.21 (R80). -/
def numShift (bs : List Int) : Nat :=
  let ok := fun s : Nat => bs.all fun b =>
    let w := Fx.roundAway b (2 ^ (43 + s)); decide (-8388608 ≤ w) && decide (w ≤ 8388607)
  if ok 0 then 0 else if ok 1 then 1 else if ok 2 then 2 else 3

/-- A section from its exact coefficients (64 fraction bits). -/
def mkSection (b0 b1 b2 a1 a2 : Int) : Section :=
  let s := numShift [b0, b1, b2]
  let q := fun b => Fx.sat 24 (Fx.roundAway b (2 ^ (43 + s)))
  { b0 := q b0, b1 := q b1, b2 := q b2, a1 := q321 a1, a2 := q321 a2, shift := s }

/-- A section whose b1 and b2 are multiples of the rounded b0 (R81). -/
def mkTied (b0 : Int) (m1 m2 : Int) (a1 a2 : Int) : Section :=
  let fits := fun s : Nat =>
    let w := Fx.roundAway b0 (2 ^ (43 + s))
    [w, m1 * w, m2 * w].all fun v => decide (-8388608 ≤ v) && decide (v ≤ 8388607)
  let s := if fits 0 then 0 else if fits 1 then 1 else if fits 2 then 2 else 3
  let w := Fx.roundAway b0 (2 ^ (43 + s))
  { b0 := Fx.sat 24 w, b1 := Fx.sat 24 (m1 * w), b2 := Fx.sat 24 (m2 * w),
    a1 := q321 a1, a2 := q321 a2, shift := s }

/-- k = tan(π·f/fs) for f in units of 0.01 Hz (R81). -/
def prewarp (f fs : Int) : Int := Fx.tan (Fx.roundAway (Fx.pi * f) (100 * fs))

/-- Second-order low-pass or high-pass section of R81; q with 64 fraction bits. -/
def section2 (high : Bool) (f fs q : Int) : Section :=
  let k := prewarp f fs
  let kk := Fx.mul k k
  let kq := Fx.div k q
  let norm := Fx.div Fx.one (Fx.one + kq + kk)
  let a1 := 2 * Fx.mul (kk - Fx.one) norm
  let a2 := Fx.mul (Fx.one - kq + kk) norm
  if high then mkTied norm (-2) 1 a1 a2 else mkTied (Fx.mul kk norm) 2 1 a1 a2

/-- First-order low-pass or high-pass section of R81. -/
def section1 (high : Bool) (f fs : Int) : Section :=
  let k := prewarp f fs
  let d := Fx.one + k
  let a1 := Fx.div (k - Fx.one) d
  if high then mkTied (Fx.div Fx.one d) (-1) 0 a1 0 else mkTied (Fx.div k d) 1 0 a1 0

/-- Q of the k-th second-order section of a Butterworth response of order n: 1/(2 sin((2k−1)π/(2n))) (R83). -/
def butterQ (n k : Nat) : Int :=
  Fx.div Fx.one (2 * Fx.sin (Fx.roundAway (Fx.pi * (2 * k - 1 : Nat)) (2 * n : Nat)))

/-- The sections of a Butterworth response of order n (R83). -/
def butterSections (high : Bool) (n : Nat) (f fs : Int) : List Section :=
  (if n % 2 = 1 then [section1 high f fs] else []) ++
  (List.range (n / 2)).map fun i => section2 high f fs (butterQ n (i + 1))

/-- The sections of a Linkwitz-Riley response of order n (R83). -/
def linkwitzSections (high : Bool) (n : Nat) (f fs : Int) : List Section :=
  if n = 2 then [section2 high f fs (Fx.one / 2)]
  else let h := butterSections high (n / 2) f fs; h ++ h

/-- A PEQ band of type t at f (0.01 Hz), gain g (0.01 dB) and Q (0.01), each in units of 1/sc (R84). -/
def peqSection (t : Nat) (f fs g qc sc : Int) : Section :=
  let q := Fx.ratio qc (100 * sc)
  let fs := fs * sc
  if t = 6 then section2 true f fs q
  else if t = 7 then section2 false f fs q
  else
    let w := Fx.roundAway (2 * Fx.pi * f) (100 * fs)
    let c := Fx.cos w
    let al := Fx.div (Fx.sin w) (2 * q)
    let a := Fx.pow10 (Fx.ratio g (4000 * sc))
    let o := Fx.one
    let fin := fun b0 b1 b2 d0 d1 d2 =>
      mkSection (Fx.div b0 d0) (Fx.div b1 d0) (Fx.div b2 d0) (Fx.div d1 d0) (Fx.div d2 d0)
    if t = 0 then
      fin (o + Fx.mul al a) (-2 * c) (o - Fx.mul al a) (o + Fx.div al a) (-2 * c) (o - Fx.div al a)
    else if t = 1 then
      let r := 2 * Fx.mul (Fx.sqrt a) al
      let p := a + o
      let m := a - o
      fin (Fx.mul a (p - Fx.mul m c + r)) (Fx.mul a (2 * (m - Fx.mul p c))) (Fx.mul a (p - Fx.mul m c - r))
        (p + Fx.mul m c + r) (-2 * (m + Fx.mul p c)) (p + Fx.mul m c - r)
    else if t = 2 then
      let r := 2 * Fx.mul (Fx.sqrt a) al
      let p := a + o
      let m := a - o
      fin (Fx.mul a (p + Fx.mul m c + r)) (Fx.mul a (-2 * (m + Fx.mul p c))) (Fx.mul a (p + Fx.mul m c - r))
        (p - Fx.mul m c + r) (2 * (m - Fx.mul p c)) (p - Fx.mul m c - r)
    else if t = 3 then fin o (-2 * c) o (o + al) (-2 * c) (o - al)
    else if t = 4 then fin al 0 (-al) (o + al) (-2 * c) (o - al)
    else fin (o - al) (-2 * c) (o + al) (o + al) (-2 * c) (o - al)

/-- An all-pass section at f with the given Q, for a crossover's matched ways (R85). -/
def allPass (f fs q : Int) : Section :=
  let w := Fx.roundAway (2 * Fx.pi * f) (100 * fs)
  let c := Fx.cos w
  let al := Fx.div (Fx.sin w) (2 * q)
  let d0 := Fx.one + al
  mkSection (Fx.div (Fx.one - al) d0) (Fx.div (-2 * c) d0) Fx.one (Fx.div (-2 * c) d0) (Fx.div (Fx.one - al) d0)

/-- Poles strictly inside the unit circle, on Q3.21 words (R82). -/
def stable (a1 a2 : Int) : Bool := decide (a2.natAbs < 2097152) && decide ((a1.natAbs : Int) < 2097152 + a2)

/-- Sum of products of taps and a history, tap by tap. -/
def dot : List Int → List Int → Int
  | t :: ts, x :: xs => t * x + dot ts xs
  | _, _ => 0

/-- Products of taps and a history, accumulated tap by tap in Q9.47 (R86, R192). -/
def dotAcc : List Int → List Int → Int → Int
  | t :: ts, x :: xs, a => dotAcc ts xs (sat56 (a + 2 * (t * x)))
  | _, _, a => a

/-- A FIR, or the last partition of a long one, over samples from position i on: the output in Q9.47 before the store, the
taps from `off` on with the partial sums of the partitions before (R86, R87); history newest first, kept at n samples. -/
def firRun (taps : List Int) (off n : Nat) (parts : List (List Int)) : Nat → List Int → List Int → List Int × List Int
  | _, h, [] => ([], h)
  | i, h, x :: xs =>
    let h := (x :: h).take n
    let v := parts.foldl (fun a p => sat56 (a + p.getD i 0)) (dotAcc (taps.drop off) (h.drop off) 0)
    let (ys, h') := firRun taps off n parts (i + 1) h xs
    (v :: ys, h')

/-- The partial sums of an earlier partition, taps `off` to `off` + 1,023, each stored in double precision, and whether one
saturates (R87). -/
def firPartial (taps : List Int) (off n : Nat) : List Int → List Int → List Int × Bool
  | _, [] => ([], false)
  | h, x :: xs =>
    let h := (x :: h).take n
    let v := dotAcc ((taps.drop off).take 1024) (h.drop off) 0
    let (ys, c) := firPartial taps off n h xs
    (Fx.sat 48 v :: ys, c || decide (Fx.sat 48 v ≠ v))

/-- Store a Q9.47 value as Q1.23 after a left shift (R86, R72). -/
def storeQ947 (v : Int) (shift : Nat) : Int := Fx.satQ23 (Fx.roundEven (v * 2 ^ shift) (2 ^ 24))

/-- The sample of a line `d` samples back, zero before its start. -/
def tapOf (line : List Int) (d : Nat) : Int := line.getD d 0

/-- One sample of a crossfade between two values at position n of L (R56): g = n/L at 24 fraction bits. -/
def mixXfade (old new : Int) (n len : Nat) : Int :=
  if len ≤ n then new
  else
    let g := Fx.roundAway ((n : Int) * 2 ^ 24) len
    Fx.satQ23 (Fx.roundEven (old * (2 ^ 24 - g) + new * g) (2 ^ 24))

/-- Delay over samples from position p on, with the change crossfade of R78. At a position of `bad` both reads of the pool
word failed: the last output sample is repeated (R79). -/
def delayRun (keep : Nat) (bad : List Nat) : Nat → BlkState → List Int → List Int × BlkState
  | _, b, [] => ([], b)
  | p, b, x :: xs =>
    let line := (x :: b.line).take (keep + 1)
    let b := { b with line := line }
    let (y, b) :=
      match b.xf with
      | none => (tapOf line b.tap, b)
      | some (old, n, len) =>
        let y := mixXfade (tapOf line old) (tapOf line b.tap) n len
        if n + 1 < len then (y, { b with xf := some (old, n + 1, len) })
        else match b.waitTap with
          | none => (y, { b with xf := none })
          | some (d, l) => (y, { b with xf := if l = 0 then none else some (b.tap, 0, l), tap := d, waitTap := none })
    let y := if bad.contains p then b.last else y
    let (ys, b) := delayRun keep bad (p + 1) { b with last := y } xs
    (y :: ys, b)

/-- The delay of a commit (R78): a crossfade starts, or waits for the running one. -/
def delaySet (b : BlkState) (d len : Nat) : BlkState :=
  match b.xf with
  | some _ => if d = b.tap then { b with waitTap := none } else { b with waitTap := some (d, len) }
  | none =>
    if d = b.tap then b
    else { b with xf := if len = 0 then none else some (b.tap, 0, len), tap := d }

/-- Level of a magnitude in 1/65,536 dB: 20·log10(|x|/2^23), and a floor of −200 dB for zero. -/
def levelOf (mag : Int) : Int :=
  if mag ≤ 0 then -13107200
  else Fx.roundAway (20 * Fx.log10 (Fx.ratio mag 8388608) * 65536) Fx.one

/-- Level of a mean square with 60 fraction bits, relative to a full-scale sine: 10·log10(2·ms) (R88). -/
def levelOfMs (ms : Int) : Int :=
  if ms ≤ 0 then -13107200
  else Fx.roundAway (10 * Fx.log10 (2 * ms * 16) * 65536) Fx.one

/-- Linear gain in 2^−20 of a gain in 1/65,536 dB (R88). -/
def gainOf (e : Int) : Int := Fx.roundAway (Fx.pow10 (Fx.ratio e (65536 * 20))) (2 ^ 44)

/-- One-pole coefficient e^(−1/(τ·fs)) with 64 fraction bits, τ in µs (R88). -/
def poleOf (us fs : Int) : Int := if us ≤ 0 then 0 else Fx.exp (-(Fx.ratio 1000000 (us * fs)))

/-- A one-pole step from v to target with a coefficient. -/
def onePole (v target coef : Int) : Int := target + Fx.roundAway ((v - target) * coef) Fx.one

/-- The numbers of a dynamics block in force: levels in 1/65,536 dB, times in µs (R89). -/
structure DynParams where
  kind : BlockKind
  thr : Int
  ratio : Int
  range : Int
  knee : Int
  hyst : Int
  attack : Int
  holdSmp : Nat
  release : Int
  makeup : Int
  look : Nat
  rms : Bool
  rmsUs : Int
  keyFreq : Int
  deriving DecidableEq, Repr

/-- Static gain in 1/65,536 dB at level l (R89). -/
def staticGain (p : DynParams) (l : Int) : Int :=
  match p.kind with
  | .compressor =>
    -- slope (1/q − 1) with q in 0.01: (100 − q)/q
    if 2 * l < 2 * p.thr - p.knee then 0
    else if 2 * p.thr + p.knee < 2 * l ∨ p.knee = 0 then Fx.roundAway ((100 - p.ratio) * (l - p.thr)) p.ratio
    else Fx.roundAway ((100 - p.ratio) * (2 * (l - p.thr) + p.knee) ^ 2) (8 * p.knee * p.ratio)
  | .expander =>
    let g :=
      if 2 * p.thr + p.knee < 2 * l then 0
      else if 2 * l < 2 * p.thr - p.knee ∨ p.knee = 0 then Fx.roundAway ((100 - p.ratio) * (p.thr - l)) 100
      else Fx.roundAway ((100 - p.ratio) * (2 * (p.thr - l) + p.knee) ^ 2) (8 * p.knee * 100)
    if g < -p.range then -p.range else g
  | .limiter =>
    -- 1/q = 0 and the knee runs from T − W to T: the compressor's law about its middle T − W/2 (DEDUCED, entry 17)
    if p.thr < l then Fx.roundAway (2 * p.thr - p.knee - 2 * l) 2
    else if l < p.thr - p.knee ∨ p.knee = 0 then 0
    else -(Fx.roundAway ((l - p.thr + p.knee) ^ 2) (2 * p.knee))
  | _ => 0

/-- The detector of one sample: level in 1/65,536 dB and the state after it (R88 steps 1 and 2). -/
def detect (p : DynParams) (fs : Int) (d : DynState) (x : Int) : Int × DynState :=
  let (k, d) := if p.keyFreq = 0 then (x, d)
    else let (y, c) := d.key.step x; (y, { d with key := c, clip := d.clip || d.key.saturates x })
  if p.rms then
    let sq := k * k * 2 ^ 14
    let ms := onePole d.meanSq sq (poleOf p.rmsUs fs)
    (levelOfMs ms, { d with meanSq := ms })
  else (levelOf (k.natAbs : Int), d)

/-- The static gain with the gate's state (R89). -/
def gateGain (p : DynParams) (d : DynState) (l : Int) : Int × DynState :=
  if p.kind = .gate then
    if p.thr < l then (0, { d with gateOpen := true, below := 0 })
    else if d.gateOpen then
      if l < p.thr - p.hyst then
        if p.holdSmp ≤ d.below + 1 then (-p.range, { d with gateOpen := false, below := 0 })
        else (0, { d with below := d.below + 1 })
      else (0, { d with below := 0 })
    else (-p.range, d)
  else (staticGain p l, d)

/-- Smoothing of R88 step 4: attack while the reduction grows, release while it falls. -/
def smoothGain (p : DynParams) (fs : Int) (now g : Int) : Int :=
  if g < now then (if p.attack ≤ 0 then g else onePole now g (poleOf p.attack fs)) else onePole now g (poleOf p.release fs)

/-- The threshold as a word: the largest magnitude a limiter lets out (R90). -/
def thrWord (thr : Int) : Int := Fx.clamp 0 8388607 (Fx.roundAway (gainOf thr * 8388608) gainOne)

/-- Store of a limiter: a magnitude above the threshold word is the threshold word with the sample's sign (R90). -/
def limitStore (tw x g : Int) : Int :=
  let y := mulGain x g
  if tw < y then tw else if y < -tw then -tw else y

/-- A raised-cosine factor in [0, 1] with 64 fraction bits: (1 − cos(π·i/n))/2 (R90). -/
def raisedCos (i n : Nat) : Int := (Fx.one - Fx.cos (Fx.roundAway (Fx.pi * i) n)) / 2

/-- The gain on the raised-cosine paths towards every need inside a look-ahead of n samples, newest first: the path of the
need met `a` samples ago began at the gain of that sample and has come a of n steps (R90); `e` where no path lies lower. -/
def lookGain (e : Int) (n : Nat) : Nat → List Int → List Int → Int
  | a, g :: gs, v :: vs =>
    let here := if g < v then v + Fx.roundAway ((g - v) * raisedCos (min a n) n) Fx.one else e
    min here (lookGain e n (a + 1) gs vs)
  | _, _, _ => e

/-- One sample of one dynamics channel at a detector level: the output and the state (R88 to R90). -/
def dynSample (p : DynParams) (fs : Int) (d : DynState) (l x : Int) : Int × DynState :=
  let (g, d) := gateGain p d l
  let note := fun (d : DynState) (e : Int) =>
    let gr := Fx.roundAway (-e * 100) 65536
    { d with gain := e, gr := gr, maxGr := max d.maxGr gr.toNat }
  if p.kind = .limiter then
    let line := (x :: d.line).take 257
    if p.look = 0 then
      let e := if g < d.gain then g else onePole d.gain g (poleOf p.release fs)
      (limitStore (thrWord p.thr) x (gainOf e), note { d with line := line, need := [], start := [] } e)
    else
      -- the needs of the samples in the delay, the one that leaves it included
      let need := (g :: d.need).take (p.look + 1)
      let start := (d.gain :: d.start).take (p.look + 1)
      let low := need.foldl min 0
      let e0 := if d.gain < low then onePole d.gain low (poleOf p.release fs) else d.gain
      let e := lookGain e0 p.look 0 need start
      let out := tapOf line p.look
      (limitStore (thrWord p.thr) out (gainOf e), note { d with line := line, need := need, start := start } e)
  else
    let e := smoothGain p fs d.gain g
    let g := gainOf (e + p.makeup)
    (mulGain x g, note { d with clip := d.clip || clips x g } e)

/-- One 32-bit xorshift step (R97). -/
def xorshift (x : Nat) : Nat :=
  let v : W32 := BitVec.ofNat 32 x
  let v := v ^^^ (v <<< 13)
  let v := v ^^^ (v >>> 17)
  let v := v ^^^ (v <<< 5)
  v.toNat

/-- A sine of a 32-bit phase and a linear amplitude in 2^−20, in Q1.23. -/
def sinePhase (phase : Nat) (amp : Int) : Int :=
  let s := Fx.sin (Fx.roundAway (2 * Fx.pi * phase) (2 ^ 32))
  Fx.satQ23 (Fx.roundEven (s * amp * 8388608) (Fx.one * gainOne))

/-- Phase increment of a frequency in 0.01 Hz: f·2^32/fs rounded (R97). -/
def phaseInc (f fs : Int) : Nat := (Fx.roundAway (f * 2 ^ 32) (100 * fs)).toNat

/-- A level in 0.01 dB as the s16 of a meter: −32,768 below −150 dBFS (R98). -/
def meterLevel (e : Int) : Int :=
  let h := Fx.roundAway (e * 100) 65536
  if h < -15000 then -32768 else Fx.clamp (-32767) 32767 h

end Sys2Proof.Machine
end

