-- ==== Sys2Proof/Machine/NetOps.lean ====
section
/-!
DEFINITION. The media network at work (10): limits of streams (R262 to R265), gate lists (R254 to R257), packets out
(R267, R268), packets in (R259 to R261, R269 to R273), membership (R275), identities (R277, R278).
-/
namespace Sys2Proof.Machine
open Sys2Proof

def netOf (s : State) (n : Nat) : NetPort := Tbl.getD s.net.port n {}
def putNet (n : Nat) (x : NetPort) (s : State) : State := { s with net := { s.net with port := Tbl.put s.net.port n x } }

/-- Count one of the counters of NET.STATUS (R486): 0 frame, 1 fragment, 2 PAUSE, 3 VLAN, 4 IP, 5 RTP, 6 length,
7 NO_MATCH, 8 TX_LATE, 9 control drops. -/
def countNet (n i : Nat) (s : State) : State :=
  let x := netOf s n
  putNet n { x with counters := x.counters.set i ((x.counters.getD i 0 + 1) % 2 ^ 32) } s

/-! ### Streams: sizes and limits (R262 to R266) -/

/-- Samples of a packet by packet time code (R262). -/
def packetSamples (fam ptime : Nat) : Nat := [6, 12, 16, 48, 192].getD ptime 0 * (if fam = 0 then 1 else 2)

/-- Payload bytes of a stream (R263). -/
def payloadBytes (fam : Nat) (c : StreamCfg) : Nat := packetSamples fam c.ptime * c.channels * (2 + c.enc)

/-- Link rate of a port in Mb/s as configured (R247, R264). -/
def portMbps (x : NetPort) : Nat :=
  match x.cfg.speed with
  | 0 => 10000
  | 1 => 25000
  | 2 => 1000
  | 3 => 1000
  | 4 => 100
  | _ => 10

/-- Channels that a port carries each way (R264). -/
def portChannels (fam : Nat) (x : NetPort) : Nat :=
  let c := if portMbps x = 25000 then 8192 else if portMbps x = 10000 then 4096 else if portMbps x = 1000 then 256 else 0
  if fam = 0 then c else if fam = 1 then c / 2 else 0

/-- Channels that streams use on a port (R264). -/
def channelsOn (t : List StreamCfg) (n : Nat) : Nat :=
  (t.filter fun c => c.paths.any fun p => p.port = n).foldl (fun a c => a + c.channels) 0

/-- Media transmit load of a port in bit/s, rounded up (R265). -/
def txLoad (fs : Int) (fam : Nat) (t : List StreamCfg) (n : Nat) : Nat :=
  t.foldl (fun a c =>
    a + (c.paths.filter fun p => p.port = n).length *
      Fx.ceilDiv ((payloadBytes fam c + 82) * 8 * fs.toNat) (max 1 (packetSamples fam c.ptime))) 0

/-- ns of a cycle for which queue 6 is open (R257). -/
def openNs (g : GateList) : Nat :=
  let sum := g.entries.foldl (fun a e => a + e.interval) 0
  let tail := match g.entries.getLast? with | some e => if Fx.bit e.states 6 then g.cycle - sum else 0 | none => g.cycle
  (g.entries.filter fun e => Fx.bit e.states 6).foldl (fun a e => a + e.interval) 0 + tail

/-- Longest time for which queue 6 stays closed over two turns of the cycle (R257). -/
def longestClosed (g : GateList) : Nat :=
  let sum := g.entries.foldl (fun a e => a + e.interval) 0
  let last := (g.entries.getLast?).map fun e => (e.states, g.cycle - sum)
  let one := (g.entries.map fun e => (e.states, e.interval)) ++ last.toList
  ((one ++ one).foldl (fun (run, most) e =>
    if Fx.bit e.1 6 then (0, most) else (run + e.2, max most (run + e.2))) (0, 0)).2

/-- Shortest packet time in ns of the transmit streams on a port. -/
def shortestPacket (fs : Int) (fam : Nat) (t : List StreamCfg) (n : Nat) : Option Nat :=
  (t.filter fun c => c.paths.any fun p => p.port = n).foldl (fun m c =>
    let d := packetSamples fam c.ptime * 1000000000 / fs.toNat
    some (match m with | some v => min v d | none => d)) none

/-- The figure that a port's transmit load fails by (R257, R265): the load in kb/s past 0.80 × rate × open fraction, or
the ns for which queue 6 stays closed past half the shortest packet time. -/
def loadFigure (s : State) (t : List StreamCfg) (n : Nat) (g : Option GateList) : Option Nat :=
  let x := netOf s n
  let load := txLoad (fsNow s) (fam s) t n
  let kbps := Fx.ceilDiv load 1000
  match g with
  | none => if load * 10 ≤ portMbps x * 8000000 then none else some kbps
  | some g =>
    if portMbps x * 8000000 * openNs g < load * 10 * g.cycle then some kbps
    else match shortestPacket (fsNow s) (fam s) t n with
      | some d => if d < 2 * longestClosed g then some (longestClosed g) else none
      | none => none

/-- The refusal that names a figure: NO_RESOURCE with it as u32 command data (R257; log entry 37). -/
def figureRefused (v : Nat) : Reply := { status := St.noResource, data := u32 v }

/-- Two runs of channels overlap (R263). -/
def runsOverlap (a b : StreamCfg) : Bool := decide (a.first < b.first + b.channels) && decide (b.first < a.first + a.channels)

/-- O of a receive stream in samples (R269). -/
def linkSamples (s : State) (c : StreamCfg) : Nat := Fx.ceilDiv (c.linkUs * (fsNow s).toNat) 1000000
/-- D of a receive stream in samples (R269). -/
def bufferDepth (s : State) (c : StreamCfg) : Nat := linkSamples s c + 2 * packetSamples (fam s) c.ptime + 2 * s.sys.b
/-- Space of its buffer in bytes (R269). -/
def bufferBytes (s : State) (c : StreamCfg) : Nat := Fx.ceilDiv (bufferDepth s c * 4 * c.channels) 1024 * 1024

def txCfgs (s : State) : List StreamCfg := s.net.tx.map (·.2.cfg)
def rxCfgs (s : State) : List StreamCfg := s.net.rx.map (·.2.cfg)

/-- Check a stream definition (R262 to R265, R269, R257); the refusal, if any. `table` says that a receive path's key or
place is taken. -/
def streamRefused (s : State) (rx : Bool) (id : Nat) (c : StreamCfg) : Option Reply :=
  let others := if rx then (Tbl.erase s.net.rx id).map (·.2.cfg) else (Tbl.erase s.net.tx id).map (·.2.cfg)
  let all := others ++ [c]
  let f := fam s
  let ports := [0, 1, 2, 3, 4]
  if 1024 ≤ id then some (refuse St.noResource)
  else if f = 2 then some (refuse St.noResource)
  else if 1 < c.enc ∨ 4 < c.ptime ∨ c.ptype < 96 ∨ 127 < c.ptype then some (refuse St.conflict)
  else if c.channels = 0 ∨ 64 < c.channels ∨ 1440 < payloadBytes f c then some (refuse St.conflict)
  else if c.paths = [] ∨ 2 < c.paths.length ∨ c.paths.any (fun p => 5 ≤ p.port ∨ p.udp = 0 ∨ 65536 ≤ p.udp) then some (refuse St.conflict)
  else if netChannels f < c.first + c.channels then some (refuse St.noResource)
  else if others.any (runsOverlap c) then some (refuse St.conflict)
  else if 1024 < all.length ∨ netChannels f < all.foldl (fun a x => a + x.channels) 0 then some (refuse St.noResource)
  else if ports.any fun n => decide (portChannels f (netOf s n) < channelsOn all n) then some (refuse St.noResource)
  else if !rx && ports.any fun n => c.paths.any (fun p => p.port = n) && (loadFigure s all n (netOf s n).gates).isSome then
    (ports.findSome? fun n => if c.paths.any (fun p => p.port = n) then loadFigure s all n (netOf s n).gates else none).map figureRefused
  else if rx && decide (s.sys.split.getD 1 16 * 1048576 < all.foldl (fun a x => a + bufferBytes s x) 0) then
    some (refuse St.noResource (reason 0x06 1))
  else if rx && (s.net.table.any fun e => e.2.valid && decide (e.2.stream ≠ id) &&
      c.paths.any fun p => decide (p.port = e.2.port ∧ p.dst = e.2.dst ∧ p.udp = e.2.udp ∧ p.src = e.2.src)) then some (refuse St.conflict)
  else if rx && decide (2 ≤ c.paths.length ∧ c.paths.eraseDups.length < c.paths.length) then some (refuse St.conflict)
  else none

/-- The level of a stream at a rate code (R266): 0 A, 1 B, 2 C, 3 AX, 4 BX, 5 CX, 6 AES67 only. The formats of every level are
at 48 and 96 kHz. -/
def streamLevel (rate : Nat) (c : StreamCfg) : Nat :=
  let ch := c.channels
  if rate = 0 ∨ rate = 2 then 6
  else if rate = 1 then
    if c.ptime = 3 ∧ ch ≤ 8 then 0
    else if c.ptime = 0 ∧ ch ≤ 8 then 1
    else if c.ptime = 0 then 2
    else 6
  else
    if c.ptime = 3 ∧ ch ≤ 4 then 3
    else if c.ptime = 0 ∧ ch ≤ 8 then 4
    else if c.ptime = 0 ∧ ch ≤ 32 then 5
    else 6

/-! ### Stream table (R260) -/

/-- Lowest free entries of the stream table. -/
def freeEntry (t : Tbl TableEntry) : Option Nat := (List.range 2048).find? fun i => match Tbl.find t i with | some e => !e.valid | none => true

/-- Drop the entries of a stream, then enter its paths. -/
def enterPaths (id : Nat) (paths : List PathCfg) (t : Tbl TableEntry) : Tbl TableEntry :=
  let t := Tbl.keep (fun _ e => !e.valid || e.stream != id) t
  ((paths.zip (List.range paths.length))).foldl (fun t p => match freeEntry t with
    | some i => Tbl.put t i { valid := true, port := p.1.port, dst := p.1.dst, udp := p.1.udp, src := p.1.src, stream := id, path := p.2 }
    | none => t) t

/-! ### Network time and the media clock (R267) -/

/-- Media clock count at a full time in 2^−16 ns: ⌊t × f_s⌋ (R267). -/
def mediaCount (s : State) (t16 : Int) : Nat := (t16 * fsNow s / 65536000000000).toNat

/-- The count of a grid instant of the frame grid: the nearest one, since grid instants of an aligned engine lie within
the alignment error of media-clock samples (R144, R289). -/
def gridMediaCount (s : State) (j : Nat) : Nat :=
  (Fx.roundAway ((s.clk.full16 + (gridCount s j - s.clk.count)) * fsNow s) 65536000000000).toNat

/-- Present media clock count, `aheadNs` from now. -/
def mediaNow (s : State) (aheadNs : Nat) : Nat := mediaCount s (s.clk.full16 + aheadNs * 65536)

/-! ### Identities (R251, R277, R278) -/

/-- A paired engine holds its own identity: the active engine always, a standby in step (R277, R323). -/
def holdsOwn (s : State) : Bool := s.pair.ownId && (s.pair.activeOut || decide (s.pair.state = 4))

/-- Side of a port: red for even numbers, blue for odd ones (R251). -/
def isBlue (n : Nat) : Bool := decide (n % 2 = 1)

/-- The side of the engine's own identity: the preferred unit holds red (R251). -/
def ownBlue (s : State) : Bool := !s.sys.pairPref

/-- The engine sends media on a port (R251, R277). On NET4, which has no side, the active engine of a pair sends. -/
def sendsOn (s : State) (n : Nat) : Bool :=
  if !s.sys.pairEn then true
  else if n = 4 then s.pair.activeOut
  else if isBlue n = ownBlue s then holdsOwn s
  else (netOf s n).claimed

/-- The address from which media leaves a port: the partner's port address on a claimed side (R251). -/
def mediaAddr (s : State) (n : Nat) : Nat × Nat :=
  if s.sys.pairEn ∧ (netOf s n).claimed then
    match s.pair.partner with
    | some h => (h.addrs.getD n 0 / 2 ^ 32, h.addrs.getD n 0 % 2 ^ 32)
    | none => (portMac n, (netOf s n).cfg.ip)
  else (portMac n, (netOf s n).cfg.ip)

/-- IPv4 addresses that the engine holds on a port, with their MAC addresses. -/
def heldAddrs (s : State) (n : Nat) : List (Nat × Nat) :=
  let own := (portMac n, (netOf s n).cfg.ip)
  if mediaAddr s n = own then [own] else [own, mediaAddr s n]

/-! ### Sending (R252, R253, R256, R268) -/

/-- End in ns of the full time of a list's entry that starts at a time. -/
def entryEnd (g : GateList) (i t : Nat) : Nat :=
  match g.entries[i]? with
  | some e =>
    if i + 1 = g.entries.length then
      t + e.interval + (g.cycle - g.entries.foldl (fun a e => a + e.interval) 0)
    else t + e.interval
  | none => t + g.cycle

/-- When a queue that is open in entry i, which ends at `e`, closes next, over that many entries; none where it never
does. -/
def closesAt (g : GateList) (q : Nat) : Nat → Nat → Nat → Option Nat
  | 0, _, _ => none
  | k + 1, i, e =>
    let j := if i + 1 < g.entries.length then i + 1 else 0
    match g.entries[j]? with
    | some n => if Fx.bit n.states q then closesAt g q k j (entryEnd g j e) else some e
    | none => none

/-- The time by which an express frame of a queue has to have left: the next closing under the list in force, or the start of
one that begins with the queue closed (R255, R256). -/
def closing (x : NetPort) (q : Nat) : Option Nat :=
  let now := x.gates.bind fun g => closesAt g q g.entries.length x.gateIndex x.gateEnd
  let new := x.nextGates.bind fun g => match g.entries.head? with
    | some e => if Fx.bit e.states q then none else some g.start
    | none => none
  match now, new with
  | some a, some b => some (min a b)
  | a, b => a.or b

/-- A queue of a port is open. -/
def queueOpen (x : NetPort) (q : Nat) : Bool :=
  match x.gates with
  | none => true
  | some g => match g.entries[x.gateIndex]? with
    | some e => Fx.bit e.states q
    | none => true

/-- A frame leaves a port whose link is up. -/
def putFrame (n : Nat) (bs : List Byte) (s : State) : State :=
  if (netOf s n).up then { s with out := s.out ++ [.netFrame n bs] } else s

/-- Time in ns that a frame takes on the link with its preamble and the inter-frame gap, 20 bytes. -/
def wireNs (n : Nat) (x : NetPort) (len : Nat) : Nat :=
  Fx.ceilDiv ((len + 20) * 8000) (max 1 (if n = 4 then x.rate else portMbps x))

/-- A frame of a queue may start (R254, R256): a preemptible one while preemption is active whenever its gate is open and the
MAC is not held; any other when it leaves before its gate closes. -/
def mayLeave (s : State) (n q len : Nat) : Bool :=
  let x := netOf s n
  queueOpen x q &&
  (if q < 6 ∧ x.preState = 2 then !x.held
   else match closing x q with
     | some t => decide (s.clk.full + wireNs n x len ≤ t)
     | none => true)

/-- The frames of a queue that may start leave in order; the first that may not holds those behind it. -/
def flushQueue (n q : Nat) (s : State) : State :=
  ((netOf s n).queue.foldl (fun (acc : State × Bool) f =>
    let (s, stop) := acc
    if f.1 ≠ q ∨ stop then acc
    else if mayLeave s n q f.2.length then
      let x := netOf s n
      (putFrame n f.2 (putNet n { x with queue := x.queue.erase f } s), false)
    else (s, true)) (s, false)).1

/-- The frame of a packet on one path of a stream (R267, R268). -/
def mediaFrame (s : State) (c : StreamCfg) (p : PathCfg) (k : Packet) : List Byte :=
  let (mac, ip) := mediaAddr s p.port
  let rtp := rtpPacket c.ptype k.seq k.stamp k.ssrc k.payload
  etherFrame (if isMulticast p.dst then groupMac p.dst else Config.neighbourMac p.dst) mac (netOf s p.port).cfg.vlan
    (classPcp s 1) 0x0800
    (ipPacket ip p.dst 17 (classDscp s 1) (netOf s p.port).cfg.ttl [] (udpPacket ip p.dst p.udp p.udp rtp))

/-- Send what waits in queue 6 of a port, in ascending stream number, as far as the gate lets it (R252, R256, R268). -/
def flushMedia (n : Nat) (s : State) : State :=
  s.net.tx.foldl (fun s (id, y) =>
    let x : TxStream := Tbl.getD s.net.tx id y
    (x.queued.filter fun q => match x.cfg.paths[q.1]? with | some p => decide (p.port = n) | none => false).foldl (fun s q =>
      match x.cfg.paths[q.1]? with
      | none => s
      | some p =>
        let f := mediaFrame s x.cfg p q.2
        if !mayLeave s n 6 f.length then s
        else
          let x : TxStream := Tbl.getD s.net.tx id x
          let x := { x with queued := Tbl.erase x.queued q.1, packets := x.packets.set q.1 ((x.packets.getD q.1 0 + 1) % 2 ^ 32) }
          putFrame n f { s with net := { s.net with tx := Tbl.put s.net.tx id x } }) s) s

/-- A port serves its queues, the highest first (R252). -/
def flushPort (n : Nat) (s : State) : State :=
  [7, 6, 5, 4, 3, 2, 1, 0].foldl (fun s q => if q = 6 then flushMedia n s else flushQueue n q s) s

/-- A frame enters a queue of a port whose link is up and leaves when its turn comes (R252; log entry 33). -/
def sendQueued (n q : Nat) (bs : List Byte) (s : State) : State :=
  if (netOf s n).up then flushPort n (putNet n { netOf s n with queue := (netOf s n).queue ++ [(q, bs)] } s) else s

/-- A frame of the control class, which the expert level can move to another queue (R252). -/
def sendControl (n dst src type : Nat) (body : List Byte) (s : State) : State :=
  sendQueued n s.net.ctrlQueue (etherFrame dst src (netOf s n).cfg.vlan (classPcp s 2) type body) s

/-- An IGMP message from a port's own address, with the router alert option (R275). -/
def sendIgmp (n dst : Nat) (body : List Byte) (s : State) : State :=
  sendControl n (groupMac dst) (portMac n) 0x0800
    (ipPacket (netOf s n).cfg.ip dst 2 (classDscp s 2) 1 [0x94, 0x04, 0x00, 0x00] body) s

/-- The records that a change of a group's filter calls for (R275, RFC 3376): none is no membership, an empty list is any
source. Types 3 TO_IN, 4 TO_EX, 5 ALLOW, 6 BLOCK. -/
def filterRecords (old new : Option (List Nat)) : List (Nat × List Nat) :=
  if old = new then []
  else if new = some [] then [(4, [])]
  else if old = some [] then [(3, new.getD [])]
  else
    let a := old.getD []
    let b := new.getD []
    let add := b.filter fun x => !a.contains x
    let del := a.filter fun x => !b.contains x
    (if add = [] then [] else [(5, add)]) ++ (if del = [] then [] else [(6, del)])

/-- The compatibility version of a port: an older querier counts for 260 s after its latest query (RFC 3376). -/
def igmpVersion (s : State) (x : NetPort) : Nat :=
  if x.igmpVer < 3 ∧ s.clk.raw ≤ x.igmpAt + msTicks 260000 then x.igmpVer else 3

/-- Report a change of a group's filter on a port, in its compatibility mode (R275). -/
def reportChange (n group : Nat) (old new : Option (List Nat)) (s : State) : State :=
  let v := igmpVersion s (netOf s n)
  if v = 3 then (filterRecords old new).foldl (fun s r => sendIgmp n 0xE0000016 (igmp3Report r.1 group r.2) s) s
  else if old = none ∧ new ≠ none then sendIgmp n group (igmpOld (if v = 2 then 0x16 else 0x12) group) s
  else if old ≠ none ∧ new = none ∧ v = 2 then sendIgmp n 0xE0000002 (igmpOld 0x17 group) s
  else s

/-- Report the present filter of a group that a port has joined, for the sources asked, none for all (R275). -/
def reportPresent (n group : Nat) (asked : List Nat) (s : State) : State :=
  match Tbl.find (netOf s n).groups group with
  | none => s
  | some f =>
    let v := igmpVersion s (netOf s n)
    if v ≠ 3 then sendIgmp n group (igmpOld (if v = 2 then 0x16 else 0x12) group) s
    else if asked = [] then sendIgmp n 0xE0000016 (igmp3Report (if f = [] then 2 else 1) group f) s
    else
      let w := if f = [] then asked else asked.filter fun x => f.contains x
      if w = [] then s else sendIgmp n 0xE0000016 (igmp3Report 1 group w) s

/-- The groups that the receive paths of a port need, with their sources (R275). -/
def wantedGroups (s : State) (n : Nat) : Tbl (List Nat) :=
  (s.net.table.filter fun e => e.2.valid && decide (e.2.port = n) && isMulticast e.2.dst).foldl (fun t e =>
    match Tbl.find t e.2.dst with
    | none => Tbl.put t e.2.dst (if e.2.src = 0 then [] else [e.2.src])
    | some [] => t
    | some l => Tbl.put t e.2.dst (if e.2.src = 0 then [] else if l.contains e.2.src then l else l ++ [e.2.src])) []

/-- Join and leave groups as the stream table now asks (R275): the first of two unsolicited reports. -/
def updateGroups (s : State) : State :=
  (List.range 5).foldl (fun s n =>
    let x := netOf s n
    let want := wantedGroups s n
    let gone := (x.groups.map (·.1)).filter fun g => !Tbl.has want g
    ((want.map (·.1)) ++ gone).foldl (fun s g =>
      let old := Tbl.find x.groups g
      let new := Tbl.find want g
      if old = new then s
      else
        let y := netOf s n
        let groups := match new with | some f => Tbl.put y.groups g f | none => Tbl.erase y.groups g
        reportChange n g old new (putNet n { y with groups := groups, repeats := Tbl.put y.repeats g (old, new) } s)) s) s

/-- The SSRC of a stream (R267, R237). -/
def streamSsrc (sender id : Nat) (c : StreamCfg) : Nat := if c.ssrc = 0 then sender / 1024 * 1024 + id else c.ssrc

/-- Samples of one emit position into the packet in the making (R267, R268). -/
def TxStream.sample (x : TxStream) (ps count ssrc : Nat) (row : List Int) (invalid : Bool) : TxStream :=
  if x.acc = [] ∧ count % ps ≠ 0 then x
  else
    let x := if x.acc = [] then { x with count := count, spoiled := false } else x
    let acc := x.acc ++ [row]
    let sp := x.spoiled || invalid
    if acc.length < ps then { x with acc := acc, spoiled := sp }
    else
      let k : Packet :=
        { count := x.count, seq := x.count / ps % 65536, stamp := (x.count + x.cfg.offset) % 2 ^ 32, ssrc := ssrc
          payload := acc.flatMap fun r => r.flatMap (sampleBytes x.cfg.enc) }
      { x with acc := [], spoiled := false, built := if sp then x.built else x.built ++ [k] }

/-- Release the oldest built packet of a stream (R268): one still queued is dropped as TX_LATE. -/
def releasePacket (id : Nat) (s : State) : State :=
  match Tbl.find s.net.tx id with
  | none => s
  | some x => match x.built with
    | [] => s
    | k :: rest =>
      let paths := (x.cfg.paths.zip (List.range x.cfg.paths.length)).filter fun p => sendsOn s p.1.port
      let lates := paths.filter fun p => Tbl.has x.queued p.2
      let q := paths.foldl (fun t p => Tbl.put t p.2 k) x.queued
      let s := { s with net := { s.net with tx := Tbl.put s.net.tx id { x with built := rest, queued := q, late := x.late + lates.length } } }
      let s := lates.foldl (fun s p => countNet p.1.port 8 s) s
      (paths.map (·.1.port)).foldl (fun s n => flushPort n s) s

/-! ### Receiving (R269 to R273) -/

/-- The extended sequence number of a packet, and whether it jumps (R270). -/
def extSeq (high : Option Nat) (seq : Nat) : Nat × Bool :=
  match high with
  | none => (65536 + seq, false)
  | some h =>
    let d := (seq + 65536 - h % 65536) % 65536
    if d ≤ 32768 then (h + d, false)
    else if 65536 - d ≤ 1024 then (h - (65536 - d), false) else (65536 * (h / 65536 + 2) + seq, true)

/-- The media clock count of a received sample: congruent to the RTP time stamp less the offset, nearest the present
count (R269). -/
def rxCount (now stamp offset : Nat) : Int :=
  let m := (stamp + 2 ^ 32 - offset % 2 ^ 32) % 2 ^ 32
  let d := Fx.toSigned 32 ((m + 2 ^ 32 - now % 2 ^ 32) % 2 ^ 32)
  (now : Int) + d

/-- STREAM_PATH (R272). -/
def postPath (id path : Nat) (up : Bool) (s : State) : State := postEvent Ev.streamPath none 0 (u16 id ++ u8 path ++ u8 (Fx.b2n up)) s

/-- A path goes down (R272). -/
def pathDown (id path : Nat) (s : State) : State :=
  match Tbl.find s.net.rx id with
  | none => s
  | some x =>
    let k := x.st.getD path {}
    if !k.up then s
    else
      let st := x.st.set path { k with up := false }
      let any := st.any (·.up)
      let port := match x.cfg.paths[path]? with | some p => p.port | none => 0
      let s := postPath id path false { s with net := { s.net with rx := Tbl.put s.net.rx id { x with st := st } } }
      report (Src.net port) K.netPathDown (if any then 1 else 2) (id * 2 + path) 0 s

/-- A path comes up: its first accepted packet that is not a duplicate (R272). -/
def pathUp (id path : Nat) (s : State) : State :=
  match Tbl.find s.net.rx id with
  | none => s
  | some x =>
    let k := x.st.getD path {}
    if k.up then s
    else
      let port := match x.cfg.paths[path]? with | some p => p.port | none => 0
      let s := postPath id path true { s with net := { s.net with rx := Tbl.put s.net.rx id { x with st := x.st.set path { k with up := true } } } }
      -- the condition ends when no path of the port's streams is down
      if conditionStands s (Src.net port) K.netPathDown ∧
          !(s.net.rx.any fun e => (e.2.cfg.paths.zip e.2.st).any fun q => decide (q.1.port = port) && !q.2.up) then
        endCondition (Src.net port) K.netPathDown 1 s
      else s

/-- Change a receive stream. -/
def putRx (id : Nat) (x : RxStream) (s : State) : State := { s with net := { s.net with rx := Tbl.put s.net.rx id x } }

/-- How an accepted packet is placed (R270). -/
inductive Placing where
  | late
  | early
  | filled
  | merged (crc : Nat)
  deriving DecidableEq, Repr

/-- Fill the empty positions of a packet. -/
def fillRows : Nat → List (List Int) → Tbl (List Int) → Tbl (List Int)
  | _, [], t => t
  | m, r :: rs, t => fillRows (m + 1) rs (if Tbl.has t m then t else Tbl.put t m r)

/-- Place the samples of a packet whose first sample has count m (R270): the stream after it and what became of it. -/
def placeRows (s : State) (x : RxStream) (path m crc : Nat) (rows : List (List Int)) (payload : List Byte) : RxStream × Placing :=
  let o := linkSamples s x.cfg
  let ahead := if s.sys.pairEn then 250000 else 0
  if m + o ≤ mediaNow s ahead then (x, .late)
  else if bufferDepth s x.cfg + mediaNow s 0 < m + rows.length - 1 + o then (x, .early)
  else if (List.range rows.length).all fun i => Tbl.has x.buf (m + i) then
    match x.placed.find? fun p => p.count = m with
    | some p => (x, .merged p.crc)
    | none => (x, .merged crc)
  else
    ({ x with
       buf := fillRows m rows x.buf
       placed := { count := m, samples := rows.length, crc := crc, path := path, payload := payload } :: x.placed }, .filled)

/-- A media packet that matched a stream table entry and passed R261 (R270 to R272). -/
def receiveMedia (id path port : Nat) (r : RtpIn) (s : State) : State :=
  match Tbl.find s.net.rx id with
  | none => s
  | some x =>
    let k := x.st.getD path {}
    let (ext, jump) := extSeq k.high r.seq
    let dup := k.hist.contains ext
    let jumped := jump && !dup
    let newSsrc := match k.ssrc with | some v => decide (v ≠ r.ssrc) | none => false
    let k := { k with arrived := true, packets := (k.packets + 1) % 2 ^ 32, ssrc := some r.ssrc }
    let s := if newSsrc then reportLimited (Src.net port) K.netRxSsrc 0 (id * 2 + path) 0 s else s
    if dup then putRx id { x with st := x.st.set path { k with duplicate := (k.duplicate + 1) % 2 ^ 32 } } s
    else
      let hist := if jumped then [ext] else (ext :: k.hist).take 1024
      let high := match k.high with | some h => if jumped then ext else max h ext | none => ext
      let k := { k with hist := hist, high := some high }
      let s := if jumped then reportLimited (Src.net port) K.netRxSeqJump 0 (id * 2 + path) 0 s else s
      let crc := crc32c r.payload
      let n := r.payload.length / (x.cfg.channels * (2 + x.cfg.enc))
      let rows := payloadRows x.cfg.enc x.cfg.channels n r.payload
      let m := rxCount (mediaNow s 0) r.stamp x.cfg.offset
      let (x', what) := if m < 0 then (x, Placing.late) else placeRows s x path m.toNat crc rows r.payload
      let k := match what with
        | .late => { k with late := (k.late + 1) % 2 ^ 32, earlyRun := 0 }
        | .early => { k with early := (k.early + 1) % 2 ^ 32, earlyRun := k.earlyRun + 1 }
        | .filled => { k with earlyRun := 0 }
        | .merged c => { k with
            merged := (k.merged + 1) % 2 ^ 32, earlyRun := 0, mismatch := (k.mismatch + Fx.b2n (decide (c ≠ crc))) % 2 ^ 32 }
      let s := putRx id { x' with st := x'.st.set path k } s
      let s := if k.earlyRun = 100 then reportLimited (Src.net port) K.netRxTimeOffset 2 (id * 2 + path) 0 s else s
      let s := match what with
        | .merged c => if c ≠ crc then reportLimited (Src.net port) K.netPathMismatch 1 (id * 2 + path) 0 s else s
        | _ => s
      pathUp id path s

/-- One delivered sample frame of a receive stream (R273). Concealment and fade values round to the nearest Q1.23 value, ties to
even: the manual names no rounding there (R9; DESIGN CHOICE, log entry 78). -/
def RxStream.play (x : RxStream) (c : Nat) : RxStream :=
  let b := Tbl.keep (fun m _ => c < m) x.buf
  let pl := x.placed.filter fun p => decide (c < p.count + p.samples)
  match Tbl.find x.buf c with
  | some r =>
    let j := if x.empties = 0 then min 32 (x.fade + 1) else 1
    let fading := decide (x.fade < 32) || decide (0 < x.empties)
    let y := if fading then r.map fun v => Fx.satQ23 (Fx.roundEven (v * (j : Nat)) 32) else r
    { x with buf := b, placed := pl, empties := 0, fade := if fading then j else 32, held := y, out := x.out ++ [y] }
  | none =>
    let j := x.empties + 1
    let h := if x.empties = 0 then (if x.held = [] then List.replicate x.cfg.channels 0 else x.held) else x.held
    let y := h.map fun v => if j ≤ 32 then Fx.satQ23 (Fx.roundEven (v * (32 - (j : Int))) 32) else 0
    { x with
      buf := b, placed := pl, empties := j, fade := 0, held := h, out := x.out ++ [y]
      concealed := (x.concealed + 1) % 2 ^ 32 }

/-- The receive streams at a sample tick: the sample whose play-out instant fell one sample period before (R25, R269). -/
def netTick (s : State) : State :=
  let c := gridMediaCount s (s.clk.sampleJ - 1)
  { s with net := { s.net with rx := Tbl.mapV (fun _ (x : RxStream) => x.play (c - linkSamples s x.cfg)) s.net.rx } }

/-- The capture frame ends: its samples stand under its number; older ones go. -/
def closeCapture (s : State) : State :=
  { s with net := { s.net with rx := Tbl.mapV (fun _ (x : RxStream) =>
      { x with out := [], sec := Tbl.put (Tbl.keep (fun f _ => s.sys.frameNo < f + 3) x.sec) s.sys.frameNo x.out }) s.net.rx } }

/-- Samples of a network receive channel in a capture frame. -/
def rxChannel (s : State) (ch frame : Nat) : List Int :=
  match s.net.rx.find? fun e => decide (e.2.cfg.first ≤ ch) && decide (ch < e.2.cfg.first + e.2.cfg.channels) with
  | some (_, x) => (Tbl.getD x.sec frame []).map fun r => r.getD (ch - x.cfg.first) 0
  | none => []

/-! ### Claiming an identity (R278) -/

/-- The media ports of the partner's side (R251). -/
def partnerPorts (s : State) : List Nat := [0, 1, 2, 3].filter fun n => decide (isBlue n ≠ ownBlue s)

/-- A gratuitous ARP for an address on a port (R278, R280). -/
def gratuitousArp (n : Nat) (a : Nat × Nat) (s : State) : State :=
  sendControl n 0xFFFFFFFFFFFF a.1 0x0806 (arpPacket 1 a.1 a.2 0 a.2) s

/-- Claim the partner's identity on this engine's ports of its side (R278): gratuitous ARP and membership reports. -/
def claimIdentity (s : State) : State :=
  let ports := (partnerPorts s).filter fun n => !(netOf s n).claimed
  ports.foldl (fun s n =>
    let s := putNet n { netOf s n with claimed := true } s
    let s := gratuitousArp n (mediaAddr s n) s
    (netOf s n).groups.foldl (fun s g => reportPresent n g.1 [] s) s) s

/-- Release the partner's identity (R278). -/
def releaseIdentity (s : State) : State :=
  (partnerPorts s).foldl (fun s n => putNet n { netOf s n with claimed := false } s) s

/-! ### Preemption (R258) -/

/-- Preemption as the port now asks for it: the verify exchange begins with its first frame. -/
def startVerify (n : Nat) (s : State) : State :=
  let x := netOf s n
  let x := { x with held := false }
  if !x.preempt then putNet n { x with preState := 0, verifySent := 0 } s
  else if !x.verify then putNet n { x with preState := 2, verifySent := 0 } s
  else if !x.up then putNet n { x with preState := 1, verifySent := 0 } s
  else
    let s := putNet n { x with preState := 1, verifySent := 1 } s
    { s with out := s.out ++ [.mergeFrame n false] }

/-! ### Configuration at its boundary (R281, R255) -/

/-- NET_OFFSET_SHORT of a receive stream (R274). -/
def offsetShort (s : State) (id : Nat) (c : StreamCfg) : State :=
  let spare := c.linkUs - (if s.sys.pairEn then 250 else 0)
  if spare * (fsNow s).toNat ≤ packetSamples (fam s) c.ptime * 1000000 then
    report (Src.net (match c.paths.head? with | some p => p.port | none => 0)) K.netOffsetShort 2 id 0 s
  else s

/-- NET4 steps up (R279): at once at 100 Mb/s, after the step where one down is in progress. -/
def stepUp (s : State) : State :=
  let x := netOf s 4
  if x.stepping = some 100 then putNet 4 { x with upNext := true } s
  else if x.rate = 100 ∧ x.stepping = none ∧ portMbps x = 1000 then putNet 4 { x with stepping := some 1000, up := false } s
  else s

/-- STREAM.TX or STREAM.RX at its boundary: a change starts with an empty buffer or packet; what the channels last delivered
is concealed from (R273, R281). -/
def applyStream (rx : Bool) (id : Nat) (c : StreamCfg) (s : State) : State :=
  let s := if c.paths.any (fun p => p.port = 4) then stepUp s else s
  if rx then
    let old := Tbl.find s.net.rx id
    let x : RxStream := match old with
      | some x => if x.cfg.linkUs = c.linkUs ∧ x.cfg.ptime = c.ptime ∧ x.cfg.channels = c.channels ∧ x.cfg.enc = c.enc then { x with cfg := c }
                  else { x with cfg := c, buf := [], placed := [], held := if x.cfg.channels = c.channels then x.held else [] }
      | none => { cfg := c }
    let st := (List.range 2).map fun i =>
      match old with
      | some o => if o.cfg.paths[i]? = c.paths[i]? then x.st.getD i ({} : PathState) else ({} : PathState)
      | none => ({} : PathState)
    let s := { s with net := { s.net with rx := Tbl.put s.net.rx id { x with st := st }, table := enterPaths id c.paths s.net.table } }
    offsetShort (updateGroups s) id c
  else
    let x : TxStream := match Tbl.find s.net.tx id with | some x => { x with cfg := c, acc := [], built := [] } | none => { cfg := c }
    { s with net := { s.net with tx := Tbl.put s.net.tx id x } }

def applyDropStream (rx : Bool) (id : Nat) (s : State) : State :=
  if rx then
    updateGroups { s with net := { s.net with rx := Tbl.erase s.net.rx id, table := Tbl.keep (fun _ e => !e.valid || e.stream != id) s.net.table } }
  else { s with net := { s.net with tx := Tbl.erase s.net.tx id } }

/-- Start time of a list: the first base + n × cycle at least 1 ms after it is accepted (R255). -/
def listStart (now base cycle : Nat) : Nat :=
  if now + 1000000 ≤ base then base else base + Fx.ceilDiv (now + 1000000 - base) (max 1 cycle) * cycle

/-- NET.GATES takes effect: the list waits for its start time; a removal opens every gate at once. -/
def applyGates (n start cycle : Nat) (entries : Option (List GateEntry)) (s : State) : State :=
  let x := netOf s n
  match entries with
  | none => flushPort n (putNet n { x with gates := none, nextGates := none, held := false } s)
  | some es => putNet n { x with nextGates := some { cycle := cycle, start := start, entries := es } } s

end Sys2Proof.Machine
end

