-- ==== Sys2Proof/Machine/PeatOps.lean ====
section
/-!
DEFINITION. The Peat store (14): tags and commands of the NVMe controllers (R386 to R388), namespaces and labels (R389
to R392), the recorder (R393 to R397), what reaches the media (R398 to R400), extents, holds and retention (R401 to
R403), recovery (R404), objects and voices (R405 to R409).
-/
namespace Sys2Proof.Machine
open Sys2Proof

def ctrlOf (s : State) (n : Nat) : Ctrl := Tbl.getD s.peat.ctrl n {}
def putCtrl (n : Nat) (c : Ctrl) (s : State) : State := { s with peat := { s.peat with ctrl := Tbl.put s.peat.ctrl n c } }
def writeOf (s : State) (g : Nat) : WriteGroup := Tbl.getD s.peat.group g {}
def putWrite (g : Nat) (x : WriteGroup) (s : State) : State := { s with peat := { s.peat with group := Tbl.put s.peat.group g x } }
def WriteGroup.copy (x : WriteGroup) (c : Nat) : Copy := if c = 0 then x.a else x.b
def WriteGroup.setCopy (x : WriteGroup) (c : Nat) (k : Copy) : WriteGroup := if c = 0 then { x with a := k } else { x with b := k }

/-! ### Tags (R386, R387) -/

/-- Commands in flight of a class: 0 player, 1 recorder, 2 shared. -/
def inClass (s : State) (c : Nat) : Nat := (s.peat.cmds.filter fun e => e.2.cls = c).length

/-- A tag is to be had for a class: its reserve first, then the pool that the shared class draws on (R387). -/
def tagFree (s : State) (c : Nat) : Bool :=
  let pool := (inClass s 0 - 1024) + (inClass s 1 - 1536) + inClass s 2
  (decide (c = 0) && decide (inClass s 0 < 1024)) || (decide (c = 1) && decide (inClass s 1 < 1536)) || decide (pool < 1536)

/-- The controller takes commands: in use, its link up, no reset in progress (R384, R414). -/
def ctrlTakes (s : State) (n : Nat) : Bool :=
  let c := ctrlOf s n
  decide (c.state = 1) && c.linkUp && !c.resetting

/-- Send a command under a tag, whose generation advances (R386). -/
def sendTag (tag : Nat) (c : NvmeCmd) (s : State) : State :=
  let g := (Tbl.getD s.peat.gens tag 0 + 1) % 16
  let c := { c with gen := g, sentAt := s.clk.raw, aborted := none }
  let p := { s.peat with gens := Tbl.put s.peat.gens tag g, cmds := Tbl.put s.peat.cmds tag c }
  { s with peat := p, out := s.out ++ [.nvme c.ctrl (g * 4096 + tag) c.opcode c.addr c.len c.bytes] }

/-- The lowest tag that no command holds. -/
def lowestTag (s : State) : Option Nat := (List.range 4096).find? fun t => !Tbl.has s.peat.cmds t

/-- The extent that a command's address lies in. -/
def NvmeCmd.index (c : NvmeCmd) : Nat := c.addr / 1073741824

/-- The commands in flight and waiting. -/
def openCmds (s : State) : List NvmeCmd := s.peat.cmds.map (·.2) ++ s.peat.waiting

/-- A label of a copy is being written, or flushed for. -/
def copyLabelBusy (s : State) (g k : Nat) : Bool :=
  (openCmds s).any fun q => match q.for_ with
    | .label i => (match Tbl.find s.peat.ns i with | some n => decide (n.group = g) && decide (n.copy = k) | none => false)
    | _ => false

/-- A command waits for another one first: a label for its Flush (R385), slot 0 of an extent for the labels of its copy and
for the deallocation of the extent (R385, R401), a segment for a slot 0 that is not yet sent. -/
def NvmeCmd.gated (s : State) (c : NvmeCmd) : Bool :=
  match c.for_ with
  | .label i => decide (c.opcode = 1) && (openCmds s).any fun q => decide (q.for_ = .label i) && decide (q.opcode = 0)
  | .extent g k => copyLabelBusy s g k || decide (c.opcode = 1) && (openCmds s).any fun q =>
      decide (q.for_ = .extent g k) && decide (q.opcode = 9) && decide (q.index = c.index)
  | .segment g k _ => s.peat.waiting.any fun q => decide (q.for_ = .extent g k) && decide (q.index = c.index)
  | _ => false

/-- The command can be sent once its class has a tag. -/
def NvmeCmd.sendable (s : State) (c : NvmeCmd) : Bool := ctrlTakes s c.ctrl && !c.gated s

/-- A request is sent, or waits for a tag, for its controller or for a command before it; none is dropped (R387, R414). -/
def issueCmd (c : NvmeCmd) (s : State) : State :=
  if c.sendable s && tagFree s c.cls && !(s.peat.waiting.any fun w => decide (w.cls ≤ c.cls) && w.sendable s) then
    match lowestTag s with
    | some t => sendTag t c s
    | none => { s with peat := { s.peat with waiting := s.peat.waiting ++ [c] } }
  else { s with peat := { s.peat with waiting := s.peat.waiting ++ [c] } }

/-- The waiting request that a free tag goes to: player, recorder, shared, each in its order (R387). -/
def nextWaiting (s : State) : Option NvmeCmd :=
  [0, 1, 2].findSome? fun k =>
    if tagFree s k then
      (s.peat.waiting.filter fun c => decide (c.cls = k) && c.sendable s).foldl (fun (m : Option NvmeCmd) c =>
        match m with | some b => if c.order < b.order then some c else m | none => some c) none
    else none

/-- Free tags go to waiting requests. -/
def takeWaiting : Nat → State → State
  | 0, s => s
  | n + 1, s =>
    match nextWaiting s, lowestTag s with
    | some c, some t => takeWaiting n (sendTag t c { s with peat := { s.peat with waiting := s.peat.waiting.erase c } })
    | _, _ => s

def serveWaiting (s : State) : State := takeWaiting s.peat.waiting.length s

/-! ### Namespaces, labels, extents (R389 to R391, R398, R401) -/

/-- Bytes of a slot, samples of a segment, and slots for segments of an extent (R394, R398). -/
def slotBytes (code : Nat) : Nat := if code = 0 then 16384 else 65536
def segSamples (code : Nat) : Nat := (slotBytes code - 256) / 3
def extentSlots (code : Nat) : Nat := 1073741824 / slotBytes code

/-- Namespaces of a copy, by index. -/
def nsOfCopy (s : State) (g c : Nat) : Tbl Namespace := Tbl.keep (fun _ n => decide (n.group = g) && decide (n.copy = c)) s.peat.ns

/-- The controller that holds an extent of a copy. -/
def ctrlFor (s : State) (g c idx : Nat) : Option Nat :=
  ((nsOfCopy s g c).find? fun n => !n.2.lost && decide (n.2.base ≤ idx) && decide (idx < n.2.base + n.2.extents)).map (·.2.ctrl)

/-- An extent index lies in a copy. -/
def ownsExtent (s : State) (g c idx : Nat) : Bool := (ctrlFor s g c idx).isSome

/-- The lowest index from k on that is the copy's own and not in a list of taken ones: it can only be k, a base, or the
successor of a taken one. -/
def freeFrom (s : State) (g c k : Nat) (taken : List Nat) : Option Nat :=
  let cands := k :: ((nsOfCopy s g c).map (·.2.base)) ++ taken.map (· + 1)
  (cands.filter fun i => decide (k ≤ i) && ownsExtent s g c i && !taken.contains i).foldl (fun (m : Option Nat) i =>
    match m with | some b => some (min b i) | none => some i) none

/-- Hold ranges of a group (R403). -/
def holdsOf (s : State) (g : Nat) : List (Nat × Nat × Nat) :=
  match s.peat.ns.find? fun n => n.2.group = g with
  | some n => n.2.holds
  | none => []

def extentHeld (s : State) (g idx : Nat) : Bool := (holdsOf s g).any fun h => decide (h.1 ≤ idx) && decide (idx ≤ h.2.1)

/-- The extent holds a segment that an open cursor has still to read (R412). -/
def cursorCovers (c : Cursor) (g k : Nat) (cp : Copy) (idx : Nat) : Bool :=
  decide (c.group = g) && decide (c.copy = k) && decide (c.expired = 0) &&
  cp.segs.any fun e => decide (c.token ≤ e.1) && decide (e.2.addr / 1073741824 = idx)

/-- The extent that a copy opens next (R401, R402): a free one, else the oldest that may be overwritten. -/
def pickExtent (s : State) (g k : Nat) : Option (Nat × Bool) :=
  let cp := (writeOf s g).copy k
  let taken := cp.extents.map (·.index)
  let last := match cp.extents.getLast? with | some e => e.index + 1 | none => 0
  match freeFrom s g k last taken with
  | some i => some (i, false)
  | none =>
    match freeFrom s g k 0 taken with
    | some i => some (i, false)
    | none =>
      let ok := cp.extents.filter fun e =>
        !extentHeld s g e.index && decide (e.opened + s.peat.retention * 86400000000000 ≤ s.clk.full) && ownsExtent s g k e.index
      let clear := ok.filter fun e => !s.peat.cursor.any fun c => cursorCovers c.2 g k cp e.index
      match clear.head?, ok.head? with
      | some e, _ => some (e.index, true)
      | none, some e => some (e.index, true)
      | none, none => none

/-- The bytes of a label copy (R391). -/
def labelBytes (i : Nat) (n : Namespace) : List Byte :=
  let b := [0x50, 0x4C, 0x42, 0x4C] ++ u16 1 ++ u16 i ++ u64 n.storeId ++ u64 n.generation ++ u32 n.base ++ u32 n.extents ++
    u8 n.group ++ u8 n.copy ++ u8 n.segCode ++ List.replicate 5 0 ++ u64 n.anchorSeq ++ padTo 32 n.anchorHash ++
    u16 n.holds.length ++ List.replicate 46 0 ++
    padTo 4096 (n.holds.flatMap fun h => u32 h.1 ++ u32 h.2.1 ++ le 6 h.2.2 ++ u16 0) ++ List.replicate 3964 0
  b ++ u32 (crc32c b)

/-- What a label copy says, when its magic, version and CRC pass (R391). -/
def parseLabel (bs : List Byte) : Option (Nat × Namespace) :=
  if bs.length ≠ 8192 ∨ bs.take 4 ≠ [0x50, 0x4C, 0x42, 0x4C] ∨ fromLE ((bs.drop 4).take 2) ≠ 1 ∨
      fromLE (bs.drop 8188) ≠ crc32c (bs.take 8188) then none
  else
    let g := fun o n => fromLE ((bs.drop o).take n)
    some (g 6 2,
      { ctrl := 0, group := g 32 1, copy := g 33 1, segCode := g 34 1, base := g 24 4, extents := g 28 4, storeId := g 8 8
        generation := g 16 8, anchorSeq := g 40 8, anchorHash := (bs.drop 48).take 32
        holds := (List.range (min 256 (g 80 2))).map fun i => (g (128 + 16 * i) 4, g (132 + 16 * i) 4, g (136 + 16 * i) 6) })

/-- The label copy in force: the higher generation of those that pass (R391). -/
def bestLabel (a b : List Byte) : Option (Nat × Namespace) :=
  match parseLabel a, parseLabel b with
  | some x, some y => if x.2.generation < y.2.generation then some y else some x
  | some x, none => some x
  | none, y => y

/-- Write a namespace's label: Flush first, the copies in turn with a rising generation (R385, R391). -/
def writeLabel (i : Nat) (n : Namespace) (s : State) : State :=
  let n := { n with generation := n.generation + 1 }
  let s := { s with peat := { s.peat with ns := Tbl.put s.peat.ns i n } }
  let s := issueCmd { cls := 2, ctrl := n.ctrl, opcode := 0, addr := 0, len := 0, for_ := .label i } s
  issueCmd { cls := 2, ctrl := n.ctrl, opcode := 1, addr := n.generation % 2 * 524288, len := 8192, bytes := labelBytes i n, for_ := .label i } s

/-- Change and write every label of a copy, or of a group. A lost namespace takes the change when it returns. -/
def writeLabels (p : Namespace → Bool) (f : Namespace → Namespace) (s : State) : State :=
  (s.peat.ns.filter fun e => p e.2).foldl (fun s e =>
    if e.2.lost then { s with peat := { s.peat with ns := Tbl.put s.peat.ns e.1 (f e.2) } } else writeLabel e.1 (f e.2) s) s

/-! ### Requests that wait for labels (R403) -/

/-- Hold ranges as PEAT.HOLD reports them: the count, and the ranges in the form of R391. -/
def holdReport (hs : List (Nat × Nat × Nat)) : Reply :=
  done [] (u16 hs.length) (hs.flatMap fun h => u32 h.1 ++ u32 h.2.1 ++ le 6 h.2.2 ++ u16 0)

/-- A label write of a namespace is in flight or waiting. -/
def labelBusy (s : State) (i : Nat) : Bool :=
  let is := fun (c : NvmeCmd) => match c.for_ with | .label k => decide (k = i) | _ => false
  s.peat.cmds.any (fun e => is e.2) || s.peat.waiting.any is

/-- Answer the requests whose labels are all written, or whose namespace was lost meanwhile. -/
def finishWaits (s : State) : State :=
  s.peat.waits.foldl (fun s w =>
    if !w.started || w.ns.any (labelBusy s) then s
    else
      let lost := w.ns.any fun i => match Tbl.find s.peat.ns i with | some n => n.lost | none => true
      let rep := if lost then refuse St.faulted else if w.code = 0x0B05 then holdReport (holdsOf s w.group) else done [] w.data
      answer w.slot w.seq w.code 0 rep { s with peat := { s.peat with waits := s.peat.waits.filter (· != w) } }) s

/-- The waiting requests of a group whose change has come: they wait for the group's labels. -/
def startWaits (g : Nat) (s : State) : State :=
  let ns := (s.peat.ns.filter fun e => decide (e.2.group = g) && !e.2.lost).map (·.1)
  let ws := s.peat.waits.map fun w => if w.group = g ∧ w.code = 0x0B05 ∧ !w.started then { w with started := true, ns := ns } else w
  finishWaits { s with peat := { s.peat with waits := ws } }

/-- The extent header of slot 0 (R398). -/
def extentHeader (g k addr seq full code first : Nat) (prev : List Byte) : List Byte :=
  let b := [0x50, 0x45, 0x58, 0x54] ++ u16 1 ++ u8 g ++ u8 k ++ u64 addr ++ u64 seq ++ le 6 (full / 1000000000) ++
    u32 (full % 1000000000) ++ u8 code ++ u8 0 ++ u64 first ++ padTo 32 prev ++ u32 (Config.serial.toNat % 2 ^ 32) ++
    List.replicate 172 0
  b ++ u32 (crc32c b)

/-- A segment header (R399). -/
def segHeader (d : SegData) (k chain addr : Nat) (prev : List Byte) : List Byte :=
  let b := [0x50, 0x53, 0x45, 0x47] ++ u16 1 ++ u8 d.type ++ u8 (k + 2 * Fx.b2n d.final) ++ u16 d.track ++ u8 d.rate ++ u8 d.b ++
    u32 (d.payload.length / 3) ++ le 6 (d.time / 1000000000) ++ u32 (d.time % 1000000000) ++ u16 0 ++ u64 d.count ++
    u64 d.trackSeq ++ u64 chain ++ u64 addr ++ u32 (Config.serial.toNat % 2 ^ 32) ++ u64 d.length ++ u8 d.cause ++ u8 d.event ++
    List.replicate 22 0 ++ padTo 32 prev ++ u32 (if d.payload = [] then 0 else crc32c d.payload) ++ List.replicate 120 0
  b ++ u32 (crc32c b)

/-- Expire the cursors that read an extent that is overwritten (R402). -/
def overwriteCursors (g k idx : Nat) (s : State) : State :=
  let cp := (writeOf s g).copy k
  { s with peat := { s.peat with cursor := Tbl.mapV (fun _ (c : Cursor) =>
      if cursorCovers c g k cp idx then { c with expired := 2 } else c) s.peat.cursor } }

/-- Open an extent of a copy (R401): an overwritten one first moves the chain anchor of the copy's labels. -/
def openExtent (g k seq : Nat) (pick : Nat × Bool) (s : State) : State :=
  let (idx, old) := pick
  let cp := (writeOf s g).copy k
  let gone := cp.segs.filter fun e => e.2.addr / 1073741824 = idx
  let s := if old then
      let s := overwriteCursors g k idx s
      let s := match gone.getLast? with
        | some e => writeLabels (fun n => decide (n.group = g) && decide (n.copy = k))
            (fun n => { n with anchorSeq := e.1, anchorHash := sha256 e.2.header }) s
        | none => s
      match ctrlFor s g k idx with
      | some c => if (ctrlOf s c).dealloc then
          issueCmd { cls := 2, ctrl := c, opcode := 9, addr := idx * 1073741824, len := 1073741824, for_ := .extent g k } s else s
      | none => s
    else s
  let x := writeOf s g
  let cp := x.copy k
  let h := extentHeader g k (idx * 1073741824) seq s.clk.full x.segCode (x.chainSeq + 1) cp.hash
  let e : Extent := { index := idx, seq := seq, opened := s.clk.full, header := h, firstSeq := x.chainSeq + 1 }
  let cp := { cp with
    extents := (cp.extents.filter fun o => o.index != idx) ++ [e]
    segs := Tbl.keep (fun _ (sg : Seg) => sg.addr / 1073741824 != idx) cp.segs }
  let s := putWrite g (x.setCopy k cp) s
  match ctrlFor s g k idx with
  | some c => issueCmd { cls := 1, ctrl := c, opcode := 1, addr := idx * 1073741824, len := slotBytes x.segCode
                         bytes := padTo (slotBytes x.segCode) h, for_ := .extent g k, order := x.chainSeq + 1 } s
  | none => s

/-- Copies that a group writes to. -/
def liveCopies (x : WriteGroup) : List Nat := (if x.a.lost then [] else [0]) ++ (if x.mirrored && !x.b.lost then [1] else [])

/-- The newest extent of a copy has room for a segment. -/
def hasRoom (x : WriteGroup) (k : Nat) : Bool :=
  match (x.copy k).extents.getLast? with
  | some e => decide (e.used < extentSlots x.segCode)
  | none => false

/-- Room for a segment in every live copy: extents are opened together (R401). None when no extent can be had. -/
def makeRoom (g : Nat) (s : State) : Option State :=
  let x := writeOf s g
  let ks := liveCopies x
  if ks = [] then none
  else if ks.all (hasRoom x) then some s
  else
    let picks := ks.map fun k => (k, pickExtent s g k)
    if picks.any fun p => p.2.isNone then none
    else
      let seq := x.extSeq + 1
      let s := putWrite g { x with extSeq := seq } s
      some (picks.foldl (fun s p => match p.2 with | some e => openExtent g p.1 seq e s | none => s) s)

/-- Lay a segment into one copy at a chain sequence, and write it (R397 to R400). -/
def layCopy (g chain : Nat) (d : SegData) (k : Nat) (s : State) : State :=
  let x := writeOf s g
  let cp := x.copy k
  match cp.extents.getLast? with
  | none => s
  | some e =>
    let size := slotBytes x.segCode
    let addr := e.index * 1073741824 + e.used * size
    let h := segHeader d k chain addr cp.hash
    let seg : Seg := { addr := addr, header := h, payload := d.payload, track := d.track, samples := d.payload.length / 3 }
    let cp := { cp with
      extents := cp.extents.dropLast ++ [{ e with used := e.used + 1 }]
      segs := Tbl.put cp.segs chain seg
      hash := sha256 h }
    let s := putWrite g (x.setCopy k cp) s
    match ctrlFor s g k e.index with
    | some c => issueCmd { cls := 1, ctrl := c, opcode := 1, addr := addr, len := size, bytes := padTo size (h ++ d.payload)
                           for_ := .segment g k chain, order := chain } s
    | none => s

/-- Lay the oldest waiting segment of a group; a lost copy is to catch it up (R397). -/
def laySegment (g : Nat) (d : SegData) (s : State) : State :=
  let x := writeOf s g
  let chain := x.chainSeq + 1
  let s := (liveCopies x).foldl (fun s k => layCopy g chain d k s) s
  let x := { writeOf s g with chainSeq := chain }
  let late := fun (c : Copy) => if c.lost then { c with catchUp := c.catchUp ++ [chain] } else c
  putWrite g (if x.mirrored then { x with a := late x.a, b := late x.b } else x) s

/-- Lay what waits, as far as there is room (R402). -/
def drainSegs (g : Nat) : Nat → State → State
  | 0, s => s
  | n + 1, s =>
    match (writeOf s g).waiting with
    | [] => s
    | d :: ds => match makeRoom g s with
      | none => s
      | some s => drainSegs g n (laySegment g d (putWrite g { writeOf s g with waiting := ds } s))

def drainGroup (g : Nat) (s : State) : State := drainSegs g (writeOf s g).waiting.length s

/-! ### Tracks (R393 to R396) -/

/-- A track's share of staging in samples (R394). -/
def shareSamples (s : State) : Nat :=
  s.sys.split.getD 3 48 * 1048576 / max 1 s.peat.shares / 3

/-- The share that a number of tracks would have. -/
def shareOf (s : State) (tracks : Nat) : Nat := s.sys.split.getD 3 48 * 1048576 / max 1 tracks / 3

def trackOf (s : State) (n : Nat) : Track := Tbl.getD s.peat.track n {}
def putTrack (n : Nat) (t : Track) (s : State) : State := { s with peat := { s.peat with track := Tbl.put s.peat.track n t } }

/-- Samples that a track holds in staging. -/
def stagedSamples (t : Track) : Nat := t.acc.length + t.unwritten

/-- Re-divide staging at a boundary, once everything unwritten fits (R394). -/
def divideStaging (s : State) : State :=
  let n := s.peat.track.length
  if s.peat.shares = n then s
  else if s.peat.track.all fun e => decide (stagedSamples e.2 ≤ shareOf s n) then { s with peat := { s.peat with shares := n } }
  else s

/-- A sample as three bytes (R393). -/
def sampleB (v : Int) : List Byte := leS 3 v

/-- Hand a complete segment of a track to its group; the track's sequence rises. -/
def pushSeg (n : Nat) (d : SegData) (s : State) : State :=
  let t := trackOf s n
  let t := { t with seq := t.seq + 1, unwritten := t.unwritten + d.payload.length / 3 }
  let x := writeOf s t.group
  let s := putWrite t.group { x with waiting := x.waiting ++ [{ d with track := n, trackSeq := t.seq, rate := s.sys.rate, b := s.sys.b }] } s
  putTrack n t s

/-- A segment of a kind with no payload. -/
def plainSeg (type time count : Nat) : SegData := { type := type, track := 0, rate := 0, b := 0, time := time, count := count, trackSeq := 0 }

/-- The segment in progress completes at its last stored sample. -/
def closeSegment (n : Nat) (final : Bool) (s : State) : State :=
  let t := trackOf s n
  if t.acc = [] then s
  else pushSeg n { plainSeg 1 t.time t.count with final := final, payload := t.acc.flatMap sampleB } (putTrack n { t with acc := [] } s)

/-- Write a gap (R395): its segment, and the record of the causes that are logged. -/
def writeGap (n count time len cause : Nat) (s : State) : State :=
  let s := pushSeg n { plainSeg 2 time count with length := len, cause := cause } { s with peat := { s.peat with gaps := s.peat.gaps + 1 } }
  if cause = 2 ∨ cause = 3 then s else report Src.peat K.peatGap 3 n (len % 32768) s

/-- A gap in progress ends: GAP, then the segment that it cut short (R395, R400). -/
def endGap (n : Nat) (s : State) : State :=
  let t := trackOf s n
  match t.gap with
  | none => s
  | some (count, time, len, cause) => closeSegment n false (writeGap n count time len cause (putTrack n { t with gap := none } s))

/-- Why a frame cannot be stored (R395, R402). -/
def gapCause (s : State) (g : Nat) : Nat :=
  let x := writeOf s g
  if liveCopies x = [] then 6
  else if x.waiting ≠ [] ∧ (makeRoom g s).isNone then 5 else 1

/-- A frame's samples at a track (R393 to R396): stored whole, or a gap. `time` and `count` are of its first sample. -/
def recordFrame (n : Nat) (xs : List Int) (time count : Nat) (invalid : Bool) (s : State) : State :=
  let t := trackOf s n
  if !t.recording then s
  else if invalid then
    let s := endGap n s
    closeSegment n false (writeGap n count time xs.length 2 s)
  else if shareSamples s < stagedSamples t + xs.length then
    match t.gap with
    | some (c0, t0, len, cause) => putTrack n { t with gap := some (c0, t0, len + xs.length, cause) } s
    | none => putTrack n { t with gap := some (count, time, xs.length, gapCause s t.group) } s
  else
    let s := endGap n s
    let t := trackOf s n
    let t := if t.acc = [] then { t with time := time, count := count } else t
    let t := { t with acc := t.acc ++ xs, lastCount := count + xs.length - 1 }
    let s := putTrack n t s
    if segSamples (writeOf s t.group).segCode ≤ t.acc.length then closeSegment n false s else s

/-- A recording starts or stops (R393, R399): EVENT START; the last segment, marked final, and EVENT STOP. A track whose
record broke off at a power loss first fills the hole with a gap of cause 4 (R404). -/
def setRecording (n : Nat) (on : Bool) (time count : Nat) (s : State) : State :=
  let t := trackOf s n
  if t.recording = on then s
  else if on then
    let s := putTrack n { t with recording := true } s
    let x := writeOf s t.group
    let s := match Tbl.find x.broken n with
      | some (c0, t0) => writeGap n c0 t0 (count - c0) 4 (putWrite t.group { x with broken := Tbl.erase x.broken n } s)
      | none => s
    pushSeg n { plainSeg 3 time count with event := 1 } s
  else
    let s := closeSegment n true (endGap n s)
    let s := pushSeg n { plainSeg 3 time count with event := 2 } s
    putTrack n { trackOf s n with recording := false } s

/-- Full time in ns and media-clock count of the boundary that begins the frame in progress: those of its first sample
(R399). -/
def frameTime (s : State) : Nat := s.clk.boundaryTime
def frameCount (s : State) : Nat := gridMediaCount s s.clk.boundaryJ

/-- PEAT.TRACK: group 0 unassigns, 16 leaves the assignment; arming 0 disarms, 1 arms, 2 leaves it (R393). -/
def applyTracks (first count group arming : Nat) (s : State) : State :=
  let s := (List.range count).foldl (fun s i =>
    let n := first + i
    let s := if group = 16 then s
      else if group = 0 then
        (if Tbl.has s.peat.track n then
          let s := setRecording n false (frameTime s) (frameCount s) s
          { s with peat := { s.peat with track := Tbl.erase s.peat.track n } }
         else s)
      else
        let t := trackOf s n
        if t.group = group then s
        else
          let was := t.recording
          let s := if was then setRecording n false (frameTime s) (frameCount s) s else s
          let s := putTrack n { trackOf s n with group := group, seq := 0 } s
          if was then setRecording n true (frameTime s) (frameCount s) s else s
    if arming = 2 ∨ !Tbl.has s.peat.track n then s
    else
      let s := putTrack n { trackOf s n with armed := decide (arming = 1) } s
      setRecording n (decide (arming = 1)) (frameTime s) (frameCount s) s) s
  ((List.range 16).foldl (fun s g => drainGroup g s) s)

/-! ### Objects (R405) -/

/-- The extent of a copy that a new version of an object takes: the lowest free one of the system group. -/
def objectExtent (s : State) (k : Nat) : Option Nat := freeFrom s 0 k 0 (s.peat.objects.map (·.1))

/-- Copies of the system group that have a namespace in use. -/
def systemCopies (s : State) : List Nat := [0, 1].filter fun k => (nsOfCopy s 0 k).any fun n => !n.2.lost

/-- Every copy of the system group has room for one more object. -/
def objectRoom (s : State) : Bool := (systemCopies s).all fun k => (objectExtent s k).isSome

/-- The extent of an object's newest version in a copy. -/
def extentOf (s : State) (kind id k : Nat) : Option Nat :=
  ((s.peat.objects.filter fun o => decide (o.2.1 = kind) && decide (o.2.2.1 = id) && ownsExtent s 0 k o.1).foldl
    (fun (m : Option (Nat × Nat × Nat × Nat)) o =>
      match m with | some b => if b.2.2.2 < o.2.2.2 then some o else m | none => some o) none).map (·.1)

/-- The object header (R405). -/
def objectHeader (kind rate id version : Nat) (body : List Byte) : List Byte :=
  let b := [0x50, 0x4F, 0x42, 0x4A] ++ u8 kind ++ u8 rate ++ u16 id ++ u32 version ++ u64 body.length ++ u32 (crc32c body) ++
    List.replicate 36 0
  b ++ u32 (crc32c b)

/-- Write a version of an object into a copy of the system group (R405). -/
def writeObject (kind rate id version : Nat) (body : List Byte) (k : Nat) (s : State) : State :=
  match objectExtent s k with
  | none => s
  | some e =>
    let s := { s with peat := { s.peat with objects := Tbl.put s.peat.objects e (kind, id, version) } }
    let bs := objectHeader kind rate id version body ++ body
    match ctrlFor s 0 k e with
    | some c => issueCmd { cls := 2, ctrl := c, opcode := 1, addr := e * 1073741824, len := bs.length, bytes := bs
                           for_ := .object kind id version } s
    | none => s

/-- Free the extents of versions of an object. -/
def freeVersions (kind id : Nat) (old : Nat → Bool) (s : State) : State :=
  let left := Tbl.keep (fun _ (o : Nat × Nat × Nat) => !(decide (o.1 = kind) && decide (o.2.1 = id) && old o.2.2)) s.peat.objects
  { s with peat := { s.peat with objects := left } }

/-- Store a version of an object; the version before keeps its extents until this one has been read back (R405). -/
def storeObject (kind rate id version : Nat) (body : List Byte) (s : State) : State :=
  (systemCopies s).foldl (fun s k => writeObject kind rate id version body k s) s

/-- Begin to store a version that takes effect when its copies hold it (R135, R405). -/
def beginStore (x : Storing) (s : State) : State :=
  storeObject x.kind (if x.kind = 1 then x.tag else 0) x.id x.version x.body { s with peat := { s.peat with storing := s.peat.storing ++ [x] } }

/-- A version takes effect: the clip, or the scene's directory entry. -/
def enterStored (x : Storing) (s : State) : State :=
  if x.kind = 1 then
    let c : Clip :=
      { rate := x.tag, samples := x.body.length / 3, version := x.version, crc := crc32c x.body, body := x.body
        pinned := match Tbl.find s.peat.clip x.id with | some c => c.pinned | none => false }
    { s with peat := { s.peat with clip := Tbl.put s.peat.clip x.id c, cache := s.peat.cache.filter fun b => b.clip != x.id } }
  else
    let s := putScene x.id x.tag x.name x.body s
    { s with scene := { s.scene with dir := Tbl.mapV (fun k (e : SceneEntry) => if k = x.id then { e with version := x.version } else e) s.scene.dir } }

/-- A version whose commands are all done: it takes effect, and the versions before are freed, when a copy in use holds it
(R135, R405). -/
def finishStore (x : Storing) (s : State) : State :=
  if (openCmds s).any fun q => decide (q.for_ = .object x.kind x.id x.version) then s
  else
    let s := { s with peat := { s.peat with storing := s.peat.storing.filter (· != x) } }
    if s.peat.objects.any fun o => decide (o.2 = (x.kind, x.id, x.version)) && (ownsExtent s 0 0 o.1 || ownsExtent s 0 1 o.1) then
      freeVersions x.kind x.id (fun v => decide (v < x.version)) (enterStored x s)
    else s

def finishStores (s : State) : State := s.peat.storing.foldl (fun s x => finishStore x s) s

/-- The bytes of an object's version, being stored or in force: its header and its body (R405). -/
def objectBytes (s : State) (kind id version : Nat) : Option (List Byte) :=
  let of := fun rate (body : List Byte) => objectHeader kind rate id version body ++ body
  match s.peat.storing.find? fun x => decide (x.kind = kind) && decide (x.id = id) && decide (x.version = version) with
  | some x => some (of (if kind = 1 then x.tag else 0) x.body)
  | none =>
    if kind = 1 then (Tbl.find s.peat.clip id).bind fun c => if c.version = version then some (of c.rate c.body) else none
    else (Tbl.find s.scene.dir id).bind fun e => if e.version = version then some (of 0 e.body) else none

/-- A copy of a version does not read back as written: a store is abandoned and its extents are free again (R135); a copy that
was filled anew lacks the object. -/
def objectFails (index kind id version : Nat) (s : State) : State :=
  let is := fun (x : Storing) => decide (x.kind = kind) && decide (x.id = id) && decide (x.version = version)
  if s.peat.storing.any is then
    freeVersions kind id (fun v => decide (v = version)) { s with peat := { s.peat with storing := s.peat.storing.filter fun x => !is x } }
  else { s with peat := { s.peat with objects := Tbl.erase s.peat.objects index } }

/-- A command of an object's version has completed: a write is read back, and what is read back is compared (R135, R405). -/
def objectDone (c : NvmeCmd) (kind id version : Nat) (bytes : List Byte) (s : State) : State :=
  if !s.peat.objects.any fun o => decide (o.1 = c.index) && decide (o.2 = (kind, id, version)) then s
  else if c.opcode = 1 then issueCmd { cls := 2, ctrl := c.ctrl, opcode := 2, addr := c.addr, len := c.len, for_ := c.for_ } s
  else if objectBytes s kind id version = some bytes then s
  else objectFails c.index kind id version s

/-- An object is dropped with the versions that are being stored. -/
def dropObject (kind id : Nat) (s : State) : State :=
  freeVersions kind id (fun _ => true)
    { s with peat := { s.peat with storing := s.peat.storing.filter fun x => !(decide (x.kind = kind) && decide (x.id = id)) } }

/-- The samples that 3-byte strings spell (R393). -/
def clipSample (c : Clip) (i : Nat) : Int := Fx.toSigned 24 (fromLE ((c.body.drop (3 * i)).take 3))

def applyClipStore (id rate : Nat) (body : List Byte) (s : State) : State :=
  let x : Storing := { kind := 1, id := id, version := storedVersion s 1 id + 1, tag := rate, body := body }
  if (systemCopies s).isEmpty then enterStored x s else beginStore x s

def applyClipDrop (id : Nat) (s : State) : State :=
  let s := dropObject 1 id s
  { s with peat := { s.peat with clip := Tbl.erase s.peat.clip id, cache := s.peat.cache.filter fun b => b.clip != id } }

/-! ### Completion of writes; lost copies (R392, R397) -/

/-- A segment's ring space is free when both writes have completed, or one has and the other copy is lost (R397). -/
def freeSegment (g chain : Nat) (s : State) : State :=
  let x := writeOf s g
  let done := fun (c : Copy) => c.lost || (match Tbl.find c.segs chain with | some sg => sg.durable | none => true)
  let seg := match Tbl.find x.a.segs chain with | some sg => if x.a.lost then Tbl.find x.b.segs chain else some sg | none => Tbl.find x.b.segs chain
  let any := [x.a, x.b].any fun c => match Tbl.find c.segs chain with | some sg => sg.durable | none => false
  match seg with
  | none => s
  | some sg =>
    if any && done x.a && (!x.mirrored || done x.b) && decide (0 < sg.samples) then
      let off := fun (c : Copy) => match Tbl.find c.segs chain with
        | some sg => { c with segs := Tbl.put c.segs chain { sg with samples := 0 } }
        | none => c
      let s := putWrite g { x with a := off x.a, b := off x.b } s
      if Tbl.has s.peat.track sg.track then
        let t := trackOf s sg.track
        putTrack sg.track { t with unwritten := t.unwritten - sg.samples } s
      else s
    else s

/-- A copy is lost (R397): the group goes on with the other one, if there is one. -/
def loseCopy (g k : Nat) (s : State) : State :=
  let x := writeOf s g
  if (x.copy k).lost then s
  else
    let x := x.setCopy k { x.copy k with lost := true }
    let s := putWrite g x s
    let s := if x.mirrored then report Src.peat K.peatMirror 2 g k s else s
    let s := (x.copy (1 - k)).segs.foldl (fun s e => freeSegment g e.1 s) s
    drainGroup g s

/-- Some controller's namespace is identified and in use (R19). -/
def peatUp (s : State) : Bool := s.peat.ctrl.any fun e => decide (e.2.state = 1)

/-- Peat's readiness follows its needs once it has passed its self-test (R19, R463). -/
def followPeat (s : State) : State :=
  let on := peatUp s && s.sys.tested.contains Fn.peat && isReady s Fn.security && decide (s.supv.marchBanks.length ≤ 1)
  if on = isReady s Fn.peat then s else setReady Fn.peat on s

/-- The requests whose raw command was at a controller (R413). -/
def othersOf (s : State) (c : Nat) : List (Nat × Nat) :=
  ((s.peat.cmds.map (·.2)) ++ s.peat.waiting).filterMap fun q =>
    match q.for_ with | .other slot seq => if q.ctrl = c then some (slot, seq) else none | _ => none

/-- A namespace is lost (R392). Commands to its controller end without effect. -/
def loseNamespace (i : Nat) (s : State) : State :=
  match Tbl.find s.peat.ns i with
  | none => s
  | some n =>
    if n.lost then s
    else
      let s := report (Src.nvme n.ctrl) K.peatNsLost 3 i 0 { s with peat := { s.peat with ns := Tbl.put s.peat.ns i { n with lost := true } } }
      if n.group = 0 then s else loseCopy n.group n.copy s

/-- A controller is lost with its namespace (R388, R392). -/
def loseController (c : Nat) (s : State) : State :=
  let x := ctrlOf s c
  let others := othersOf s c
  let p := { s.peat with
    cmds := Tbl.keep (fun _ (q : NvmeCmd) => q.ctrl != c) s.peat.cmds
    waiting := s.peat.waiting.filter fun q => q.ctrl != c }
  let s := putCtrl c { x with state := if x.state = 1 then 3 else x.state, resetting := false } { s with peat := p }
  let s := (s.peat.ns.filter fun e => e.2.ctrl = c).foldl (fun s e => loseNamespace e.1 s) s
  let s := others.foldl (fun s o => answer o.1 o.2 0x0B12 0 (refuse St.faulted) s) s
  finishWaits (finishStores (followPeat (serveWaiting s)))

/-- Reset a controller (R384, R388): three resets within 600 s lose its namespace. -/
def resetController (c : Nat) (s : State) : State :=
  let x := ctrlOf s c
  let rs := (s.clk.raw :: x.resets).filter fun t => decide (s.clk.raw - t ≤ msTicks 600000)
  let s := putCtrl c { x with resetting := true, resets := rs } s
  if 3 ≤ rs.length then loseController c s else s

/-- Reissue every command in flight on a controller, at the same addresses (R388). -/
def reissueAll (c : Nat) (s : State) : State :=
  (s.peat.cmds.filter fun e => e.2.ctrl = c).foldl (fun s e => sendTag e.1 { e.2 with retries := 0 } s) s

/-- What a segment's header and payload say. -/
def segDataOf (sg : Seg) : SegData :=
  let g := fun o n => fromLE ((sg.header.drop o).take n)
  { type := g 6 1, final := Fx.bit (g 7 1) 1, track := g 8 2, rate := g 10 1, b := g 11 1
    time := g 16 6 * 1000000000 + g 22 4, count := g 28 8, trackSeq := g 36 8
    length := g 64 8, cause := g 72 1, event := g 73 1, payload := sg.payload }

/-- Write one segment again into a copy that came back, in an extent opened after its return (R392, R397). Its staging
space counts as before. -/
def relay (g k : Nat) (old : Seg) (chain : Nat) (s : State) : State :=
  let s := if hasRoom (writeOf s g) k then s else
    match pickExtent s g k with
    | some p => openExtent g k (writeOf s g).extSeq p s
    | none => s
  let s := layCopy g chain (segDataOf old) k s
  let x := writeOf s g
  let cp := x.copy k
  match Tbl.find cp.segs chain with
  | some sg => putWrite g (x.setCopy k { cp with segs := Tbl.put cp.segs chain { sg with samples := old.samples } }) s
  | none => s

/-- A copy comes back (R392, R397): what it missed, and what was not durable when it was lost, is written again from the
surviving copy, or from staging where there is none. -/
def catchUp (g k : Nat) (s : State) : State :=
  let x := writeOf s g
  let cp := x.copy k
  let cut := match cp.segs.find? fun e => !e.2.durable with | some e => e.1 | none => x.chainSeq + 1
  let kept := Tbl.keep (fun c _ => decide (c < cut)) cp.segs
  let hash := match kept.getLast? with
    | some e => sha256 e.2.header
    | none => match cp.segs.head? with | some e => (e.2.header.drop 96).take 32 | none => cp.hash
  let redo := ((cp.segs.filter fun e => decide (cut ≤ e.1)).map (·.1)) ++ cp.catchUp
  let closed := cp.extents.map fun e => { e with used := extentSlots x.segCode }
  let fresh : Copy := { cp with lost := false, segs := kept, hash := if cp.segs = [] then cp.hash else hash, catchUp := [], extents := closed }
  let s := putWrite g (x.setCopy k fresh) s
  let s := redo.foldl (fun s chain =>
    match Tbl.find (x.copy (1 - k)).segs chain, Tbl.find cp.segs chain with
    | some sg, _ => relay g k sg chain s
    | none, some sg => relay g k sg chain s
    | none, none => s) s
  drainGroup g s

/-! ### Player cache (R407) -/

/-- Blocks of 64 KiB. -/
def clipBlocks (c : Clip) : Nat := Fx.ceilDiv (c.samples * 3) 65536
/-- Blocks of the cache that pinned clips leave (R407, R409). -/
def cacheBlocks (s : State) : Nat :=
  s.sys.split.getD 4 32 * 16 - ((s.peat.clip.filter fun e => e.2.pinned).map fun e => clipBlocks e.2).foldl (· + ·) 0

/-- Samples of the read-ahead time. -/
def aheadSamples (s : State) : Nat := s.peat.readAhead * (fsNow s).toNat / 1000

/-- Blocks of a clip from a sample on, over a number of samples. -/
def blocksFrom (c : Clip) (pos n : Nat) : List Nat :=
  let a := pos * 3 / 65536
  let z := min (clipBlocks c) (Fx.ceilDiv (min c.samples (pos + n) * 3) 65536)
  (List.range (z - a)).map (a + ·)

/-- Blocks that a voice's read-ahead covers: clip, block, samples until it is due. -/
def voiceNeeds (s : State) (v : Voice) : List (Nat × Nat × Nat) :=
  let n := aheadSamples s
  let walk := v.queue.foldl (fun (acc : List (Nat × Nat × Nat) × Nat × Nat) q =>
    let (l, pos, used) := acc
    match Tbl.find s.peat.clip q.1 with
    | none => acc
    | some c =>
      if n ≤ used ∨ c.pinned then (l, 0, used + (c.samples - pos))
      else (l ++ (blocksFrom c pos (n - used)).map fun b => (q.1, b, used + (b * 65536 / 3 - pos)), 0, used + (c.samples - pos)))
    ([], v.pos, 0)
  let more := match v.next with
    | some (cl, _, _) => (match Tbl.find s.peat.clip cl with
      | some c => if c.pinned then [] else (blocksFrom c 0 n).map fun b => (cl, b, 0)
      | none => [])
    | none => []
  if v.state = 0 then [] else walk.1 ++ more

/-- A fetch of a block is in flight or waiting. -/
def fetching (s : State) (clip block : Nat) : Bool :=
  let is := fun (c : NvmeCmd) => match c.for_ with | .fetch k b _ => decide (k = clip) && decide (b = block) | _ => false
  s.peat.cmds.any (fun e => is e.2) || s.peat.waiting.any is

def fetchesOut (s : State) : Nat :=
  let is := fun (c : NvmeCmd) => match c.for_ with | .fetch _ _ _ => true | _ => false
  (s.peat.cmds.filter fun e => is e.2).length + (s.peat.waiting.filter is).length

/-- Ask one copy of the system group for a block. -/
def fetchBlock (clip block copy due tries : Nat) (s : State) : State :=
  match Tbl.find s.peat.clip clip, extentOf s 1 clip copy with
  | some c, some e => match ctrlFor s 0 copy e with
    | some k => issueCmd { cls := 0, ctrl := k, opcode := 2, addr := e * 1073741824 + 64 + block * 65536
                           len := min 65536 (c.samples * 3 - block * 65536), for_ := .fetch clip block copy, order := due, retries := tries } s
    | none => s
  | _, _ => s

/-- One block that a voice needs: a hit, a fetch into a free block, or the choice of a block to free (R407). -/
def needBlock (needs : List (Nat × Nat)) (need : Nat × Nat × Nat) (s : State) : State :=
  let (clip, block, due) := need
  if s.peat.cache.any fun b => decide (b.clip = clip) && decide (b.index = block) then
    { s with peat := { s.peat with cache := s.peat.cache.map fun b =>
        if b.clip = clip ∧ b.index = block then { b with used := s.sys.frameNo, chosen := false } else b } }
  else if fetching s clip block then s
  else if s.peat.cache.length + fetchesOut s < cacheBlocks s then
    fetchBlock clip block (if (extentOf s 1 clip 0).isSome then 0 else 1) (mediaNow s 0 + due) 0 s
  else
    let cands := s.peat.cache.filter fun b => !b.chosen && !needs.contains (b.clip, b.index)
    match cands.foldl (fun (m : Option CacheBlock) b =>
        match m with | some x => if b.used < x.used then some b else m | none => some b) none with
    | some x => { s with peat := { s.peat with cache := s.peat.cache.map fun b =>
        if b.clip = x.clip ∧ b.index = x.index then { b with chosen := true } else b } }
    | none => s

/-- The update step of the cache, at a frame boundary (R407). -/
def cacheStep (s : State) : State :=
  let s := { s with peat := { s.peat with cache := s.peat.cache.filter fun b => !b.chosen } }
  let all := s.peat.voice.flatMap fun e => voiceNeeds s e.2
  let keys := all.map fun n => (n.1, n.2.1)
  all.foldl (fun s n => needBlock keys n s) s

/-- Blocks that a clip's start needs beside those of every voice: what R407 refuses. -/
def cacheFits (s : State) (clip : Nat) : Bool :=
  match Tbl.find s.peat.clip clip with
  | none => true
  | some c =>
    let now := (s.peat.voice.flatMap fun e => (voiceNeeds s e.2).map fun n => (n.1, n.2.1)).eraseDups
    let add := if c.pinned then [] else ((blocksFrom c 0 (aheadSamples s)).map fun b => (clip, b)).filter fun k => !now.contains k
    decide (now.length + add.length ≤ cacheBlocks s)

/-- A sample of a clip is at hand. -/
def clipHere (s : State) (id pos : Nat) : Bool :=
  match Tbl.find s.peat.clip id with
  | none => false
  | some c => c.pinned || (let b := pos * 3 / 65536; s.peat.cache.any fun k => decide (k.clip = id) && decide (k.index = b)) &&
      (let b := (pos * 3 + 2) / 65536; s.peat.cache.any fun k => decide (k.clip = id) && decide (k.index = b))

/-! ### Voices (R406, R408) -/

def voiceOf (s : State) (n : Nat) : Voice := Tbl.getD s.peat.voice n {}
def putVoice (n : Nat) (v : Voice) (s : State) : State := { s with peat := { s.peat with voice := Tbl.put s.peat.voice n v } }

/-- PLAY_DONE (R494). -/
def playDone (n clip : Nat) (s : State) : State := postEvent Ev.playDone none 0 (u8 n ++ u16 clip) s

/-- The voice becomes idle. -/
def voiceIdle (v : Voice) : Voice := { gain := v.gain, held := 0 }

/-- A clip's sample, none where its block is missing. -/
def clipAt (s : State) (id pos : Nat) : Option Int :=
  match Tbl.find s.peat.clip id with
  | some c => if clipHere s id pos then some (clipSample c pos) else none
  | none => none

def clipLen (s : State) (id : Nat) : Nat := match Tbl.find s.peat.clip id with | some c => c.samples | none => 0

/-- The clips of a voice at its position: the value before concealment and gain, and the voice one sample on. The next
clip begins L samples before the present one ends and crosses in (R406). -/
def voiceStep (s : State) (v : Voice) : Option Int × Voice × Option Nat :=
  match v.queue with
  | [] => (some 0, voiceIdle v, some 0)
  | (c, _) :: rest =>
    let n := clipLen s c
    let x := clipAt s c v.pos
    let (x, follow) := match rest with
      | (d, l) :: _ =>
        if 0 < l ∧ n ≤ v.pos + l then
          let i := v.pos + l - n
          ((match x, clipAt s d i with | some a, some b => some (mixXfade a b i l) | _, _ => none), i + 1)
        else (x, 0)
      | [] => (x, 0)
    let v := { v with pos := v.pos + 1 }
    if v.pos < n then (x, v, none)
    else match rest with
      | [] => (x, voiceIdle v, some c)
      | _ => (x, { v with queue := rest, pos := follow }, none)

/-- Concealment of a missing position, and the fade that ends it (R273, R408); values round as log entry 78 has it (DESIGN
CHOICE). -/
def voiceConceal (x : Option Int) (v : Voice) : Int × Voice :=
  match x with
  | some y =>
    let j := if v.empties = 0 then min 32 (v.fade + 1) else 1
    let fading := decide (v.fade < 32) || decide (0 < v.empties)
    let y := if fading then Fx.satQ23 (Fx.roundEven (y * (j : Nat)) 32) else y
    (y, { v with empties := 0, fade := if fading then j else 32, held := y, missing := false })
  | none =>
    let j := v.empties + 1
    (if j ≤ 32 then Fx.satQ23 (Fx.roundEven (v.held * (32 - (j : Int))) 32) else 0, { v with empties := j, fade := 0 })

/-- The voice's start arrives: an armed clip begins; a replacing clip takes the voice and the old one fades out (R406). -/
def voiceStart (count : Nat) (v : Voice) : Voice :=
  let v := match v.next with
    | some (clip, st, g) =>
      if st ≤ count then
        let old := if v.state = 2 then v.queue.head?.map fun q => (q.1, v.pos, 0) else none
        let gain := if v.state = 2 then v.gain.retarget g 64 else { g0 := g, g1 := g }
        { v with queue := (clip, 0) :: v.after, pos := 0, state := 2, next := none, after := [], from_ := old, gain := gain }
      else v
    | none => v
  if v.state = 1 ∧ v.start ≤ count then { v with state := 2, pos := 0, gain := { g0 := v.armedGain, g1 := v.armedGain } } else v

/-- One sample of a voice at a media-clock count; the clip that has just ended its play, if any. The stop's ramp rounds as log
entry 78 has it (DESIGN CHOICE). -/
def voiceSample (s : State) (count : Nat) (v : Voice) : Int × Voice × Option Nat :=
  let v := voiceStart count v
  if v.state ≠ 2 then (0, v, none)
  else
    let (x, v', done) := voiceStep s v
    let (x, v') := match v.from_ with
      | some (c, p, i) =>
        let y := match x, clipAt s c p with | some b, some a => some (mixXfade a b i 64) | some b, none => some (mixXfade 0 b i 64) | none, _ => none
        (y, { v' with from_ := if i + 1 < 64 then some (c, p + 1, i + 1) else none })
      | none => (x, v')
    let (y, v'') := if done.isSome then (x.getD 0, v') else voiceConceal x v'
    let g := v''.gain.step
    let y := mulGain y g.now
    let v'' := { v'' with gain := g, missing := v''.missing || x.isNone }
    match v.stop with
    | some k =>
      let y := Fx.satQ23 (Fx.roundEven (y * (63 - (k : Int))) 64)
      if 63 ≤ k then (y, voiceIdle v'', (v.queue.head?).map (·.1))
      else if done.isSome then (y, v'', done)
      else (y, { v'' with stop := some (k + 1) }, none)
    | none => (y, v'', done)

/-- n samples from a count on. -/
def voiceRun (s : State) : Nat → Nat → Voice → List Int × Voice × Option Nat
  | 0, _, v => ([], v, none)
  | n + 1, c, v =>
    let (y, v, d) := voiceSample s c v
    let (ys, v, d') := voiceRun s n (c + 1) v
    (y :: ys, v, match d with | some x => some x | none => d')

/-- The media-clock count of the first sample of the capture frame that the frame in progress reads (R28, R60). -/
def playCount (s : State) : Nat := frameCount s - (if s.sys.pairEn then 2 else 1) * s.sys.b

/-- The outcome of a start at a time (R406, R456): COMMAND_DONE names its request. -/
def endStart (n status frame : Nat) (s : State) : State :=
  match Tbl.find s.peat.playFor n with
  | some (slot, seq) =>
    postEvent Ev.commandDone (some slot) seq (u16 0x0B0E ++ u8 status ++ u8 0 ++ u32 0 ++ fnB frame)
      { s with peat := { s.peat with playFor := Tbl.erase s.peat.playFor n } }
  | none => s

/-- An armed start is discarded: the manual does not say with which status its request ends (log entry 5). -/
def dropStart (n : Nat) (s : State) : State :=
  if Tbl.has s.peat.playFor n then let (v, s) := drawFree 8 s; endStart n (v % 256) 0 s else s

/-- A voice's block of the frame in progress, with PLAY_DONE and PEAT_CACHE_MISS (R406, R408). -/
def voiceFrame (n : Nat) (s : State) : List Int × State :=
  let v := voiceOf s n
  if v.state = 0 then (List.replicate s.sys.b 0, s)
  else
    let (ys, v', d) := voiceRun s s.sys.b (playCount s) { v with missing := false }
    -- samples that the partner gave stand in for a block that is not at hand, or differs (R328)
    let (ys, v') := match v.given with
      | some (f, xs) =>
        if f = s.sys.frameNo then (xs, { v' with given := none, missing := false, empties := 0, fade := 32, held := xs.getLastD 0 }) else (ys, v')
      | none => (ys, v')
    let s := putVoice n v' s
    let started := (decide (v.state = 1) && decide (v'.state ≠ 1)) || (v.next.isSome && v'.next.isNone)
    let s := if started then endStart n St.ok s.sys.frameNo s else s
    let s := if v'.missing then report Src.peat K.peatCacheMiss 2 n 0 s else s
    (ys, match d with | some c => playDone n c s | none => s)

/-- PEAT.PLAY at its boundary (R406). -/
def applyPlay (n clip : Nat) (time : Option Nat) (always replace : Bool) (gain : Int) (s : State) : State :=
  let v := voiceOf s n
  let start := match time with
    | some t => max (playCount s) (Fx.ceilDiv (t * (fsNow s).toNat) 1000000000)
    | none => playCount s
  if v.state = 0 then
    putVoice n { v with state := 1, queue := [(clip, 0)], pos := 0, start := start, always := always, armedGain := gain, stop := none
                        next := none, from_ := none, empties := 0, fade := 32, held := 0 } s
  else if !replace then s
  else if v.state = 1 then putVoice n { v with queue := [(clip, 0)], pos := 0, start := start, always := always, armedGain := gain, next := none } s
  else putVoice n { v with next := some (clip, start, gain), after := [] } s

/-- PEAT.QUEUE: behind the last clip, or behind one that is armed to replace the present one. -/
def applyVoiceQueue (n clip xfade : Nat) (s : State) : State :=
  let v := voiceOf s n
  if v.state = 0 then s
  else if v.next.isSome then putVoice n { v with after := v.after ++ [(clip, xfade)] } s
  else putVoice n { v with queue := v.queue ++ [(clip, xfade)] } s

/-- PEAT.STOP: a playing voice ramps to zero over 64 samples; an armed one becomes idle (R406). -/
def applyVoiceStop (n : Nat) (s : State) : State :=
  let v := voiceOf s n
  let s := dropStart n s
  if v.state = 2 then putVoice n { v with stop := some 0, next := none, after := [], queue := v.queue.take 1 } s
  else if v.state = 1 then playDone n ((v.queue.head?).map (·.1) |>.getD 0) (putVoice n (voiceIdle v) s)
  else s

/-! ### Holds (R403) -/

/-- The smallest extent range of a group that covers a time range on this engine: an extent covers the time from its
opening to the next one's. -/
def extentsAt (s : State) (g start stop : Nat) : Option (Nat × Nat) :=
  let x := writeOf s g
  let es := if x.a.extents = [] then x.b.extents else x.a.extents
  let ends := (es.drop 1).map (·.opened) ++ [s.clk.full + 1]
  let hit := (es.zip ends).filter fun e => decide (e.1.opened ≤ stop) && decide (start < e.2)
  match hit with
  | [] => none
  | h :: _ => some (hit.foldl (fun m e => min m e.1.index) h.1.index, hit.foldl (fun m e => max m e.1.index) h.1.index)

/-- Place a hold on a range of extents: every label of both copies is written (R403). -/
def placeHold (g first last : Nat) (s : State) : State :=
  let s := writeLabels (fun n => decide (n.group = g)) (fun n => { n with holds := n.holds ++ [(first, last, s.clk.full / 1000000000 % 2 ^ 48)] }) s
  startWaits g s

def applyHoldTime (g start stop : Nat) (s : State) : State :=
  match extentsAt s g start stop with
  | some (a, b) => if (holdsOf s g).length < 256 then placeHold g a b s else startWaits g s
  | none => startWaits g s

/-- Clear the holds on exactly a range. -/
def clearHold (g first last : Nat) (s : State) : State :=
  startWaits g (writeLabels (fun n => decide (n.group = g))
    (fun n => { n with holds := n.holds.filter fun h => !(decide (h.1 = first) && decide (h.2.1 = last)) }) s)

/-! ### Recovery (R404) -/

/-- Magic and CRC of a 256-byte header. -/
def headerOk (magic h : List Byte) : Bool :=
  decide (h.length = 256) && decide (h.take 4 = magic) && decide (fromLE (h.drop 252) = crc32c (h.take 252))

def segMagic : List Byte := [0x50, 0x53, 0x45, 0x47]
def extMagic : List Byte := [0x50, 0x45, 0x58, 0x54]

/-- The checks of R400 on one segment against the chain so far: 0 OK, 1 CRC, 2 CHAIN. -/
def checkSegment (h p prev : List Byte) (seq : Nat) : Nat :=
  if !headerOk segMagic h then 1
  else if fromLE ((h.drop 128).take 4) ≠ (if p = [] then 0 else crc32c p) then 1
  else if (h.drop 96).take 32 ≠ prev ∨ fromLE ((h.drop 44).take 8) ≠ seq then 2 else 0

/-- Keep the segments of an extent, in ascending slots, up to the first that fails (R404). Answers the copy, and the
number of later slots with a valid magic. -/
def keepSlots (idx size : Nat) (scan : Bool) : Nat → List (List Byte × List Byte) → Nat → Copy → Copy × Nat × Nat
  | _, [], seq, cp => (cp, seq, 0)
  | i, (h, p) :: rest, seq, cp =>
    let r := checkSegment h p cp.hash seq
    if r = 0 ∨ !scan then
      let sg : Seg := { addr := idx * 1073741824 + i * size, header := h, payload := p, durable := true, bad := r }
      let q := fromLE ((h.drop 44).take 8)
      keepSlots idx size scan (i + 1) rest (q + 1) { cp with segs := Tbl.put cp.segs q sg, hash := sha256 h }
    else (cp, seq, (((h, p) :: rest).filter fun e => e.1.take 4 = segMagic).length)

/-- Enter one extent that was found, oldest first; the newest is scanned. -/
def enterExtent (size : Nat) (newest : Bool) (e : FoundExtent) (acc : Copy × Nat × Nat) : Copy × Nat × Nat :=
  let (cp, seq, late) := acc
  let first := fromLE ((e.header.drop 36).take 8)
  let cp := if cp.extents = [] then { cp with hash := (e.header.drop 44).take 32 } else cp
  let seq := if cp.extents = [] then first else seq
  let x : Extent :=
    { index := e.index, seq := fromLE ((e.header.drop 16).take 8), header := e.header, firstSeq := first
      opened := fromLE ((e.header.drop 24).take 6) * 1000000000 + fromLE ((e.header.drop 30).take 4), used := 1 + e.slots.length }
  let (cp, seq, n) := keepSlots e.index size newest 1 e.slots seq { cp with extents := cp.extents ++ [x] }
  (cp, seq, late + n)

/-- Insert an extent by its sequence. -/
def insertFound (e : FoundExtent) : List FoundExtent → List FoundExtent
  | [] => [e]
  | f :: fs => if fromLE ((e.header.drop 16).take 8) < fromLE ((f.header.drop 16).take 8) then e :: f :: fs else f :: insertFound e fs

/-- The tracks whose record ended without STOP: the sample after the last kept one (R404). -/
def brokenTracks (fs : Nat) (cp : Copy) : Tbl (Nat × Nat) :=
  cp.segs.foldl (fun t e =>
    let h := e.2.header
    let n := fromLE ((h.drop 8).take 2)
    let type := fromLE ((h.drop 6).take 1)
    let len := if type = 2 then fromLE ((h.drop 64).take 8) else fromLE ((h.drop 12).take 4)
    if type = 3 then
      (if fromLE ((h.drop 73).take 1) = 2 then Tbl.erase t n
       else if fromLE ((h.drop 73).take 1) = 1 then
         Tbl.put t n (fromLE ((h.drop 28).take 8), fromLE ((h.drop 16).take 6) * 1000000000 + fromLE ((h.drop 22).take 4))
       else t)
    else
      Tbl.put t n (fromLE ((h.drop 28).take 8) + len,
        fromLE ((h.drop 16).take 6) * 1000000000 + fromLE ((h.drop 22).take 4) + len * 1000000000 / fs)) []

/-- Bring up a copy from what its extents read back (R404): EVENT RECOVERY goes into a new extent. -/
def recoverCopy (g k : Nat) (found : List FoundExtent) (s : State) : State :=
  let x := writeOf s g
  let es := (found.filter fun e => headerOk extMagic e.header).foldl (fun l e => insertFound e l) []
  let n := es.length
  let (cp, seq, late) := (es.zip (List.range n)).foldl (fun acc e => enterExtent (slotBytes x.segCode) (e.2 + 1 = n) e.1 acc)
    (({ lost := false } : Copy), 1, 0)
  let top := match es.getLast? with | some e => fromLE ((e.header.drop 16).take 8) | none => 0
  let x := { x.setCopy k cp with
    chainSeq := max x.chainSeq (seq - 1), extSeq := max x.extSeq top, broken := brokenTracks (fsNow s).toNat cp }
  if es = [] then putWrite g (x.setCopy k { cp with extents := [] }) s
  else
    -- the scanned extent is closed, so that the RECOVERY segment opens a new one
    let full := fun (e : Extent) => if e.seq = top then { e with used := extentSlots x.segCode } else e
    let x := x.setCopy k { x.copy k with extents := (x.copy k).extents.map full }
    let d := { plainSeg 3 s.clk.full (mediaNow s 0) with event := 3, track := 0xFFFF, length := late, rate := s.sys.rate, b := s.sys.b }
    -- both copies carry the same event: the one recovered first brings it
    let first := !x.waiting.any fun w => decide (w.event = 3)
    drainGroup g (putWrite g (if first then { x with waiting := x.waiting ++ [d] } else x) s)

/-! ### Read-out (R410 to R412) -/

/-- Result of a segment of a copy: what the device's read-back shows, else OK or DISCARDED. `dev` lists what the device
returned wrong: chain sequence, copy, result. -/
def segResult (dev : List (Nat × Nat × Nat)) (chain k : Nat) (sg : Seg) : Nat :=
  match dev.find? fun d => decide (d.1 = chain) && decide (d.2.1 = k) with
  | some d => d.2.2
  | none => if sg.discarded then 3 else sg.bad

/-- One segment of a page: its head and bytes; a segment that fails on copy A of a mirrored group is read from copy B and
marked so (R410). -/
def pageSegment (dev : List (Nat × Nat × Nat)) (x : WriteGroup) (k chain : Nat) : Option (List Byte) :=
  let size := slotBytes x.segCode
  let one := fun c => match Tbl.find (x.copy c).segs chain with
    | some sg => if sg.durable && !(x.copy c).lost then some (segResult dev chain c sg, c, sg) else none
    | none => none
  let pick := match one k with
    | some (0, c, sg) => some (0, c, sg)
    | some r => (if x.mirrored then match one (1 - k) with | some (0, c, sg) => some (0, c, sg) | _ => some r else some r)
    | none => if x.mirrored then one (1 - k) else none
  pick.map fun (r, c, sg) => u8 r ++ u8 c ++ u16 0 ++ u32 size ++ padTo size (sg.header ++ sg.payload)

/-- The segments of a page from a chain sequence on, of at most 1 MiB: bytes, count, next token. -/
def pageFrom (dev : List (Nat × Nat × Nat)) (x : WriteGroup) (c : Cursor) : Nat → Nat → List Byte → Nat → List Byte × Nat × Nat
  | 0, tok, bs, n => (bs, n, tok)
  | fuel + 1, tok, bs, n =>
    if x.chainSeq < tok then (bs, n, tok)
    else
      let wanted := match c.tracks with
        | none => true
        | some m => match Tbl.find (x.copy c.copy).segs tok with
          | some sg => (let t := fromLE ((sg.header.drop 8).take 2); decide (2048 ≤ t) || Fx.bit m t)
          | none => false
      if !wanted then pageFrom dev x c fuel (tok + 1) bs n
      else match pageSegment dev x c.copy tok with
        | none => if (Tbl.find (x.copy c.copy).segs tok).isSome then (bs, n, tok) else pageFrom dev x c fuel (tok + 1) bs n
        | some b => if 1048576 < bs.length + b.length then (bs, n, tok) else pageFrom dev x c fuel (tok + 1) (bs ++ b) (n + 1)

/-- A page of a cursor. -/
def readPage (dev : List (Nat × Nat × Nat)) (x : WriteGroup) (c : Cursor) (tok : Nat) : List Byte × Nat × Nat :=
  pageFrom dev x c (x.chainSeq + 1 - tok) tok [] 0

/-- The first chain sequence that a cursor's start names (R410): 0 time, 1 chain sequence, 2 store address. -/
def cursorStart (x : WriteGroup) (k kind time num : Nat) : Option Nat :=
  let segs := (x.copy k).segs
  if kind = 1 then (if segs.any fun e => decide (num ≤ e.1) then some (match segs.head? with | some e => max num e.1 | none => num) else some (x.chainSeq + 1))
  else if kind = 0 then
    (segs.find? fun e =>
      let h := e.2.header
      decide (time ≤ fromLE ((h.drop 16).take 6) * 1000000000 + fromLE ((h.drop 22).take 4))).map (·.1) |>.or (some (x.chainSeq + 1))
  else (segs.find? fun e => decide (e.2.addr ≤ num) && decide (num < e.2.addr + slotBytes x.segCode)).map (·.1)

end Sys2Proof.Machine
end

