-- ==== Sys2Proof/Machine/Idle.lean ====
section
/-!
DEFINITION. The passing of time: RAW advances (R282), TIME_NS wraps are counted and raise their interrupt (R284, R285,
R502), and an event interrupt that is owed is raised when its 100 µs have passed (R461).
-/
namespace Sys2Proof.Machine
open Sys2Proof

/-- Count the wraps that an advance of RAW crosses, and raise the wrap interrupt for them (R284, R285). -/
def countWraps (r0 r1 : Nat) (s : State) : State :=
  let n := s.clk.wrapsBetween r0 r1
  if n = 0 then s else raiseInt 10 { s with clk := { s.clk with wraps := (s.clk.wraps + n) % 2 ^ 32 } }

/-- Raise an event interrupt that is owed, once 100 µs have passed since the latest (R461). -/
def owedEventInt (s : State) : State := if s.mbx.evIntDue then eventInt s else s

/-- RAW advances to a later value. -/
def advanceTo (raw : Nat) (s : State) : State :=
  if s.clk.raw < raw then
    owedEventInt (countWraps s.clk.raw raw { s with clk := { s.clk with raw := raw % 2 ^ 64 } })
  else s

/-- RAW advances to the first tick at which C has reached a count (R288). -/
def advanceToCount (count : Int) (s : State) : State := advanceTo (s.clk.rawOf count) s

/-- One tick of RAW on an empty queue (log entry 1). -/
def idleTick (s : State) : State := advanceTo (s.clk.raw + 1) s

end Sys2Proof.Machine
end

