-- ==== Sys2Proof/Machine/Sinks.lean ====
section
/-!
DEFINITION. What a sink, or a mix input in the role of a sink, carries: changes, dormant connections and crossfades at
a frame boundary (R49, R50, R55 to R57), and the samples delivered through a crossfade (R56, R58, R64).
-/
namespace Sys2Proof.Machine
open Sys2Proof

/-- Start a crossfade towards a source (R56); length 0 takes it from the first sample. -/
def SinkState.fadeTo (k : SinkState) (src : Option Nat) (len : Nat) (prev : Bool) : SinkState :=
  { k with
    carried := src, prevFrame := prev, pend := none
    xfade := if len = 0 then none else some { old := k.carried, oldPrev := k.prevFrame, len := len } }

/-- The crossfade is over. -/
def SinkState.finished (k : SinkState) : Bool :=
  match k.xfade with | none => true | some x => decide (x.len ≤ x.pos)

/-- The boundary for a sink (R49, R55, R57): the committed source with its crossfade length and previous-frame bit, of
which only a present source is carried. -/
def SinkState.boundary (k : SinkState) (src : Option Nat) (len : Nat) (prev : Bool) (pres : Nat → Bool) : SinkState :=
  let k := if k.finished then { k with xfade := none } else k
  let gone := match k.carried with | some c => !pres c | none => false
  let want := match src with | some c => if pres c then some c else none | none => none
  -- the length of a disconnect is the removed connection's
  let l := if src.isSome then len else k.len
  let k := { k with len := l }
  if gone then
    -- from the last sample delivered, held, to zero; a change that commits with it waits
    let k' := { k with
      carried := none, prevFrame := false
      xfade := if l = 0 then none else some { hold := some k.last, len := l }
      pend := match want with | some _ => some { src := want, len := l, prev := prev } | none => none }
    if l = 0 then (match want with | some _ => k'.fadeTo want l prev | none => { k' with pend := none }) else k'
  else
    let now := match k.pend with | some p => p.src | none => k.carried
    if want ≠ now then
      match k.xfade with
      | some _ => { k with pend := some { src := want, len := l, prev := prev } }
      | none => if want = k.carried then { k with pend := none, prevFrame := prev } else k.fadeTo want l prev
    else
      match k.pend, k.xfade with
      | some p, none => if p.src = k.carried then { k with pend := none, prevFrame := prev } else k.fadeTo p.src l prev
      -- a change of its length or bit replaces the one that waits (R57)
      | some _, some _ => { k with pend := some { src := want, len := l, prev := prev } }
      | none, _ => { k with prevFrame := prev }

/-- The samples of a source for the frame in process, or of the frame before; zero where it has none (R27, R49). -/
def sourceSamples (s : State) (src : Option Nat) (prev : Bool) : List Int :=
  match src with
  | some c => Tbl.getD (if prev then s.blk.prev else s.blk.cur) c []
  | none => []

/-- One delivered sample at position p (R56). -/
def SinkState.sample (k : SinkState) (old new : List Int) (p : Nat) : Int × SinkState :=
  let y := new.getD p 0
  match k.xfade with
  | none => (y, { k with last := y })
  | some x =>
    let o := match x.hold with | some v => v | none => old.getD p 0
    let v := mixXfade o y x.pos x.len
    (v, { k with last := v, xfade := some { x with pos := min x.len (x.pos + 1) } })

/-- Deliver n samples from position p on. A position whose source word failed twice repeats the last sample (R64). -/
def SinkState.run (k : SinkState) (old new : List Int) (bad : List Nat) : Nat → Nat → List Int × SinkState
  | 0, _ => ([], k)
  | n + 1, p =>
    let (y, k') := k.sample old new p
    let (y, k') := if bad.contains p then (k.last, { k' with last := k.last }) else (y, k')
    let (ys, k') := SinkState.run k' old new bad n (p + 1)
    (y :: ys, k')

/-- Does a move of a source into a stage read the previous frame (R27, R58, R59). -/
def readsPrev (s : State) (src : Option Nat) (sinkStage : Nat) (flag : Bool) : Bool :=
  match src with
  | some c => flag || againstOrder (stageOf s c) sinkStage
  | none => false

/-- Positions of a source's words, in the buffer of the frame in process or of the one before, that failed twice (R64). -/
def badAt (s : State) (src : Option Nat) (prev : Bool) : List Nat :=
  match src with
  | some c => (s.route.bad.filter fun b => decide (b.1 = c) && b.2.2 == prev).map (·.2.1)
  | none => []

/-- Deliver a frame to a sink of a stage: the samples and its state after them. -/
def deliver (s : State) (k : SinkState) (stage : Nat) : List Int × SinkState :=
  let was := fun (x : Xfade) => readsPrev s x.old stage x.oldPrev
  let prev := readsPrev s k.carried stage k.prevFrame
  let old := match k.xfade with | some x => sourceSamples s x.old (was x) | none => []
  let oldBad := match k.xfade with | some x => badAt s x.old (was x) | none => []
  k.run old (sourceSamples s k.carried prev) (badAt s k.carried prev ++ oldBad) s.sys.b 0

/-- The mover's move into a sink for the frame in process, once (R63): the samples stand in the sink's buffer. -/
def moveSink (sink : Nat) (s : State) : State :=
  match if Tbl.has s.blk.sink sink then none else Tbl.find s.route.sinks sink with
  | none => s
  | some k =>
    let (ys, k) := deliver s k (stageOf s sink)
    { s with
      route := { s.route with sinks := Tbl.put s.route.sinks sink k }
      blk := { s.blk with sink := Tbl.put s.blk.sink sink ys } }

/-- A sink's samples of the frame in process; silence where nothing is connected. -/
def sinkSamples (s : State) (sink : Nat) : List Int :=
  (Tbl.getD s.blk.sink sink [] ++ List.replicate s.sys.b 0).take s.sys.b

/-- Every sink at a boundary: a sink that the bank in force connects, or that still carries something (R49, R53). -/
def sinkBoundary (s : State) (sink : Nat) : State :=
  let r := effRec s (sink / 256)
  let get := fun k => recGet s (sink / 256) r (sink % 256 * 4 + k)
  let src := srcIn s r sink
  let k := Tbl.getD s.route.sinks sink {}
  let k := if present s sink then k.boundary src (get 1).toNat (get 2 = 1) (present s) else { len := (get 1).toNat }
  let idle := src.isNone && k.carried.isNone && k.xfade.isNone && k.pend.isNone
  { s with route := { s.route with sinks := if idle then Tbl.erase s.route.sinks sink else Tbl.put s.route.sinks sink k } }

/-- All sinks at the boundary. -/
def routeBoundary (s : State) : State :=
  let a := (connectedIn (effTable s)).map (·.1)
  let b := (s.route.sinks.map (·.1)).filter fun x => !a.contains x
  (a ++ b).foldl sinkBoundary s

end Sys2Proof.Machine
end

