-- ==== Sys2Proof/Machine/BlockRun.lean ====
section
/-!
DEFINITION. Library blocks over one frame (04): the words and targets that a block's parameters give (R71), what a
commit of its page starts (R73, R74, R78, R97), and its samples (R72, R76 to R100). `get` reads the block's page in
force.
-/
namespace Sys2Proof.Machine
open Sys2Proof

/-- Scale of the numeric filter parameters in use (R74). -/
def useScale : Int := 1048576

/-- Units of 1/65,536 dB of a level in 0.01 dB. -/
def dbFine (h : Int) : Int := Fx.roundAway (h * 65536) 100

/-- µs as whole samples. -/
def usSamples (fs us : Int) : Nat := (Fx.roundAway (us * fs) 1000000).toNat

/-! ### Gains (R73, R76) -/

/-- Target of a trim: gain, polarity, mute. -/
def trimTarget (get : Nat → Int) : Int :=
  if get 2 = 1 then 0 else let g := dbToGain (get 0); if get 1 = 1 then -g else g

/-- Target of a fader: gain, mute. -/
def faderTarget (get : Nat → Int) : Int := if get 1 = 1 then 0 else dbToGain (get 0)

/-- Target of a crossover way. -/
def wayTarget (get : Nat → Int) (w : Nat) : Int :=
  let b := 32 * (w + 1)
  if get (b + 2) = 1 then 0 else let g := dbToGain (get b); if get (b + 1) = 1 then -g else g

/-- Delay in samples, at most the maximum in samples (R76). -/
def delaySamples (fs : Int) (get : Nat → Int) : Nat :=
  let most := usSamples fs (get 0)
  let d := if get 1 = 0 then usSamples fs (get 2)
    else if get 1 = 1 then (get 2).toNat
    -- d mm over c mm/s: c = 331,300 + 60.6·T with T in 0.1 °C
    else (Fx.roundAway (get 2 * fs * 10) (3313000 + 606 * get 3)).toNat
  min d most

/-! ### Filter words (R80 to R87) -/

/-- The numeric fields that glide: frequency, gain and Q fields of a block (R74). Kind 0 frequency, 1 gain, 2 Q. -/
def glideFields (k : BlockKind) (get : Nat → Int) : List (Nat × Nat) :=
  match k with
  | .highPass | .lowPass => [(3, 0), (4, 2)]
  | .peq => (List.range (get 0).toNat).flatMap fun b => let i := 32 * (b + 1); [(i + 1, 0), (i + 2, 1), (i + 3, 2)]
  | .crossover => ((List.range (get 1 - 1).toNat).map fun i => (2 + i, 0))
  | .gate | .expander | .gateOrExpander | .compressor | .limiter => if get 13 = 0 then [] else [(13, 0)]
  | _ => []

/-- The values of the gliding fields as the page holds them. A frequency above 0.45 f_s is applied at that limit
(R103). -/
def useOf (k : BlockKind) (fs : Int) (get : Nat → Int) : Tbl Int :=
  (glideFields k get).map fun (i, c) => (i, (if c = 0 then min (get i) (45 * fs) else get i) * useScale)

/-- Steps that a change of one value needs, 8 at most (R74): 1 dB, 1/6 octave, a factor 1.25. -/
def glideSteps (c : Nat) (v0 v1 : Int) : Nat :=
  let lo := min v0 v1
  let hi := max v0 v1
  let fits := fun (n : Nat) =>
    if c = 1 then decide (hi - lo ≤ n * (100 * useScale))
    else if c = 0 then decide (hi ^ 6 ≤ 2 ^ n * lo ^ 6)
    else decide (hi * 4 ^ n ≤ lo * 5 ^ n)
  ((List.range 8).find? fits).getD 8

/-- The value at step i of n: equal steps in dB, log-frequency and log-Q (R74). -/
def glideAt (c : Nat) (v0 v1 : Int) (i n : Nat) : Int :=
  if n ≤ i then v1
  else if c = 1 then v0 + Fx.roundAway ((v1 - v0) * i) n
  else Fx.roundAway (v0 * Fx.pow2 (Fx.roundAway (Fx.log2 (Fx.div v1 v0) * i) n)) Fx.one

/-- The sets of a glide, in order (R74). -/
def glideSets (fields : List (Nat × Nat)) (from_ to_ : Tbl Int) : List (Tbl Int) :=
  let v := fun (t : Tbl Int) i => Tbl.getD t i useScale
  let n := min 8 (fields.foldl (fun n (i, c) => max n (glideSteps c (v from_ i) (v to_ i))) 1)
  (List.range n).map fun j => fields.map fun (i, c) => (i, glideAt c (v from_ i) (v to_ i) (j + 1) n)

/-- The order that a high-pass or low-pass block runs with: the stored one, at the nearest that its response allows within
the maximum order (R83; DESIGN CHOICE, log entry 79). -/
def passOrder (get : Nat → Int) : Nat := (nearestOf (passOrders (get 0) (get 1)) (get 2)).toNat

/-- Sections of a high-pass or low-pass block (R83): unused ones pass the signal unchanged. -/
def passSections (high : Bool) (fs : Int) (get : Nat → Int) (use_ : Tbl Int) : List Section :=
  let n := Fx.ceilDiv (get 0).toNat 2
  let f := Tbl.getD use_ 3 0
  let used := if get 5 = 1 then []
    else if get 1 = 0 then butterSections high (passOrder get) f (fs * useScale)
    else if get 1 = 1 then linkwitzSections high (passOrder get) f (fs * useScale)
    else [section2 high f (fs * useScale) (Fx.ratio (Tbl.getD use_ 4 useScale) (100 * useScale))]
  (used ++ List.replicate n Section.unit).take n

/-- Sections of a PEQ (R84). A stored Q outside the range of a shelf is used as it stands when the band's type becomes a
shelf without a write of Q (DESIGN CHOICE, log entry 79). -/
def peqSections (fs : Int) (get : Nat → Int) (use_ : Tbl Int) : List Section :=
  (List.range (get 0).toNat).map fun b =>
    let i := 32 * (b + 1)
    let u := fun k => Tbl.getD use_ (i + k) 0
    if get (i + 4) = 1 then Section.unit else peqSection (get i).toNat (u 1) fs (u 2) (u 3) useScale

/-- The chains of one crossover split at f: low, high, and the all-pass matched to it (R85). -/
def splitChains (type : Nat) (f fs : Int) : List Section × List Section × List Section :=
  let q := fun n k => butterQ n k
  if type = 0 then (linkwitzSections false 4 f fs, linkwitzSections true 4 f fs, [allPass f fs (q 2 1)])
  else if type = 1 then
    (linkwitzSections false 8 f fs, linkwitzSections true 8 f fs, [allPass f fs (q 4 2), allPass f fs (q 4 1)])
  else (butterSections false 2 f fs, butterSections true 2 f fs, [])

/-- All sections of a crossover in the order the run takes them: split by split its low chain, its high chain, then the
all-pass of each way below, way by way (R85). -/
def crossoverSections (fs : Int) (get : Nat → Int) (use_ : Tbl Int) : List Section :=
  let n := (get 1 - 1).toNat
  (List.range n).flatMap fun i =>
    let (l, h, a) := splitChains (get 0).toNat (Tbl.getD use_ (2 + i) 0) (fs * useScale)
    l ++ h ++ (List.replicate i a).flatten

/-- Raw words of a section over the derived ones (R104; six words a section in the order of the kernel of 08: b0, b1, b2, s, a2, a1; log entry 27). -/
def rawSection (raw : Nat → Option Int) (i : Nat) (c : Section) : Section :=
  match raw (6 * i) with
  | none => c
  | some b0 =>
    let w := fun k => Fx.toSigned 24 ((raw (6 * i + k)).getD 0).toNat
    { b0 := Fx.toSigned 24 b0.toNat, b1 := w 1, b2 := w 2, shift := ((raw (6 * i + 3)).getD 0).toNat % 4, a2 := w 4, a1 := w 5 }

/-- Put raw sections in place. -/
def rawSections (raw : Nat → Option Int) : Nat → List Section → List Section
  | _, [] => []
  | i, c :: cs => rawSection raw i c :: rawSections raw (i + 1) cs

/-- The sections that a filter block runs with. -/
def sectionsOf (k : BlockKind) (fs : Int) (get : Nat → Int) (raw : Nat → Option Int) (use_ : Tbl Int) : List Section :=
  match k with
  | .highPass => rawSections raw 0 (passSections true fs get use_)
  | .lowPass => rawSections raw 0 (passSections false fs get use_)
  | .peq => rawSections raw 0 (peqSections fs get use_)
  | .crossover => rawSections raw 0 (crossoverSections fs get use_)
  | .ancGain => butterSections true 2 20000 fs ++ butterSections false 2 400000 fs
  | _ => []

/-- Choice and count fields of a filter block: a commit that changes one applies without a glide (R74). -/
def fixedFields (k : BlockKind) (get : Nat → Int) : List Int :=
  match k with
  | .highPass | .lowPass => [get 0, get 1, get 2, get 5]
  | .peq => get 0 :: (List.range (get 0).toNat).flatMap fun b => [get (32 * (b + 1)), get (32 * (b + 1) + 4)]
  | .crossover => [get 0, get 1]
  | .gate | .expander | .gateOrExpander | .compressor | .limiter => [get 9, get 11, if get 13 = 0 then 0 else 1, get 15, get 16, get 17]
  | _ => []

/-- Taps of a FIR: a unit impulse where none are stored (R86). -/
def tapsOf (get : Nat → Int) (raw : Nat → Option Int) : List Int :=
  (List.range (get 0).toNat).map fun i =>
    match raw i with
    | some w => Fx.toSigned 24 w.toNat
    | none => if i = 0 then 8388607 else 0

/-! ### Commit and start (R73, R74, R78, R97, R130) -/

/-- A block's state as it starts: gains at their targets, filters with the committed words, histories clear (R35). -/
def initBlk (k : BlockKind) (fs : Int) (get : Nat → Int) (raw : Nat → Option Int) : BlkState :=
  let still := fun g : Int => ({ g0 := g, g1 := g } : Ramp)
  let u := useOf k fs get
  match k with
  | .trim => { ramp := still (trimTarget get) }
  | .fader => { ramp := still (faderTarget get) }
  | .delay => { tap := delaySamples fs get }
  | .crossover =>
    { ramp := still (wayTarget get 0), ramp2 := still (wayTarget get 1), ramp3 := still (wayTarget get 2),
      ramp4 := still (wayTarget get 3), use_ := u, sections := sectionsOf k fs get raw u }
  | .highPass | .lowPass | .peq | .ancGain => { use_ := u, sections := sectionsOf k fs get raw u }
  | .generator => { ramp := still (dbToGain (get 1)), noiseReg := (get 6).toNat }
  | .pilot => { ramp := still (if get 0 = 1 then dbToGain (get 2) else 0) }
  | .gate | .expander | .gateOrExpander | .compressor | .limiter =>
    { use_ := u, dyn := List.replicate (max 1 (get 15).toNat) ({} : DynState) }
  | _ => {}

/-- A commit of a block's page: `g0` reads the bank that was in force, `g1` the new one (R130). -/
def commitBlk (k : BlockKind) (fs : Int) (g0 g1 : Nat → Int) (raw : Nat → Option Int) (b : BlkState) : BlkState :=
  match k with
  | .trim => { b with ramp := b.ramp.retarget (trimTarget g1) (g1 3).toNat }
  | .fader => { b with ramp := b.ramp.retarget (faderTarget g1) (g1 2).toNat }
  | .delay => delaySet b (delaySamples fs g1) (g1 4).toNat
  | .highPass | .lowPass | .peq | .crossover =>
    let b := if k = .crossover then
        { b with
          ramp := b.ramp.retarget (wayTarget g1 0) 64, ramp2 := b.ramp2.retarget (wayTarget g1 1) 64
          ramp3 := b.ramp3.retarget (wayTarget g1 2) 64, ramp4 := b.ramp4.retarget (wayTarget g1 3) 64 }
      else b
    let u := useOf k fs g1
    if fixedFields k g0 = fixedFields k g1 ∧ u ≠ b.use_ then { b with glide := glideSets (glideFields k g1) b.use_ u }
    else if fixedFields k g0 = fixedFields k g1 then { b with glide := [], sections := loadSections b.sections (sectionsOf k fs g1 raw b.use_) }
    else { b with use_ := u, glide := [], sections := loadSections b.sections (sectionsOf k fs g1 raw u) }
  | .generator =>
    { b with ramp := b.ramp.retarget (dbToGain (g1 1)) 64, phase := 0, sweepPos := 0, noiseReg := (g1 6).toNat }
  | .pilot => { b with ramp := b.ramp.retarget (if g1 0 = 1 then dbToGain (g1 2) else 0) 64 }
  | .gate | .expander | .gateOrExpander | .compressor | .limiter =>
    let n := max 1 (g1 15).toNat
    let u := useOf k fs g1
    let b := { b with dyn := (b.dyn ++ List.replicate n ({} : DynState)).take n }
    if fixedFields k g0 = fixedFields k g1 ∧ u ≠ b.use_ then { b with glide := glideSets (glideFields k g1) b.use_ u }
    else { b with use_ := u, glide := [] }
  | _ => b

/-- The next set of a glide, at the start of a frame (R74). -/
def glideStep (k : BlockKind) (fs : Int) (get : Nat → Int) (raw : Nat → Option Int) (b : BlkState) : BlkState :=
  match b.glide with
  | [] => b
  | u :: us => { b with use_ := u, glide := us, sections := loadSections b.sections (sectionsOf k fs get raw u) }

/-! ### Dynamics (R88 to R91) -/

/-- The numbers of a dynamics block. `pilot` is the amplitude of a pilot insert that is on, in 2^−20 (R99). -/
def dynParams (k : BlockKind) (fs : Int) (get : Nat → Int) (pilot : Int) : DynParams :=
  let k := if k = .gateOrExpander then (if get 17 = 1 then .expander else .gate) else k
  let thr := dbFine (get 0)
  let thr := if pilot = 0 then thr
    else
      let g := gainOf thr - pilot
      if g ≤ 0 then -13107200 else Fx.roundAway (20 * Fx.log10 (Fx.ratio g gainOne) * 65536) Fx.one
  { kind := k, thr := thr, ratio := get 1, range := dbFine (get 2), knee := dbFine (get 3), hyst := dbFine (get 4),
    attack := get 5, holdSmp := usSamples fs (get 6), release := get 7, makeup := if k = .compressor then dbFine (get 8) else 0,
    look := if get 9 = 1 then (get 10).toNat else 0, rms := get 11 = 1, rmsUs := get 12, keyFreq := get 13 }

/-- The key filter of a channel holds the words of the frequency in use, in units of 2^−20 of 0.01 Hz (R74, R88). The manual
gives the second-order high-pass no Q: the model takes Butterworth's (DESIGN CHOICE, log entry 79). -/
def keyLoad (fs : Int) (p : DynParams) (use : Int) (d : DynState) : DynState :=
  if p.keyFreq = 0 then d else { d with key := d.key.load (section2 true use (fs * useScale) (butterQ 2 1)) }

/-- One sample of every channel: levels, linked where fitted, then the gains (R88, R91). -/
def dynStep (p : DynParams) (fs : Int) (link : Bool) (ds : List DynState) (keys xs : List Int) : List Int × List DynState :=
  let lv := List.zipWith (fun d x => detect p fs d x) ds keys
  let top := (lv.map (·.1)).foldl max (-13107200)
  let r := List.zipWith (fun (l, d) x => dynSample p fs d (if link then top else l) x) lv xs
  (r.map (·.1), r.map (·.2))

/-- Samples of every channel, position by position. -/
def dynRun (p : DynParams) (fs : Int) (link : Bool) (key : Option (List Int)) (xs : List (List Int)) :
    Nat → Nat → List DynState → List (List Int) × List DynState
  | 0, _, ds => (xs.map fun _ => [], ds)
  | n + 1, i, ds =>
    let row := xs.map fun c => c.getD i 0
    let keys := match key with | some k => row.map fun _ => k.getD i 0 | none => row
    let (ys, ds) := dynStep p fs link ds keys row
    let (rest, ds) := dynRun p fs link key xs n (i + 1) ds
    (List.zipWith (fun y r => y :: r) ys rest, ds)

/-! ### Ambient-noise-compensated gain (R92) -/

/-- One sample: programme x, filtered sense y, whether the sense source is present. Until a first gap has set the noise level
the target gain is 0 dB (DESIGN CHOICE, log entry 79). -/
def ancSample (fs : Int) (get : Nat → Int) (b : BlkState) (x y : Int) (here : Bool) : Int × BlkState :=
  let quiet := decide (levelOf (x.natAbs : Int) < dbFine (get 7))
  let b :=
    if quiet then { b with gapLen := b.gapLen + 1, gapSum := b.gapSum + y * y, gapBad := b.gapBad || !here }
    else
      let b' := { b with gapLen := 0, gapSum := 0, gapBad := false }
      if 0 < b.gapLen ∧ usSamples fs (get 8) ≤ b.gapLen ∧ ¬ b.gapBad then
        { b' with noise := some (Fx.roundAway (levelOfMs (b.gapSum * 2 ^ 14 / b.gapLen) * 100) 65536) }
      else b'
  let b := { b with absent := if here then 0 else b.absent + 1 }
  let target := if 60 * fs ≤ b.absent then 0
    else match b.noise with
      | none => 0
      | some n => Fx.clamp (-(get 4)) (get 3) (Fx.roundAway ((n - get 1) * get 2) 100) * 2 ^ 32 / 100
  let inc := fun r : Int => Fx.roundAway (r * 2 ^ 32) (100 * fs)
  let g := if b.anGain < target then min target (b.anGain + inc (get 5)) else max target (b.anGain - inc (get 6))
  (mulGain x (gainOf (g / 65536)), { b with anGain := g, clip := b.clip || clips x (gainOf (g / 65536)) })

/-- Samples through the ambient gain. -/
def ancRun (fs : Int) (get : Nat → Int) (here : Bool) : List Int → List Int → BlkState → List Int × BlkState
  | x :: xs, y :: ys, b =>
    let (z, b) := ancSample fs get b x y here
    let (zs, b) := ancRun fs get here xs ys b
    (z :: zs, b)
  | _, _, b => ([], b)

/-! ### Generators (R97) and the pilot insert (R99) -/

/-- One generator sample at gain g in 2^−20, its frequencies limited to 0.45 f_s (R103). A noise sample is the top 24 bits of
the register after its step, which the manual does not say (DESIGN CHOICE, log entry 79). -/
def genSample (fs : Int) (get : Nat → Int) (b : BlkState) (g : Int) : Int × BlkState :=
  let top := fun f : Int => min f (45 * fs)
  match (get 0).toNat with
  | 1 => (sinePhase b.phase g, { b with phase := (b.phase + phaseInc (top (get 2)) fs) % 2 ^ 32 })
  | 2 =>
    let n := max 1 (usSamples fs (get 4))
    if n ≤ b.sweepPos then (0, b)
    else
      -- f(t) = start·(stop/start)^(t/T)
      let f := Fx.roundAway (top (get 2) * Fx.pow2 (Fx.roundAway (Fx.log2 (Fx.ratio (top (get 3)) (top (get 2))) * b.sweepPos) n)) Fx.one
      let pos := b.sweepPos + 1
      let again := get 5 = 1 ∧ pos = n
      (sinePhase b.phase g, { b with
        phase := if again then 0 else (b.phase + phaseInc f fs) % 2 ^ 32, sweepPos := if again then 0 else pos })
  | 3 =>
    let x := xorshift b.noiseReg
    (mulGain (Fx.toSigned 24 (x / 256)) g, { b with noiseReg := x })
  | 4 => (mulGain (Fx.satQ23 (Config.pinkSample (get 6).toNat b.sweepPos)) g,
          { b with noiseReg := xorshift b.noiseReg, sweepPos := b.sweepPos + 1 })
  | 5 =>
    let v := if b.sweepPos = 0 then mulGain (if get 8 = 1 then -8388608 else 8388607) g else 0
    (v, { b with sweepPos := (b.sweepPos + 1) % max 1 (get 7).toNat })
  | _ => (0, b)

/-- Generator samples. -/
def genRun (fs : Int) (get : Nat → Int) : Nat → BlkState → List Int × BlkState
  | 0, b => ([], b)
  | n + 1, b =>
    let b := { b with ramp := b.ramp.step }
    let (y, b) := genSample fs get b b.ramp.now
    let (ys, b) := genRun fs get n b
    (y :: ys, b)

/-- The pilot adds its sine while fitted, its frequency limited to 0.45 f_s (R99, R103). -/
def pilotRun (fs : Int) (get : Nat → Int) : List Int → BlkState → List Int × BlkState
  | [], b => ([], b)
  | x :: xs, b =>
    let b := { b with ramp := b.ramp.step }
    let v := x + sinePhase b.phase b.ramp.now
    let y := Fx.satQ23 v
    let b := { b with phase := (b.phase + phaseInc (min (get 1) (45 * fs)) fs) % 2 ^ 32, clip := b.clip || decide (y ≠ v) }
    let (ys, b) := pilotRun fs get xs b
    (y :: ys, b)

/-- Samples of hold of a presence detector after the level last exceeded its threshold (R98). -/
def presenceRun (fs : Int) (get : Nat → Int) : List Int → BlkState → BlkState
  | [], b => b
  | x :: xs, b =>
    presenceRun fs get xs
      { b with hold := if dbFine (get 0) < levelOf (x.natAbs : Int) then usSamples fs (get 1) else b.hold - 1 }

/-! ### One block over a frame -/

/-- Crossover: the way outputs, each through its gain (R85). -/
def crossoverRun (type ways : Nat) (x : List Int) (b : BlkState) : List (List Int) × BlkState :=
  let nSplit := ways - 1
  let half := if type = 0 then 2 else if type = 1 then 4 else 1
  let ap := if type = 0 then 1 else if type = 1 then 2 else 0
  let invert := fun (v : List Int) => if type = 2 then v.map fun y => Fx.satQ23 (-y) else v
  -- split by split: the ways below so far pass the split's all-pass
  let r := (List.range nSplit).foldl (fun (acc : List (List Int) × List Int × List Section × List Section × Bool) i =>
    let (low, rest, todo, doneS, clip) := acc
    let (l, cl) := runSections (todo.take half) rest
    let (h, ch) := runSections ((todo.drop half).take half) rest
    let clip := clip || clipSections (todo.take half) rest || clipSections ((todo.drop half).take half) rest
    let todo := todo.drop (2 * half)
    let (low, todo, da, clip) := low.foldl (fun (a : List (List Int) × List Section × List Section × Bool) w =>
      let (y, c) := runSections (a.2.1.take ap) w
      (a.1 ++ [y], a.2.1.drop ap, a.2.2.1 ++ c, a.2.2.2 || clipSections (a.2.1.take ap) w)) ([], todo, [], clip)
    let clip := clip || (decide (type = 2) && h.contains (-8388608))
    (low ++ [l], invert h, todo, doneS ++ cl ++ ch ++ da, clip)) ([], x, b.sections, [], false)
  let outs := r.1 ++ [r.2.1]
  let (y0, r0, c0) := rampGain b.ramp (outs.getD 0 [])
  let (y1, r1, c1) := rampGain b.ramp2 (outs.getD 1 [])
  let (y2, r2, c2) := rampGain b.ramp3 (outs.getD 2 [])
  let (y3, r3, c3) := rampGain b.ramp4 (outs.getD 3 [])
  let c := r.2.2.2.2 || c0 || c1 || c2 || c3
  ([y0, y1, y2, y3].take ways, { b with ramp := r0, ramp2 := r1, ramp3 := r2, ramp4 := r3, sections := r.2.2.2.1, clip := c })

/-- What a block run needs besides its own page: the rate, B, the side input and whether its source is present, the
amplitude of an active pilot, the positions at which a delay's pool word fails twice (R79), and the partial sums of the
earlier partitions of a FIR (R87). -/
structure RunCtx where
  fs : Int
  n : Nat
  side : Option (List Int) := none
  sideHere : Bool := false
  pilot : Int := 0
  bad : List Nat := []
  parts : List (List Int) := []
  deriving DecidableEq, Repr

/-- Partitions of a FIR of n taps before its last (R87). -/
def earlyParts (n : Nat) : Nat := (n - 1) / 1024

/-- One block over the frame: outputs, state, and whether a store saturated (R72). -/
def runBlk (c : RunCtx) (k : BlockKind) (get : Nat → Int) (raw : Nat → Option Int) (b : BlkState) (xs : List (List Int)) :
    List (List Int) × BlkState × Bool :=
  let x := xs.getD 0 []
  match k with
  | .trim | .fader => let (y, r, cl) := rampGain b.ramp x; ([y], { b with ramp := r }, cl)
  | .delay => let (y, b) := delayRun (usSamples c.fs (get 0)) c.bad 0 b x; ([y], b, false)
  | .highPass | .lowPass | .peq =>
    let b := glideStep k c.fs get raw b
    let (y, cs) := runSections b.sections x
    ([y], { b with sections := cs }, clipSections b.sections x)
  | .crossover =>
    let (ys, b) := crossoverRun (get 0).toNat (get 1).toNat x (glideStep k c.fs get raw b)
    (ys, { b with clip := false }, b.clip)
  | .fir =>
    let n := (get 0).toNat
    let sh := (get 2).toNat
    let (out, h) := firRun (tapsOf get raw) (1024 * earlyParts n) n c.parts 0 b.line x
    let y := out.map fun v => storeQ947 v sh
    let past := out.any fun v => decide (Fx.satQ23 (Fx.roundEven (v * 2 ^ sh) (2 ^ 24)) ≠ Fx.roundEven (v * 2 ^ sh) (2 ^ 24))
    ([y], { b with line := h }, past)
  | .gate | .expander | .gateOrExpander | .compressor | .limiter =>
    let p := dynParams k c.fs get c.pilot
    let b := glideStep k c.fs get raw b
    let (ys, ds) := dynRun p c.fs (get 16 = 1) c.side xs c.n 0 (b.dyn.map (keyLoad c.fs p (Tbl.getD b.use_ 13 (p.keyFreq * useScale))))
    (ys, { b with dyn := ds.map fun d => { d with clip := false } }, ds.any (·.clip))
  | .ancGain =>
    let sense := (c.side.getD []) ++ List.replicate c.n 0
    let senseChain := b.sections
    let (f, cs) := runSections senseChain (sense.take c.n)
    let (y, b) := ancRun c.fs get c.sideHere x f { b with sections := cs }
    ([y], { b with clip := false }, b.clip || clipSections senseChain (sense.take c.n))
  | .generator => let (y, b) := genRun c.fs get c.n b; ([y], b, false)
  | .pilot => if get 3 = 1 then let (y, b) := pilotRun c.fs get x b; ([y], { b with clip := false }, b.clip) else ([x], b, false)
  | .presence => ([x], presenceRun c.fs get x b, false)
  | _ => ([x], b, false)

/-! ### Meters (R98) -/

/-- Interpolation of ITU-R BS.1770 by four, in units of 2^−13: one phase of twelve taps (log entry 29). -/
def truePeakTaps : List (List Int) :=
  let a := [14, 90, -161, 272, -487, 1125, 7964, -838, 390, -218, 122, -68]
  let b := [-239, 240, -424, 730, -1364, 3810, 6388, -1641, 832, -477, 271, -155]
  [a, b, b.reverse, a.reverse]

/-- Magnitude of one sample for a meter type, and the history after it. -/
def meterMag (type : Int) (h : List Int) (x : Int) : Int × List Int :=
  if type = 1 then
    let h := (x :: h).take 12
    ((truePeakTaps.map fun t => ((dot t h).natAbs : Int) / 8192).foldl max 0, h)
  else ((x.natAbs : Int), h)

/-- One sample: peak of the frame, mean square, held peak with hold and fall. Times in µs, fall in 0.01 dB/s. -/
def meterStep (fs type hold fall tau : Int) (m : Meter) (x : Int) : Meter :=
  let (mag, h) := meterMag type m.hist x
  let ms := onePole m.meanSq (x * x * 2 ^ 14) (poleOf tau fs)
  let held :=
    if m.held ≤ mag then (mag, usSamples fs hold)
    else if 0 < m.holdLeft then (m.held, m.holdLeft - 1)
    else (Fx.roundAway (m.held * Fx.pow10 (-(Fx.ratio fall (2000 * fs)))) Fx.one, 0)
  { m with peak := max m.peak mag, meanSq := ms, hist := h, held := held.1, holdLeft := held.2 }

/-- The readings at a boundary (R98): the peak starts again. -/
def meterLatch (m : Meter) : Meter :=
  { m with
    readPeak := meterLevel (levelOf m.peak), readRms := meterLevel (levelOfMs m.meanSq)
    readHeld := meterLevel (levelOf m.held), peak := 0 }

/-! ### Pilot-tone detector (R100) -/

/-- Samples of a detector block. -/
def pilotBlock (fs : Int) (get : Nat → Int) : Nat := max 1 (usSamples fs (Fx.clamp 20000 1000000 (get 0)))

/-- The Goertzel coefficient of a frequency. -/
def pilotCoef (fs freq : Int) : Int := 2 * Fx.cos (Fx.roundAway (2 * Fx.pi * freq) (100 * fs))

/-- One sample of the sense return and of the named strip's output, both band-passed around the pilot frequency, through the
Goertzel recurrence. States in Q1.23 with 20 further bits. The manual gives the band-pass no Q: the model takes the band-pass
of R84 at a Q of 5 (DESIGN CHOICE, log entry 79). -/
def pilotSample (fs freq : Int) (d : PilotDet) (x y : Int) : PilotDet :=
  let w := peqSection 4 freq fs 0 500 1
  let (u, c) := (d.band.load w).step x
  let (v, e) := (d.dband.load w).step y
  let k := pilotCoef fs freq
  { d with
    band := c, dband := e, count := d.count + 1
    s1 := u * 2 ^ 20 + Fx.mul k d.s1 - d.s2, s2 := d.s1
    d1 := v * 2 ^ 20 + Fx.mul k d.d1 - d.d2, d2 := d.d1 }

/-- The amplitude at the end of a block of n samples: sqrt(s1² + s2² − k·s1·s2)·2/N, in Q1.23. -/
def pilotAmp (fs freq : Int) (n : Nat) (s1 s2 : Int) : Nat :=
  let p := s1 * s1 + s2 * s2 - Fx.mul (pilotCoef fs freq) (s1 * s2)
  2 * Fx.isqrt p.toNat / (2 ^ 20 * max 1 n)

end Sys2Proof.Machine
end

