-- ==== Sys2Proof/Machine/Bracken.lean ====
section
/-!
DEFINITION. Arithmetic of Bracken (05): gain words, the step sequence of R114, the zero-crossing flag, stepping of a
crosspoint sample by sample (R115 to R117), duck envelopes and gains (R120, R121).
-/
namespace Sys2Proof.Machine
open Sys2Proof

/-- Signed value of a 24-bit gain word. -/
def gainWord (w : Nat) : Int := Fx.toSigned 24 w

/-- The word of a basic level in 0.01 dB: round(10^(dB/20)·2^20), off is 0 (R107). -/
def levelWord (db : Int) (inverted : Bool) : Int :=
  if db ≤ dbOffLevel then 0
  else let w := dbToGain db; if inverted then -w else w
where dbOffLevel : Int := -2147483648

/-- Code of a non-zero gain: round(65,536·log2(|w|/2^20)) (R114). -/
def stepCode (w : Int) : Int := Fx.roundAway (65536 * Fx.log2 (Fx.ratio (w.natAbs : Int) 1048576)) Fx.one

/-- The word of a code: round(2^(code/65,536)·2^20) (R114). -/
def codeWord (c : Int) : Int := Fx.roundAway (Fx.pow2 (Fx.ratio c 65536)) (2 ^ 44)

/-- The step code of a step size in 0.01 dB: round(S·65,536/6.0206) (R114). -/
def stepSizeCode (s : Int) : Int := Fx.roundAway (s * 65536 * 10000) (100 * 60206)

/-- Gains stepped through from code c0 to the word of the target with code c1, signs `sg` (R114, same sign). -/
def stepsTo (c0 c1 s : Int) (sg : Int) (last : Int) : List Int :=
  let n := max 1 ((((c1 - c0).natAbs : Nat) + s.toNat - 1) / s.toNat)
  ((List.range (n - 1)).map fun k => sg * codeWord (c0 + Fx.roundAway ((c1 - c0) * (k + 1 : Nat)) n)) ++ [last]

/-- The floor code below a code: 60 dB lower, and never below −1,310,720 (R114). -/
def floorCode (c : Int) : Int := max (c - 653118) (-1310720)

/-- The whole step sequence from one gain to another (R114). -/
def stepSeq (g0 g1 s : Int) : List Int :=
  let sg := fun g : Int => if g < 0 then (-1 : Int) else 1
  let down := fun g : Int => stepsTo (stepCode g) (floorCode (stepCode g)) s (sg g)
      (sg g * codeWord (floorCode (stepCode g))) ++ [0]
  let up := fun g : Int =>
    let f := floorCode (stepCode g)
    sg g * codeWord f :: stepsTo f (stepCode g) s (sg g) g
  if g0 = g1 then []
  else if g0 ≠ 0 ∧ g1 ≠ 0 ∧ sg g0 = sg g1 then stepsTo (stepCode g0) (stepCode g1) s (sg g0) g1
  else (if g0 = 0 then [] else down g0) ++ (if g1 = 0 then [] else up g1)

/-- Zero-crossing flag of a sample after another (R115). -/
def zeroCross (prev x : Int) : Bool := decide (x = 0) || decide (prev < 0 ∧ 0 < x) || decide (0 < prev ∧ x < 0)

/-- Flags of a frame's samples. -/
def zcFlags : Int → List Int → List Bool
  | _, [] => []
  | p, x :: xs => zeroCross p x :: zcFlags x xs

/-- One sample of a crosspoint with the input's flag: a step at a flag, an interpolation after the timeout
(R115 to R117). The gain after it applies to that sample's product. -/
def XPoint.sample (x : XPoint) (flag : Bool) : XPoint :=
  if x.frozen then x
  else match x.interp with
  | some (a, b, j) =>
    let j := j + 1
    if 32 ≤ j then { x with applied := b, interp := none, wait := 0 }
    else { x with applied := Fx.roundEven (a * 32 + (b - a) * j) 32, interp := some (a, b, j) }
  | none =>
    match x.steps with
    | [] => x
    | g :: gs =>
      -- T samples have passed with no flag: the interpolation runs whatever the flags of its samples (R116, R117)
      if x.timeout ≤ x.wait then
        { x with applied := Fx.roundEven (x.applied * 32 + (g - x.applied)) 32, steps := gs,
                 interp := some (x.applied, g, 1), wait := 0 }
      else if flag then { x with applied := g, steps := gs, wait := 0 }
      else { x with wait := x.wait + 1 }

/-- A commit's effect on a crosspoint (R114, R117): new target word, assigned, immediate, with the bus's step code and
timeout in samples in force. -/
def XPoint.commit (x : XPoint) (target : Int) (assigned immediate : Bool) (s : Int) (timeout : Nat) : XPoint :=
  let target := if assigned then target else 0
  let goes := fun (x : XPoint) =>
    -- the sequence starts from the applied gain, or from the end gain of a running interpolation
    let start := match x.interp with | some (_, b, _) => b | none => x.applied
    { x with target := target, steps := stepSeq start target s, wait := 0, timeout := timeout }
  if ¬ assigned ∧ ¬ x.live then { x with target := 0, steps := [], interp := none, applied := 0 }
  else if ¬ assigned then
    if immediate ∨ x.applied = 0 then { x with applied := 0, target := 0, steps := [], interp := none, live := false, retiring := false }
    else if x.retiring ∧ x.target = 0 then x
    else { goes x with retiring := true }
  else if immediate then
    { x with applied := target, target := target, steps := [], interp := none, live := true, retiring := false }
  else if target = x.target ∧ x.live ∧ ¬ x.retiring then x
  else { goes x with live := true, retiring := false }

/-- A term that is on its way out stops at the boundary after its gain has reached zero (R117). -/
def XPoint.retire (x : XPoint) : XPoint :=
  if x.retiring ∧ x.applied = 0 ∧ x.steps = [] ∧ x.interp = none then { x with live := false, retiring := false } else x

/-- One sample of a duck envelope in 1/65,536 dB (R120): depth in 0.01 dB, times in µs. -/
def duckStep (e : Int) (triggered : Bool) (depth att rel fs : Int) : Int :=
  let d := Fx.roundAway (depth * 65536) 100
  let inc := fun us : Int => max 1 (Fx.roundAway (depth * 65536 * 1000000) (100 * us * fs))
  if triggered then
    if e < -d then min (-d) (e + inc rel) else max (-d) (e - inc att)
  else min 0 (e + inc rel)

/-- The linear duck gain in 2^−20 of an envelope; a cut level at −80 dB is zero (R120, R121). -/
def duckGain (e : Int) (cut : Bool) : Int := if cut ∧ e ≤ -5242880 then 0 else if e = 0 then gainOne else gainOf e

end Sys2Proof.Machine
end

