-- ==== Sys2Proof/Machine/MixRun.lean ====
section
/-!
DEFINITION. Bracken over a frame (05): crosspoint words of a lane page (R107, R108), the commit of a lane page and of a
selection page (R106, R114, R117), the fetch of a mix input (R106, R115, R119), one term (R110, R115 to R117), and the
end of a lane: duck, sum, trim, limiter, store (R110 to R113, R118 to R121).
-/
namespace Sys2Proof.Machine
open Sys2Proof

/-- A crosspoint as committed: gain word, assigned, precedence level, immediate. -/
structure Cross where
  gain : Int := 0
  assigned : Bool := false
  level : Nat := 0
  immediate : Bool := false
  deriving DecidableEq, Repr

/-- The crosspoint of a raw word (R108). -/
def rawCross (w : Nat) : Cross :=
  { gain := gainWord (w % 2 ^ 24), assigned := Fx.bit w 24, level := Fx.bits w 28 25, immediate := Fx.bit w 29 }

/-- The crosspoint of a basic field: level, flags, precedence level (R107, R484). -/
def basicCross (v : Nat) : Cross :=
  { gain := levelWord (Fx.toSigned 32 v) (Fx.bit v 32), assigned := Fx.bit v 33, immediate := Fx.bit v 34, level := Fx.bits v 43 40 }

/-- A crosspoint of a lane record; a raw word stands over the basic field (R104, R484). -/
def crossIn (s : State) (lane : Nat) (r : PageRec) (m : Nat) : Cross :=
  match Tbl.find r (rawBase + m) with
  | some w => rawCross w.toNat
  | none => basicCross (recGet s (0x400 + lane) r m).toNat

/-- The 48-bit word of a crosspoint (R108). -/
def Cross.word (c : Cross) : Nat :=
  Fx.toUnsigned 24 c.gain + Fx.b2n c.assigned * 2 ^ 24 + c.level * 2 ^ 25 + Fx.b2n c.immediate * 2 ^ 29

def xpKey (lane m : Nat) : Nat := lane * 2048 + m

/-- Trim of a bus: level, polarity, mute (R111). -/
def busTrim (get : Nat → Int) : Int :=
  if get 0x1002 = 1 then 0 else let g := dbToGain (get 0x1000); if get 0x1001 = 1 then -g else g

/-- Step code and timeout in samples of a bus (R114, R116). -/
def busStep (get : Nat → Int) : Int := stepSizeCode (get 0x1008)
def busTimeout (s : State) (get : Nat → Int) : Nat := (Fx.roundAway (get 0x1009 * fsNow s) 1000000).toNat

/-- A bus's run state, its trim standing at its target where nothing is listed. -/
def busOf (s : State) (lane : Nat) : Bus :=
  match Tbl.find s.mix.bus lane with
  | some b => b
  | none => let g := busTrim (effGet s (0x400 + lane)); { trim := { g0 := g, g1 := g } }

def putBus (lane : Nat) (b : Bus) (s : State) : State := { s with mix := { s.mix with bus := Tbl.put s.mix.bus lane b } }

/-- A commit of a lane page (R109, R111, R114, R117): every crosspoint that either bank lists, and the trim. -/
def commitLane (lane : Nat) (old new : PageRec) (s : State) : State :=
  let get := recGet s (0x400 + lane) new
  let ids := (old ++ new).foldl (fun l f =>
    let m := if rawBase ≤ f.1 then f.1 - rawBase else f.1
    if (f.1 < 2048 ∨ rawBase ≤ f.1) ∧ !l.contains m then m :: l else l) []
  let xp := ids.foldl (fun t m =>
    let c := crossIn s lane new m
    let x := Tbl.getD t (xpKey lane m) {}
    Tbl.putD t (xpKey lane m) (x.commit c.gain c.assigned c.immediate (busStep get) (busTimeout s get)) {}) s.mix.xp
  let b := busOf s lane
  putBus lane { b with trim := b.trim.retarget (busTrim get) (get 0x1003).toNat } { s with mix := { s.mix with xp := xp } }

/-- Terms on their way out whose gain has reached zero stop at a boundary (R117). -/
def retireTerms (s : State) : State :=
  { s with mix := { s.mix with xp := (s.mix.xp.map fun (k, x) => (k, x.retire)).filter fun e => decide (e.2 ≠ {}) } }

/-- A mix input's selection at a boundary (R106). -/
def inputBoundary (s : State) (m : Nat) : State :=
  let p := 0x200 + m / 256
  let r := effRec s p
  let get := fun k => recGet s p r (m % 256 * 8 + k)
  let src := selIn s r m
  let i := Tbl.getD s.mix.inp m {}
  let i := { i with sel := i.sel.boundary src (get 1).toNat false (present s), samples := [], flags := [],
                    presPrev := i.presNow }
  { s with mix := { s.mix with inp := Tbl.putD s.mix.inp m i {} } }

/-- All mix inputs at the boundary: those a bank in force selects for and those that still carry something. -/
def selectBoundary (s : State) : State :=
  let a := (selectedIn (effTable s)).map (·.1)
  let b := (s.mix.inp.map (·.1)).filter fun x => !a.contains x
  (a ++ b).foldl inputBoundary s

/-- The presence hold after a frame's samples (R119). -/
def presenceHold (thr : Int) (hold : Nat) : List Int → Nat → Nat
  | [], h => h
  | x :: xs, h => presenceHold thr hold xs (if thr < levelOf (x.natAbs : Int) then hold else h - 1)

/-- Fetch a mix input once per frame: samples, zero-crossing flags, presence (R106, R115, R119). -/
def fetchInput (m : Nat) (s : State) : State :=
  let i := Tbl.getD s.mix.inp m {}
  if i.samples ≠ [] then s
  else
    let (ys, k) := deliver s i.sel 2
    let get := fun j => effGet s (0x200 + m / 256) (m % 256 * 8 + j)
    let h := presenceHold (Fx.roundAway (get 2 * 65536) 100) (Fx.roundAway (get 3 * fsNow s) 1000000).toNat ys i.hold
    let fl := zcFlags i.lastX ys
    let i := { i with
      sel := k, samples := ys, flags := fl, lastX := ys.getLast?.getD i.lastX, hold := h
      presNow := decide (0 < h), zcLast := fl.getLast?.getD true }
    { s with mix := { s.mix with inp := Tbl.put s.mix.inp m i } }

/-- Terms that a lane computes in this frame: live crosspoints, ascending. -/
def liveTerms (s : State) (lane : Nat) : List Nat :=
  (s.mix.xp.filter fun e => decide (e.1 / 2048 = lane) && e.2.live).map fun e => e.1 % 2048

/-- Run a crosspoint over the samples: products by position, and the crosspoint after them (R110, R115, R116). -/
def termRun : XPoint → List Int → List Bool → List Int × XPoint
  | x, y :: ys, f :: fs =>
    let x := x.sample f
    let (ps, x') := termRun x ys fs
    (y * x.applied :: ps, x')
  | x, y :: ys, [] => let (ps, x') := termRun x ys []; (y * x.applied :: ps, x')
  | x, [], _ => ([], x)

/-- Add products into a level's partial sums (R110). -/
def addProducts (level : Nat) : Nat → List Int → Tbl Int → Tbl Int
  | _, [], t => t
  | p, v :: vs, t => addProducts level (p + 1) vs (Tbl.put t (level * 32 + p) (Tbl.getD t (level * 32 + p) 0 + v))

/-- A trigger word is set, by the values at the end of the previous processing frame (R119). `flags` reads the control
flags of that frame. -/
def triggered (s : State) (flags : Nat → Bool) (w : Nat) : Bool :=
  let i := w % 2 ^ 16
  if w = 0xFFFFFFFF then false
  else if w / 2 ^ 30 = 0 then (Tbl.getD s.mix.inp i {}).presPrev
  else if w / 2 ^ 30 = 1 then decide (0 < (Tbl.getD s.blk.st (inStripPage i + 9) {}).hold)
  else if w / 2 ^ 30 = 2 then flags i
  else false

/-- Levels of a bus that are triggered (R118, R119). -/
def triggeredLevels (s : State) (flags : Nat → Bool) (lane : Nat) : List Nat :=
  (List.range 16).filter fun l => (List.range 8).any fun k =>
    triggered s flags (effGet s (0x400 + lane) (0x1100 + l * 16 + 8 + k)).toNat

/-- The limiter of a bus as a dynamics block (R112). -/
def busLimiter (get : Nat → Int) : DynParams :=
  { kind := .limiter, thr := Fx.roundAway (get 0x1005 * 65536) 100, ratio := 0, range := 0,
    knee := Fx.roundAway (get 0x1006 * 65536) 100, hyst := 0, attack := 0, holdSmp := 0, release := get 0x1007,
    makeup := 0, look := 0, rms := false, rmsUs := 0, keyFreq := 0 }

/-- Step the envelopes of all levels by one sample; level l's depth (a cut acts as 80 dB), attack, release (R120). -/
def stepEnvelopes (fs : Int) (get : Nat → Int) (b : Bus) : Bus :=
  let env := (List.range 16).foldl (fun t l =>
    let f := fun k => get (0x1100 + l * 16 + k)
    let depth := if f 0 = dbOff then 8000 else f 0
    let e := Tbl.getD t l 0
    let e := if depth = 0 ∧ e = 0 then 0 else duckStep e (b.trig.contains l) depth (f 1) (f 2) fs
    Tbl.putD t l e 0) b.env
  let low := (List.range 16).foldl (fun t l => Tbl.putD t l (min (Tbl.getD t l 0) (Tbl.getD env l 0)) 0) b.envMin
  { b with env := env, envMin := low }

/-- D_m: the lowest envelope of the levels above m (R121). -/
def duckOf (get : Nat → Int) (b : Bus) (m : Nat) : Int :=
  let up := (List.range 16).filter fun l => decide (m < l)
  let e := up.foldl (fun v l => min v (Tbl.getD b.env l 0)) 0
  let cut := up.any fun l => decide (get (0x1100 + l * 16) = dbOff) && decide (Tbl.getD b.env l 0 = e)
  duckGain e cut

/-- One sample of a bus from its partial sums: duck, sum, trim, limiter, store (R110 to R113). -/
def busSample (fs : Int) (get : Nat → Int) (sums : Tbl Int) (b : Bus) (p : Nat) : Int × Bus :=
  let b := stepEnvelopes fs get b
  let sum := (List.range 16).foldl (fun a m =>
    let v := Tbl.getD sums (m * 32 + p) 0
    if v = 0 then a else
      let d := duckOf get b m
      a + (if d = gainOne then v else Fx.roundEven (v * d) gainOne)) 0
  let tr := b.trim.step
  let t := Fx.sat 64 (Fx.roundEven (sum * tr.now) gainOne)
  let b := { b with trim := tr }
  -- the limiter works on the trimmed sum in Q21.43; its level is relative to full scale
  let p := busLimiter get
  if get 0x1004 = 1 then
    let lv := if t = 0 then -13107200 else Fx.roundAway (20 * Fx.log10 (Fx.ratio t.natAbs (2 ^ 43)) * 65536) Fx.one
    let g := staticGain p lv
    let e := if g < b.limGain then g else onePole b.limGain g (poleOf p.release fs)
    let y := Fx.roundEven (t * gainOf e) (gainOne * 2 ^ 20)
    let tw := thrWord p.thr
    let y := if tw < y then tw else if y < -tw then -tw else y
    (Fx.satQ23 y, { b with limGain := e, maxGr := max b.maxGr (Fx.roundAway (-e * 100) 65536).toNat,
                           sat := b.sat || decide (Fx.satQ23 y ≠ y) })
  else
    let y := Fx.roundEven t (2 ^ 20)
    (Fx.satQ23 y, { b with sat := b.sat || decide (Fx.satQ23 y ≠ y) })

/-- All samples of a bus. -/
def busRun (fs : Int) (get : Nat → Int) (sums : Tbl Int) : Nat → Nat → Bus → List Int × Bus
  | 0, _, b => ([], b)
  | n + 1, p, b =>
    let (y, b) := busSample fs get sums b p
    let (ys, b) := busRun fs get sums n (p + 1) b
    (y :: ys, b)

/-- The lane has taken its last term: it stores its bus (R110 to R113). A failed lane's outputs are discarded, and a
reader takes the bus that it stored last (R555). -/
def finishLane (lane : Nat) (s : State) : State :=
  let b := busOf s lane
  let (ys, b) := busRun (fsNow s) (effGet s (0x400 + lane)) b.sums s.sys.b 0 b
  let ys := if b.failed then b.last else ys
  let s := putBus lane { b with stored := true, last := ys } s
  { s with blk := { s.blk with cur := Tbl.put s.blk.cur (0x7000 + lane) ys } }

/-- Lanes with something to do in a frame: a listed bus or a live term. -/
def activeLanes (s : State) : List Nat :=
  (s.mix.xp.filter (·.2.live)).foldl (fun l e => if l.contains (e.1 / 2048) then l else l ++ [e.1 / 2048]) (s.mix.bus.map (·.1))

/-- The start of a lane's frame (R119): sums clear, triggers sampled; a lane with no term stores its bus at once. -/
def startLane (flags : Nat → Bool) (s : State) (lane : Nat) : State :=
  let b := busOf s lane
  let s := putBus lane { b with sums := [], taken := [], stored := false, failed := false, trig := triggeredLevels s flags lane } s
  if liveTerms s lane = [] then finishLane lane s else s

end Sys2Proof.Machine
end

