-- ==== Sys2Proof/Machine/FramePath.lean ====
section
/-!
DEFINITION. Library tasks over one frame (04, 07): strips and standalone instances read their sinks and side inputs, run
their blocks in order, and commit outputs and state together (R26, R72, R101, R159 to R162); what a failed task leaves
(R555).
-/
namespace Sys2Proof.Machine
open Sys2Proof

/-! ### Blocks of a task -/

/-- The fields of a page in force, and its raw words. -/
def pageGet (s : State) (p : Nat) : Nat → Int := effGet s p
def pageRaw (s : State) (p : Nat) : Nat → Option Int := fun i => Tbl.find (effRec s p) (rawBase + i)

/-- A block's run state; a block that has not run yet starts from its committed parameters. -/
def blkOf (s : State) (p : Nat) (k : BlockKind) : BlkState :=
  match Tbl.find s.blk.st p with
  | some b => b
  | none => initBlk k (fsNow s) (pageGet s p) (pageRaw s p)

/-- Samples of a source with silence in place of what is missing. -/
def fullSamples (s : State) (src : Option Nat) (prev : Bool) : List Int :=
  (sourceSamples s src prev ++ List.replicate s.sys.b 0).take s.sys.b

/-- A side input inside a strip: a selection of a source endpoint at the strip's stage (R75). -/
def sideOf (s : State) (p id stage : Nat) : Option (List Int) × Bool :=
  let v := effGet s p id
  if v = noEndpoint then (none, false)
  else
    let src := v.toNat
    let here := present s src
    (some (if here then fullSamples s (some src) (againstOrder (stageOf s src) stage) else List.replicate s.sys.b 0), here)

/-- The field that holds the side input of a block: the key of a dynamics block, the sense of an ambient gain. -/
def sideField : BlockKind → Option Nat
  | .gate | .expander | .gateOrExpander | .compressor | .limiter => some 14
  | .ancGain => some 0
  | _ => none

/-- The run of one block of a strip, and its state put back. `pilot` lowers a limiter's threshold (R99); at the positions
`bad` the delay's pool word fails twice (R79). -/
def stripBlk (s : State) (p stage : Nat) (k : BlockKind) (pilot : Int) (bad : List Nat) (x : List Int) : List Int × BlkState × Bool :=
  let (side, here) := match sideField k with | some f => sideOf s p f stage | none => (none, false)
  let c : RunCtx := { fs := fsNow s, n := s.sys.b, side := side, sideHere := here, pilot := pilot, bad := bad }
  let (ys, b, cl) := runBlk c k (pageGet s p) (pageRaw s p) (blkOf s p k) [x]
  (ys.getD 0 [], b, cl)

/-- A strip in the making: samples, block states, clip, the samples after trim. -/
structure StripRun where
  x : List Int
  st : Tbl BlkState
  clip : Bool := false
  pre : List Int
  deriving DecidableEq, Repr

/-- The blocks of a strip in order (R101); the presence detector reads the post-trim samples (R98). -/
def runStripBlocks (s : State) (base stage : Nat) (pl : Place) (pilot : Int) (bad : List Nat) : List Nat → StripRun → StripRun
  | [], r => r
  | o :: os, r =>
    match stripBlock pl o with
    | none => runStripBlocks s base stage pl pilot bad os r
    | some k =>
      let (y, b, cl) := stripBlk s (base + o) stage k pilot bad (if k = .presence then r.pre else r.x)
      let r := { r with
        x := if k = .presence then r.x else y, st := Tbl.put r.st (base + o) b, clip := r.clip || cl
        pre := if k = .trim then y else r.pre }
      runStripBlocks s base stage pl pilot bad os r

/-- Built-in metering of a strip: sample peak and RMS with 300 ms (R98). -/
def meterRun (fs type hold fall tau : Int) (m : Meter) (xs : List Int) : Meter :=
  xs.foldl (fun m x => meterStep fs type hold fall tau m x) m

def stripMeterKey (kind strip : Nat) (post : Bool) : Nat := kind * 65536 + strip * 2 + Fx.b2n post

/-- Meter a point of a strip. -/
def meterPoint (key : Nat) (xs : List Int) (s : State) : State :=
  let m := meterRun (fsNow s) 0 0 0 300000 (Tbl.getD s.blk.stripMeter key {}) xs
  { s with blk := { s.blk with stripMeter := Tbl.put s.blk.stripMeter key m } }

/-- Put a source's samples of the frame in process. -/
def putSource (id : Nat) (xs : List Int) (s : State) : State :=
  { s with blk := { s.blk with cur := Tbl.put s.blk.cur id xs } }

/-- A task's clip flag is sticky until a meter read (R72). -/
def noteClip (page : Nat) (c : Bool) (s : State) : State :=
  if c && !s.blk.clip.contains page then { s with blk := { s.blk with clip := page :: s.blk.clip } } else s

/-- The amplitude by which the pilot insert of an output strip lowers its limiter's threshold: what it adds at most in the
frame, its ramps included (R99). -/
def pilotLevel (s : State) (base : Nat) (pl : Place) : Int :=
  if pl = .outputStrip ∧ effGet s (base + 8) 3 = 1 then
    let r := (blkOf s (base + 8) .pilot).ramp
    max r.now r.g1
  else 0

/-- Run a strip: samples in, output endpoint, metering, state (R101). -/
def runStrip (base stage : Nat) (pl : Place) (kind strip : Nat) (bad : List Nat) (x : List Int) (out : Nat) (s : State) : State :=
  let r := runStripBlocks s base stage pl (pilotLevel s base pl) bad [1, 2, 3, 4, 5, 6, 7, 8, 9, 10] { x := x, st := s.blk.st, pre := x }
  let s := { s with blk := { s.blk with st := r.st } }
  noteClip base r.clip (meterPoint (stripMeterKey kind strip true) r.x
    (meterPoint (stripMeterKey kind strip false) r.pre (putSource out r.x s)))

/-- A pin has a live connection: its sink carries a source or fades (R75). -/
def pinConnected (s : State) (sink : Nat) : Bool := Tbl.has s.route.sinks sink

/-- Deliver the moves into a list of sinks. -/
def moveSinks (sinks : List Nat) (s : State) : State := sinks.foldl (fun s k => moveSink k s) s

/-- Run a standalone instance: its sinks, its block, its outputs (R67, R75). The run of a long FIR is its last partition,
which adds the partial sums that the earlier ones have committed (R87). -/
def runInstance (page : Nat) (i : BlockInst) (bad : List Nat) (s : State) : State :=
  let key := page + 65536 * (i.parts - 1)
  let sinks := (List.range i.ins).map fun j => i.pinBase + j
  let s := moveSinks sinks s
  let side := match sideField i.kind with | some _ => some (i.pinBase + i.ins - 1) | none => none
  let xs := (match side with | some k => sinks.filter (· != k) | none => sinks).map (sinkSamples s)
  let c : RunCtx :=
    { fs := fsNow s, n := s.sys.b, bad := bad
      parts := (List.range (i.parts - 1)).map fun j => (Tbl.getD s.blk.st (page + 65536 * j) {}).part
      side := match side with | some k => if pinConnected s k then some (sinkSamples s k) else none | none => none
      sideHere := match side with
        | some k => (match Tbl.find s.route.sinks k with | some q => q.carried.isSome | none => false)
        | none => false }
  let (ys, b, cl) := runBlk c i.kind (pageGet s page) (pageRaw s page) (blkOf s key i.kind) xs
  let s := { s with blk := { s.blk with st := Tbl.put s.blk.st key b } }
  noteClip page cl ((List.range i.outs).foldl (fun s k => putSource (i.pinBase + i.ins + k) (ys.getD k []) s) s)

/-- An earlier partition of a long FIR commits its partial sums (R87). -/
def runPartition (page k : Nat) (i : BlockInst) (s : State) : State :=
  let s := moveSinks [i.pinBase] s
  let key := page + 65536 * k
  let x := sinkSamples s i.pinBase
  let n := (pageGet s page 0).toNat
  let b := blkOf s key i.kind
  let (ps, cl) := firPartial (tapsOf (pageGet s page) (pageRaw s page)) (1024 * k) n b.line x
  let line := (x.reverse ++ b.line).take n
  noteClip page cl { s with blk := { s.blk with st := Tbl.put s.blk.st key { b with line := line, part := ps } } }

/-- A test generator's frame (R97). -/
def runGenerator (n : Nat) (s : State) : State :=
  let p := 0x700 + n
  let (xs, b) := genRun (fsNow s) (pageGet s p) s.sys.b (blkOf s p .generator)
  putSource (0x10000 + n) xs { s with blk := { s.blk with st := Tbl.put s.blk.st p b } }

/-! ### Meters and detectors (R98, R100) -/

def zoneOf (s : State) (n : Nat) : Zone := Tbl.getD s.supv.zone n {}

/-- The readings at the end of a detector's block (R100). A ratio without a sensed amplitude or a calibration is a free
value (log entry 5). -/
def detectorBlock (n : Nat) (freq thr : Int) (d : PilotDet) (s : State) : State :=
  let z := zoneOf s n
  let a := pilotAmp (fsNow s) freq d.count d.s1 d.s2
  let v := pilotAmp (fsNow s) freq d.count d.d1 d.d2
  let (q, s) := match z.cal with
    | some (dc, sc) => if a = 0 ∨ dc = 0 then drawFree 16 s else (min 65535 ((v * sc * 256 + a * dc / 2) / (a * dc)), s)
    | none => drawFree 16 s
  let d := { d with
    count := 0, s1 := 0, s2 := 0, d1 := 0, d2 := 0, fresh := true, amp := a, drive := v
    present := decide (Fx.roundAway (Fx.dbGain thr * 2 ^ 23) Fx.one < a), ratio := q }
  { s with blk := { s.blk with pilot := Tbl.put s.blk.pilot n d } }

/-- A detector's frame: its sense return against the named strip's output. -/
def detectorFrame (n : Nat) (s : State) : State :=
  let get := effGet s (0x800 + n)
  let strip := (get 2).toNat
  let freq := min (effGet s (outStripPage strip + 8) 1) (fsNow s * 45)
  let xs := sinkSamples s (0x10100 + n)
  let ys := Tbl.getD s.blk.cur (0x7400 + strip) []
  let size := pilotBlock (fsNow s) get
  (List.range s.sys.b).foldl (fun s k =>
    let d := pilotSample (fsNow s) freq (Tbl.getD s.blk.pilot n {}) (xs.getD k 0) (ys.getD k 0)
    if size ≤ d.count then detectorBlock n freq (get 1) d s
    else { s with blk := { s.blk with pilot := Tbl.put s.blk.pilot n d } }) s

/-- A meter's frame (R98). -/
def meterFrame (n : Nat) (s : State) : State :=
  let get := effGet s (0x800 + n)
  let m := meterRun (fsNow s) (get 0) (get 1) (get 2) (get 3) (Tbl.getD s.blk.meter n {}) (sinkSamples s (0x10100 + n))
  { s with blk := { s.blk with meter := Tbl.put s.blk.meter n m } }

/-- An endpoint of the meter and detector range is a pilot-tone detector (R481; log entry 18). -/
def isPilotPage (s : State) (n : Nat) : Bool := decide (3 ≤ effGet s (0x800 + n) 0)

/-- The page a core runs for, if any. -/
def CoreRun.page : CoreRun → Option Nat
  | .idle => none
  | .task p => some p
  | .heldQueue p => some p
  | .heldFlags p _ => some p
  | .ending p => some p

/-! ### Completion of sources (R26, R156) -/

/-- A task has ended in this frame, in whatever way; a page with no task is complete. -/
def taskDone (s : State) (key : Nat) : Bool :=
  match Tbl.find s.frond.mark key with
  | some .committed => true
  | some .failed => true
  | none => true
  | _ => false

/-- The value of a source for the frame in process is complete (R26). -/
def sourceDone (s : State) (src : Nat) : Bool :=
  if 0x6800 ≤ src ∧ src < 0x7000 then taskDone s (inStripPage (src - 0x6800))
  else if 0x7000 ≤ src ∧ src < 0x7200 then
    let n := src - 0x7000
    if Tbl.has s.frond.mark (busStripPage n) then taskDone s (busStripPage n)
    else (match Tbl.find s.mix.bus n with | some b => b.stored | none => true)
  else if 0x7400 ≤ src ∧ src < 0x7600 then taskDone s (outStripPage (src - 0x7400))
  else if 0x10000 ≤ src ∧ src < 0x10100 then taskDone s (0x700 + (src - 0x10000))
  else if 0x8000 ≤ src ∧ src < 0x10000 then
    match s.blk.inst.find? fun e => decide (e.2.pinBase ≤ src) && decide (src < e.2.pinBase + e.2.ins + e.2.outs) with
    | some (p, i) => taskDone s (p + 65536 * (i.parts - 1))
    | none => match s.frond.tasks.find? fun e => e.2.outs.contains src with
      | some (p, _) => taskDone s p
      | none => true
  else true

/-- A sink's carried and fading sources are complete, as far as they are read in the same frame. -/
def sinkDone (s : State) (sink : Nat) : Bool :=
  match Tbl.find s.route.sinks sink with
  | none => true
  | some k =>
    let ok := fun (src : Option Nat) flag => match src with
      | some c => readsPrev s (some c) (stageOf s sink) flag || sourceDone s c
      | none => true
    ok k.carried k.prevFrame && (match k.xfade with | some x => ok x.old x.oldPrev | none => true)

/-- A strip's side input is complete. -/
def sideDone (s : State) (p id stage : Nat) : Bool :=
  let v := effGet s p id
  decide (v = noEndpoint) || againstOrder (stageOf s v.toNat) stage || sourceDone s v.toNat

/-- Every source that a task reads in the same frame is complete. -/
def taskReady (s : State) (key : Nat) : Bool :=
  let p := key % 65536
  match pageName (fam s) p with
  | .block .inputStrip n 0 _ => sinkDone s (0x6000 + n) && [6, 7, 8].all fun o => sideDone s (p + o) 14 1
  | .block .busStrip n 0 _ =>
    (match Tbl.find s.mix.bus n with | some b => b.stored | none => true) && sideDone s (p + 2) 14 3 && sideDone s (p + 3) 0 3
  | .block .outputStrip n 0 _ => sinkDone s (0x7200 + n) && sideDone s (p + 7) 14 4
  | .block .alone n 0 .detector =>
    sinkDone s (0x10100 + n) && (!isPilotPage s n || sourceDone s (0x7400 + (effGet s p 2).toNat))
  | .instance_ q =>
    (match Tbl.find s.blk.inst q with
     | some i => ((List.range i.ins).all fun j => sinkDone s (i.pinBase + j)) &&
         (decide (key / 65536 + 1 < i.parts) || (List.range (i.parts - 1)).all fun j => taskDone s (q + 65536 * j))
     | none => match Tbl.find s.frond.tasks q with
       | some t => (t.ins ++ t.sides).all (sinkDone s)
       | none => true)
  | _ => true

/-- The work of a library task, all of it at once: the run reaches storage only through what it commits (R161). At the
positions `bad` its delay's pool word fails twice. An earlier partition of a FIR commits nothing that any other task reads. -/
def runLibrary (key : Nat) (bad : List Nat) (s : State) : State :=
  let p := key % 65536
  match pageName (fam s) p with
  | .block .inputStrip n 0 _ =>
    let s := moveSink (0x6000 + n) s
    runStrip p 1 .inputStrip 0 n bad (sinkSamples s (0x6000 + n)) (0x6800 + n) s
  | .block .busStrip n 0 _ => runStrip p 3 .busStrip 1 n bad (fullSamples s (some (0x7000 + n)) false) (0x7000 + n) s
  | .block .outputStrip n 0 _ =>
    let s := moveSink (0x7200 + n) s
    runStrip p 4 .outputStrip 2 n bad (sinkSamples s (0x7200 + n)) (0x7400 + n) s
  | .block .alone n 0 .generator => runGenerator n s
  | .block .alone n 0 .detector =>
    let s := moveSink (0x10100 + n) s
    if isPilotPage s n then detectorFrame n s else meterFrame n s
  | .instance_ q =>
    match Tbl.find s.blk.inst q with
    | some i => if key / 65536 + 1 < i.parts then runPartition q (key / 65536) i s else runInstance q i bad s
    | none => s
  | _ => s

/-- The page of the delay block in a library task, where it has delay memory in use (R77). -/
def delayPage (s : State) (key : Nat) : Option Nat :=
  let p := key % 65536
  let q : Option Nat := match pageName (fam s) p with
    | .block .inputStrip _ 0 _ => some (p + 2)
    | .block .busStrip _ 0 _ => some (p + 4)
    | .block .outputStrip _ 0 _ => some (p + 2)
    | .instance_ q => (match Tbl.find s.blk.inst q with | some i => if i.kind = .delay then some q else none | none => none)
    | _ => none
  match q with
  | some q => if 0 < pageGet s q 0 then some q else none
  | none => none

/-- Output endpoints of a task. -/
def taskOuts (s : State) (key : Nat) : List Nat :=
  let p := key % 65536
  match pageName (fam s) p with
  | .block .inputStrip n 0 _ => [0x6800 + n]
  | .block .busStrip n 0 _ => [0x7000 + n]
  | .block .outputStrip n 0 _ => [0x7400 + n]
  | .block .alone n 0 .generator => [0x10000 + n]
  | .instance_ q =>
    match Tbl.find s.blk.inst q with
    | some i => if key / 65536 + 1 < i.parts then [] else (List.range i.outs).map fun k => i.pinBase + i.ins + k
    | none => match Tbl.find s.frond.tasks q with
      | some t => t.outs
      | none => []
  | _ => []

def setMark (key : Nat) (m : TaskMark) (s : State) : State :=
  { s with frond := { s.frond with mark := Tbl.put s.frond.mark key m } }

/-- A task's outputs are handled as for a missed deadline (R555): the frame is invalid, readers take what the producer
last committed. -/
def failTask (key : Nat) (s : State) : State :=
  let s := setMark key .failed { s with frond := { s.frond with invalid := true } }
  (taskOuts s key).foldl (fun s id => putSource id (Tbl.getD s.blk.prev id []) s) s

/-- The frond that a task is placed on. -/
def frondOf (s : State) (key : Nat) : Nat := match Tbl.find s.frond.placed key with | some p => p.frond | none => 0

/-- Index of a task record: first page, and the location of the flag (R350). -/
def taskIndex (key loc : Nat) : Nat := key % 65536 + loc * 65536

/-- A library block's task, rather than an expert image's (R67, R179). -/
def isLibrary (s : State) (key : Nat) : Bool := !Tbl.has s.frond.tasks (key % 65536)

end Sys2Proof.Machine
end

