-- ==== Sys2Proof/Machine/PortOps.lean ====
section
/-!
DEFINITION. Serial audio ports at work (09): formats and rates (R223 to R229), the hold stage (R233, R234), rings at a
sample tick (R25, R61), marking (R235 to R240), violations (R245), and the application of port configuration (R244).
-/
namespace Sys2Proof.Machine
open Sys2Proof

def portOf (s : State) (p : Nat) : Port := Tbl.getD s.port.port p {}
def putPort (p : Nat) (x : Port) (s : State) : State := { s with port := { s.port with port := Tbl.put s.port.port p x } }

/-- Frame rate of a port in Hz (R225). -/
def portHz (s : State) (p : Nat) : Nat := foreignRate (portCfg s p).rate

/-- The port runs at the engine's rate (R225). -/
def atEngineRate (s : State) (p : Nat) : Bool := decide (portHz s p = fsOf s.sys.rate)

/-- Slots that a port frame may hold at a rate (R225). -/
def maxSlots (hz : Nat) : Nat := if hz ≤ 48000 then 32 else if hz ≤ 96000 then 16 else 8

/-- Samples of hold before the ramp: 4 ms less 64 samples (R233). -/
def holdSamples (hz : Nat) : Nat := hz * 4 / 1000 - 64

/-! ### The hold stage (R233) -/

/-- Ramp and crossfade values: full precision, convergent rounding, saturation. -/
def scaleBy (num den : Int) (xs : List Int) : List Int := xs.map fun x => Fx.satQ23 (Fx.roundEven (x * num) den)

def crossBy (j : Nat) (h x : List Int) : List Int :=
  List.zipWith (fun a b => Fx.satQ23 (Fx.roundEven (a * (16 - (j : Int)) + b * j) 16)) h x

/-- One sample of the hold stage, the safe state aside: what it sends and its phase after. -/
def HoldStage.next (k : HoldStage) (hMax : Nat) (valid : Bool) (sec : List Int) : List Int × HoldStage :=
  let zeros := sec.map fun _ => (0 : Int)
  let hold := fun (k : HoldStage) => (k.last, { k with phase := .hold 1, held := k.last })
  let up := fun (k : HoldStage) => (scaleBy 1 64 sec, { k with phase := .up 1 })
  match k.phase with
  | .driving => if valid then (sec, k) else hold k
  | .hold n =>
    if valid then (crossBy 1 k.held sec, { k with phase := .cross 1 })
    else if hMax ≤ n then (scaleBy 63 64 k.held, { k with phase := .down 1 })
    else (k.held, { k with phase := .hold (n + 1) })
  | .down j =>
    if valid then (if j = 0 then (crossBy 1 k.held sec, { k with phase := .cross 1 }) else up k)
    else if 64 ≤ j then (zeros, { k with phase := .silent })
    else (scaleBy (63 - j) 64 k.held, { k with phase := .down (j + 1) })
  | .silent => if valid then up k else (zeros, k)
  | .cross j =>
    if !valid then hold k
    else if 16 ≤ j then (sec, { k with phase := .driving })
    else (crossBy (j + 1) k.held sec, { k with phase := if j + 1 = 16 then .driving else .cross (j + 1) })
  | .up j =>
    if !valid then hold k
    else (scaleBy (j + 1) 64 sec, { k with phase := if 63 ≤ j then .driving else .up (j + 1) })

/-- The hold stage under the safe state (R233): a ramp of 64 samples over what the other rows send, then silence; when
it is cleared the port is silent and returns by the ramp. -/
def HoldStage.step (k : HoldStage) (hMax : Nat) (valid safe : Bool) (sec : List Int) : List Int × HoldStage :=
  if safe then
    let (out, k') := k.next hMax valid sec
    let j := (match k.safe with | some j => j | none => 0) + 1
    let y := scaleBy (64 - (min j 64 : Nat)) 64 out
    (y, { k' with safe := some (min j 64), last := y })
  else
    let k := match k.safe with | some _ => { k with safe := none, phase := .silent } | none => k
    let (out, k') := k.next hMax valid sec
    (out, { k' with last := out })

/-- The state of a hold stage as PORT.STATUS reports it (R485). -/
def HoldStage.code (k : HoldStage) : Nat :=
  match k.safe, k.phase with
  | some _, _ => 4
  | none, .driving => 0
  | none, .hold _ => 1
  | none, .silent => 3
  | none, _ => 2

/-- The audio that a stage sends is its slot's valid sample (R235). -/
def HoldStage.clean (k : HoldStage) : Bool := k.phase = .driving && k.safe.isNone

/-! ### Violations (R245) -/

/-- Where a violation stands: a port, a slot of it or 32 for the whole port, a kind. -/
def standKey (p slot kind : Nat) : Nat := (p * 64 + slot) * 256 + kind

/-- A violation of a port or slot: logged when it starts, then at most once per second, and counted (R245). -/
def violationAt (p slot kind sev index detail : Nat) (s : State) : State :=
  let key := standKey p slot kind
  let s := if s.port.standing.contains key then s else { s with port := { s.port with standing := key :: s.port.standing } }
  let x := portOf s p
  reportLimited (Src.sap p) kind sev index detail (putPort p { x with violations := x.violations + 1 } s)

def portViolation (p kind sev index : Nat) (s : State) : State := violationAt p 32 kind sev index 0 s

/-- Proofs run for n blocks (R235). -/
def startProofBlocks (p n : Nat) (s : State) : State :=
  let x := portOf s p
  putPort p { x with proofLeft := max x.proofLeft n } s

/-- A violation of a port or slot ends: one END record once no slot of the port has it, and proofs for 8 blocks (R235,
R245). -/
def violationEnds (p slot kind sev : Nat) (s : State) : State :=
  let key := standKey p slot kind
  if s.port.standing.contains key then
    let rest := s.port.standing.filter (· != key)
    let s := startProofBlocks p 8 { s with port := { s.port with standing := rest } }
    if rest.any fun k => decide (k / 16384 = p) && decide (k % 256 = kind) then s
    else endCondition (Src.sap p) kind sev
      { s with flt := { s.flt with violations := Tbl.erase s.flt.violations (faultKey (Src.sap p) kind) } }
  else s

def portViolationEnds (p kind sev : Nat) (s : State) : State := violationEnds p 32 kind sev s

/-! ### Bridged ports (R93 to R95) -/

/-- The ASRC instance of a port and direction. -/
def asrcOf (s : State) (p dir : Nat) : Option Nat :=
  (s.blk.inst.find? fun e => e.2.kind = .asrc && e.2.live && decide (effGet s e.1 0 = p) && decide (effGet s e.1 1 = dir)).map (·.1)

/-- The ASRC of a port loses its lock: slots ramp to zero over 64 samples (R95). -/
def asrcUnlock (p : Nat) (s : State) : State :=
  [0, 1].foldl (fun s dir =>
    match asrcOf s p dir with
    | none => s
    | some page =>
      let a := Tbl.getD s.blk.asrc page {}
      if a.locked then
        report (Src.sap p) K.asrcUnlock 2 dir 0
          { s with blk := { s.blk with asrc := Tbl.put s.blk.asrc page { a with locked := false, ramp := a.ramp.retarget 0 64 } } }
      else s) s

/-- The ASRCs of a port that stops begin anew, their slots at zero until they lock (R95, R244). -/
def asrcDrop (p : Nat) (s : State) : State :=
  [0, 1].foldl (fun s dir => match asrcOf s p dir with
    | some page => { s with blk := { s.blk with asrc := Tbl.erase s.blk.asrc page } }
    | none => s) s

/-- A port bridged by an ASRC in either direction. -/
def isBridged (s : State) (p : Nat) : Bool := (asrcOf s p 0).isSome || (asrcOf s p 1).isSome

/-- A sample at position k of a run under an ASRC's ramp (R95). -/
def AsrcState.ramped (a : AsrcState) (k : Nat) (v : Int) : Int :=
  let r := a.ramp
  let g := min r.len (r.pos + k + 1)
  if r.len ≤ g ∧ r.g1 = gainOne then v else Fx.roundEven (v * (r.g0 + (r.g1 - r.g0) * g / (max 1 r.len))) gainOne

/-- The ramp after n samples: one advance, whatever the number of slots (R95). -/
def AsrcState.passed (a : AsrcState) (n : Nat) : AsrcState := { a with ramp := { a.ramp with pos := min a.ramp.len (a.ramp.pos + n) } }

/-- The instance is unlocked and its ramp has ended: its slots are zero (R95). -/
def AsrcState.silent (a : AsrcState) : Bool := !a.locked && decide (a.ramp.len ≤ a.ramp.pos)

/-- The samples of a frame, by slot, into the converters of an instance at a ratio and phase (R94, R96). -/
def AsrcState.feed (a : AsrcState) (cols : List (Nat × List Int)) (fig : Nat × Nat) : AsrcState :=
  { a with acc := cols.map fun e => (e.1, Config.asrcStep (Tbl.getD a.acc e.1 0) e.2 fig.1 fig.2) }

/-- The converted sample of a slot at position k, before the ramp (R94). -/
def AsrcState.converted (a : AsrcState) (slot k : Nat) : Int := (Config.asrcSample (Tbl.getD a.acc slot 0) k).toInt

/-! ### Sections (R25, R61, R62) -/

/-- Word of a section position by physical slot: the packed index counts the enabled slots below (R61). -/
def packedIndex (mask slot : Nat) : Nat := Fx.popBelow mask slot

/-- The word of a physical slot at a position of a section, by the mask under which the section was packed: a slot that a later
mask enables reads as zero (R61, R62). -/
def Section61.word (x : Section61) (slot k : Nat) : Nat :=
  match Tbl.find x.pos k with
  | some (ws, _) => if Fx.bit x.mask slot then ws.getD (packedIndex x.mask slot) 0 else 0
  | none => 0

/-- The enabled slots of a direction in use, ascending. -/
def slotsInUse (s : State) (p : Nat) (output : Bool) : List Nat :=
  (List.range (slotCount s p)).filter fun i => Fx.bit (slotMask s p output) i

/-- The slots in use as a mask (R62). -/
def useMask (s : State) (p : Nat) (output : Bool) : Nat := slotMask s p output % 2 ^ slotCount s p

/-- The slots that an ASRC bridges: those that the engine's family has (R47, R93). -/
def bridgedSlots (s : State) (p : Nat) (output : Bool) : List Nat := (slotsInUse s p output).filter fun i => decide (i < portSlots (fam s))

/-- Sample period index in the frame in progress. -/
def framePos (s : State) : Nat := s.clk.sampleJ - s.clk.boundaryJ

/-- Sample positions of a section: B, or those that the ring of a foreign-rate port holds (R61, R225). -/
def sectionSize (s : State) (p : Nat) : Nat :=
  if atEngineRate s p then s.sys.b else Fx.ceilDiv (s.sys.b * portHz s p) (fsNow s).toNat + 2

/-- Byte address of a port's ring in bulk memory: the rings stand in order at the start of the routing and frond overflow area,
16,384 bytes each (R61, R424; DESIGN CHOICE, log entry 80). -/
def ringAddress (s : State) (p : Nat) (output : Bool) : Nat :=
  (s.sys.split.getD 0 64 + s.sys.split.getD 1 16) * 1048576 + (2 * p + Fx.b2n output) * 16384

/-- Byte address of the word of packed index i at a position of section j: word offset (j × B + p) × N + i (R61). -/
def ringWordAddress (s : State) (p : Nat) (output : Bool) (n j pos i : Nat) : Nat :=
  ringAddress s p output + 4 * ((j * sectionSize s p + pos) * n + i)

/-- The packed words of a position, written into the ring in bulk memory (R61). -/
def putRingWords (p : Nat) (output : Bool) (j pos : Nat) (words : List Nat) (s : State) : State :=
  let n := words.length
  let m := (words.zip (List.range n)).foldl (fun (m : Memory) e => m.writeLE (ringWordAddress s p output n j pos e.2) e.1 4) s.mem.bulk
  { s with mem := { s.mem with bulk := m } }

/-- Write one position of an input section: packed words and validity (R61, R234). -/
def putInPos (p frame pos : Nat) (words : List Nat) (valid : Bool) (s : State) : State :=
  let x := portOf s p
  let k := frame % 4
  let old := Tbl.getD x.inRing k {}
  let sec : Section61 := if old.frame = frame ∧ old.pos ≠ [] then old else { frame := frame, mask := useMask s p false }
  putRingWords p false k pos words
    (putPort p { x with inRing := Tbl.put x.inRing k { sec with valid := sec.valid && valid, pos := Tbl.put sec.pos pos (words, valid) } } s)

/-- A captured port frame, or none, through the input's hold stage: the packed words and their validity (R234). -/
def stageIn (p : Nat) (got : Option (List Nat)) (s : State) : List Nat × Bool × State :=
  let x := portOf s p
  let valid := got.isSome && decide (x.state = 2 ∨ x.state = 3)
  let words := (List.range (frameSlots (portCfg s p))).map fun i => (got.getD []).getD i 0
  let (ys, k) := x.inHold.step (holdSamples (portHz s p)) valid false (words.map fun v => Fx.toSigned 24 (v / 256))
  let out := (slotsInUse s p false).map fun i => Fx.toUnsigned 24 (ys.getD i 0) * 256 + words.getD i 0 % 256
  (out, valid, putPort p { x with inHold := k } s)

/-- Finalise one writing period of an input port: the captured frame, or what the hold stage gives (R25, R234). -/
def finalisePeriod (p w : Nat) (s : State) : State :=
  let (out, valid, s) := stageIn p (Tbl.find (portOf s p).cap w) s
  let x := portOf s p
  let s := putPort p { x with cap := Tbl.keep (fun j _ => w < j) x.cap } s
  if s.clk.boundaryJ ≤ w ∧ w < s.clk.boundaryJ + s.sys.b then putInPos p s.sys.frameNo (w - s.clk.boundaryJ) out valid s else s

/-- A port frame of a foreign-rate input, captured or not, into the next position of its own ring, as far as that has one
(R225, R234). -/
def foreignPeriod (p : Nat) (got : Option (List Nat)) (s : State) : State :=
  let (out, valid, s) := stageIn p got s
  let sec := Tbl.getD (portOf s p).inRing (s.sys.frameNo % 4) {}
  let n := if sec.frame = s.sys.frameNo then sec.pos.length else 0
  if n < sectionSize s p then putInPos p s.sys.frameNo n out valid s else s

/-- The section an output port sends in the frame in progress: none when it was not written or is invalid (R233). -/
def outSection (x : Port) (frame : Nat) : Option Section61 :=
  match Tbl.find x.outRing (frame % 4) with
  | some sec => if sec.frame = frame ∧ sec.valid then some sec else none
  | none => none

/-- One sample of every slot through a port's output stage: hold, safe state, and the ramp with which a restart (R244), a
forced switch-over (R333) or an interruption of the signal path (R23) ends. What it loads is the slots' valid samples only
while no stage or ramp stands over it (R235, R236). -/
def stageOut (p : Nat) (valid : Bool) (audio : List Int) (s : State) : State :=
  let x := portOf s p
  let giving := decide (0 < s.pair.giveUp)
  let broken := s.sys.interrupted.isSome
  let stopping := decide (x.state = 3) || giving || broken
  let (ys, k) := x.outHold.step (holdSamples (portHz s p)) (valid && decide (x.state = 2 ∨ x.state = 3)) (safeInForce s) audio
  let n := if broken then min 64 (framePos s + 1) else if giving then min 64 s.pair.giveUp else min 64 (x.stopRamp + 1)
  let n := if decide (x.state = 3) && !giving then max n (min 64 (x.stopRamp + 1)) else n
  let ys := if stopping then scaleBy (64 - (n : Int)) 64 ys else ys
  let entry := (ys.map fun y => Fx.toUnsigned 24 y * 256, k.clean && !stopping)
  let j := if atEngineRate s p then s.clk.sampleJ else 0
  putPort p { x with
    outHold := k, stopRamp := if stopping then n else 0
    loaded := Tbl.put (Tbl.keep (fun q _ => decide (j < q + 4)) x.loaded) j entry } s

/-- The audio of every physical slot at a position of an output section; a slot that it does not hold is silent. -/
def sectionAudio (s : State) (p : Nat) (x : Section61) (k : Nat) : List Int :=
  let on := useMask s p true
  (List.range (frameSlots (portCfg s p))).map fun i => if Fx.bit on i then Fx.toSigned 24 (x.word i k / 256) else 0

/-- Silence on every physical slot. -/
def silentSlots (s : State) (p : Nat) : List Int := (List.range (frameSlots (portCfg s p))).map fun _ => (0 : Int)

/-- Load the outputs of a port at a sample tick through the hold stage (R25, R233). -/
def loadOutputs (p : Nat) (s : State) : State :=
  let x := portOf s p
  let pos := framePos s
  match if x.lost then none else outSection x s.sys.frameNo with
  | some q => if Tbl.has q.pos pos then stageOut p true (sectionAudio s p q pos) s else stageOut p false (silentSlots s p) s
  | none => stageOut p false (silentSlots s p) s

/-- An input port and an output port at a sample tick; the period that ends with a boundary is finalised there. A port at a
foreign rate runs at its own edges, and at these ticks once its clocks are lost (R225, R234, R245). -/
def portTick (p : Nat) (s : State) : State :=
  let x := portOf s p
  if !atEngineRate s p ∧ ¬ x.lost then s
  else
    let s := if !x.inOn then s
      else if !atEngineRate s p then foreignPeriod p none s
      else if framePos s = 0 then s else finalisePeriod p (s.clk.sampleJ - 1) s
    if x.outOn then loadOutputs p s else s

/-! ### Drivers (R241, R242) -/

/-- The drivers of a port at its frame start edge (R241, R242). -/
def drivesNow (s : State) : Bool := (s.pair.activeOut || s.pair.wasActive) && !s.pair.partnerIn

/-! ### Marking (R235 to R240) -/

/-- CRC-8 of a block's bytes 0 to 22: bits in transmission order, polynomial 0x1D, start 0xFF (R236). -/
def blockCrc (bs : List Byte) : Byte :=
  BitVec.ofNat 8 ((bs.take 23).foldl (fun c b => (List.range 8).foldl (fun c i =>
    let top := Fx.bit c 7 != Fx.bit b.toNat i
    let c := c * 2 % 256
    if top then c ^^^ 0x1D else c) c) 0xFF)

/-- The sender ID of a port (R237): the value set, else the preferred unit's serial number in a pair, else the own. -/
def senderId (s : State) (p : Nat) : Nat :=
  let own := Config.serial.toNat % 2 ^ 32
  let x := portOf s p
  if x.sender ≠ 0 then x.sender
  else if s.sys.pairEn ∧ ¬ s.sys.pairPref then match s.pair.partner with | some h => h.sender % 2 ^ 32 | none => own
  else own

/-- The 24 bytes of an output slot's block (R236, R240). -/
def markBlock (s : State) (p slot : Nat) (x : Port) (clean : Bool) (m : MarkTx) : List Byte :=
  let b := match m.raw with
    | some r => padTo 23 r
    | none =>
      [0xC5] ++ u32 (senderId s p) ++ u8 p ++ u8 slot ++ u16 m.tag ++ u8 ((portCfg s p).rate % 8) ++ le 6 (x.frames % 2 ^ 48) ++
        u8 (Fx.b2n s.sys.pairEn + 2 * Fx.b2n (!clean)) ++ List.replicate 6 0
  b ++ [blockCrc b]

/-- Even parity of a number's 32 bits. -/
def parityOf (w : Nat) : Nat := (List.range 32).foldl (fun v i => (v + Fx.b2n (Fx.bit w i)) % 2) 0

/-- A slot sends marking now (R235): CONTINUOUS, or PROOF during proofs. -/
def marksNow (x : Port) (m : MarkTx) : Bool :=
  decide (m.mode = 1) || (decide (m.mode = 2) && decide (0 < x.proofLeft)) || decide (0 < m.once)

/-- The word a slot sends: audio in [31:8], the low byte of a marked word of 32 bits, cut to the slot width (R224, R235). -/
def sendWord (s : State) (p slot idx : Nat) (x : Port) (clean : Bool) (w : Nat) : Nat × Option MarkTx :=
  let width := (portCfg s p).width
  let cut := w / 2 ^ (32 - width) * 2 ^ (32 - width)
  match Tbl.find x.markTx slot with
  | none => (cut, none)
  | some m =>
    let m := if idx = 0 then { m with block := if marksNow x m ∧ width = 32 then some (markBlock s p slot x clean m) else none } else m
    match m.block with
    | none => (cut, some m)
    | some b =>
      let c := Fx.b2n (Fx.bit (b.getD (idx / 8) 0).toNat (idx % 8))
      let low := (if idx = 0 then 0xB0 else 0x90) + (if clean then 0 else 8) + 2 * c
      let v := w / 256 * 256 + low
      (v + parityOf v, some m)

/-! ### The pins of a port frame (R223, R225) -/

/-- The bits of a port frame in slot order, MSB first; none where DOUT is in high impedance. -/
def frameBits (c : PortCfg) (words floating : List Nat) : List (Option Bool) :=
  (words.zip (List.range words.length)).flatMap fun e =>
    (List.range c.width).map fun b => if floating.contains e.2 then none else some (Fx.bit e.1 (31 - b))

/-- BCLK periods from the frame start edge to the first data bit. -/
def firstBit (c : PortCfg) : Nat := if c.format = 1 ∨ (c.format = 2 ∧ c.noDelay) then 0 else 1

/-- FSYNC over a port frame as its master drives it: half duty, or a pulse of one BCLK period. -/
def fsyncShape (c : PortCfg) : List Bool :=
  (List.range (frameSlots c * c.width)).map fun i =>
    (if c.format = 0 then decide (c.width ≤ i) else if c.format = 1 then decide (i < c.width) else decide (i = 0)) != c.fsyncInv

/-- The pins in a port frame: with a first data bit one period late the last bit of the frame before comes first. -/
def wireOf (c : PortCfg) (before now : List (Option Bool)) (drives : Bool) : Wire :=
  let d := firstBit c
  let bits := if d = 0 then now else before.drop (before.length - d) ++ now.take (now.length - d)
  { dout := if drives then bits else now.map fun _ => none
    fsync := if drives && c.master then fsyncShape c else []
    startRising := decide (c.format ≠ 0) != c.fsyncInv, sampleRising := !c.bclkInv }

/-- A port that has released DOUT for contention tries again from a block start on (R245). -/
def Port.sends (x : Port) : Bool := x.driving && x.outOn && (!x.contended || decide (0 < x.matched) || decide (x.frames % 192 = 0))

/-- The frame that leaves at a frame start edge assigned to sample period m: what was loaded one period earlier (R25, R229);
of a foreign-rate port what its edge before loaded. -/
def shiftFrame (p : Nat) (m : Int) (s : State) : State :=
  let x := portOf s p
  let c := portCfg s p
  let idx := x.frames % 192
  let (ws, clean) := Tbl.getD x.loaded (if atEngineRate s p then (m - 1).toNat else 0) ([], false)
  let on := useMask s p true
  let sent := (List.range (frameSlots c)).map fun i => if Fx.bit on i then sendWord s p i idx x clean (ws.getD i 0) else (0, none)
  let tx := (sent.zip (List.range sent.length)).foldl (fun t e => match e.1.2 with | some m => Tbl.put t e.2 m | none => t) x.markTx
  let tx := if idx = 191 then Tbl.mapV (fun _ (m : MarkTx) => { m with once := m.once - 1 }) tx else tx
  let words := sent.map (·.1)
  let off := if c.hiZ then (List.range (frameSlots c)).filter fun i => !Fx.bit on i else []
  putPort p { x with
    shift := words, floating := off, wire := wireOf c (frameBits c x.shift x.floating) (frameBits c words off) x.sends
    markTx := tx, proofLeft := if idx = 191 then x.proofLeft - 1 else x.proofLeft } s

/-- A word of a marked input slot (R238): parity, preamble and C bits. -/
def MarkRx.word (m : MarkRx) (w : Nat) : MarkRx :=
  let bad := parityOf w = 1
  let start := w / 16 % 16 = 0xB
  let m := { m with parity := m.parity + Fx.b2n bad, user := Fx.bit w 2 }
  let c := Fx.bit w 1
  if start then
    let bytes := (List.range 24).map fun i => BitVec.ofNat 8
      ((List.range 8).foldl (fun v j => v + Fx.b2n (m.gather.getD (i * 8 + j) false) * 2 ^ j) 0)
    let full := if m.started then some (bytes, decide (m.since = 191)) else m.full
    { m with gather := [c], started := true, since := 0, full := full }
  else
    let n := m.since + 1
    let m := { m with since := n, gather := if m.gather.length < 192 then m.gather ++ [c] else m.gather ++ [] }
    -- 384 port frames with no preamble unlock (R238)
    if 384 ≤ n then { m with locked := false, good := 0, started := false, gather := [] } else m

/-- Words of a port frame into the marking checks of its input slots. -/
def markFrame (p : Nat) (words : List Nat) (s : State) : State :=
  let x := portOf s p
  let rx := Tbl.mapV (fun slot (m : MarkRx) => if m.mode = 0 ∧ !m.proving then m else m.word (words.getD slot 0)) x.markRx
  let bad := (rx.filter fun e => decide ((Tbl.getD x.markRx e.1 ({} : MarkRx)).parity < e.2.parity)).map (·.1)
  let s := putPort p { x with markRx := rx, parityErrors := x.parityErrors + bad.length } s
  (rx.map (·.1)).foldl (fun s slot =>
    if bad.contains slot then violationAt p slot K.sapMarkParity 0 slot 0 s else violationEnds p slot K.sapMarkParity 0 s) s

/-! ### Configuration of ports (R244, R246) -/

/-- The largest multiplier of R228 up to one asked for that keeps an MCLK output at 49.152 MHz or below. -/
def mclkMultipliers : List Nat := [512, 384, 256, 128, 64]

def fitMclk (s : State) (g : Pcg) (want : Nat) : Nat :=
  (mclkMultipliers.find? fun m => decide (m ≤ want) && decide (fsOf s.sys.rate * g.n * m ≤ 49152000 * g.d)).getD 64

/-- Put a generator; the MCLK outputs that run from it stay at 49.152 MHz or below (R228). -/
def putGen (n : Nat) (g : Pcg) (s : State) : State :=
  let mclk := Tbl.mapV (fun _ (m : Mclk) => if m.gen = n then { m with mult := fitMclk s g m.mult } else m) s.port.mclk
  { s with port := { s.port with pcg := Tbl.put s.port.pcg n g, mclk := mclk } }

/-- A change of an MCLK output's source or multiplier takes effect at a frame start edge of the new source (R228): at the sample
tick after which that falls, while its generator runs (log entry 54). -/
def mclkTick (s : State) : State :=
  let mclk := Tbl.mapV (fun _ (m : Mclk) => match m.next with
    | some (g, k) => if (Tbl.getD s.port.pcg g {}).running then { gen := g, mult := fitMclk s (Tbl.getD s.port.pcg g {}) k } else m
    | none => m) s.port.mclk
  { s with port := { s.port with mclk := mclk } }

/-- The generator of a master port takes its ratio and frame length from the port (R227). -/
def assignGen (c : PortCfg) (s : State) : State :=
  if !c.master then s
  else
    let hz := foreignRate c.rate
    let fs := fsOf s.sys.rate
    let k := Nat.gcd hz fs
    let g : Pcg := { Tbl.getD s.port.pcg c.gen {} with n := hz / k, d := fs / k, len := frameSlots c * c.width }
    putGen c.gen g s

/-- Every generator with a master port follows a change of the engine's rate (R227). -/
def assignGens (s : State) : State := s.port.port.foldl (fun s e => match e.2.cfg with | some c => assignGen c s | none => s) s

/-- Start a direction's hold stage silent (R233). -/
def silentStage : HoldStage := {}

/-- A port stops and is about to start with a configuration (R244): it locks afresh. -/
def restartPort (x : Port) (c : PortCfg) : Port :=
  { x with
    cfg := some c, next := none, stopRamp := 0, away := true, slipAt := 0, state := if x.inOn || x.outOn then (if c.master then 2 else 1) else 0
    lockCount := 0, phi0 := none, measAt := none, measN := 0, measDone := none, rateNow := none, rateRef := none
    cap := [], inHold := silentStage, outHold := silentStage, frames := 0, stamps := [], wrongRun := 0, rightRun := 0
    wrongLong := false, loaded := [], shift := [], floating := [], wire := {} }

/-- PORT.CONFIG at its boundary (R244): an enabled port ramps its outputs first and restarts when that is done. -/
def applyPort (p : Nat) (c : PortCfg) (s : State) : State :=
  let x := portOf s p
  if x.state = 0 then assignGen c (putPort p { x with cfg := some c } s)
  else putPort p { x with next := some c, state := 3, stopRamp := if x.outOn ∧ x.state = 2 then 0 else 64 } s

/-- A generator starts at the enable of its first port, unless a trigger starts it (R227). -/
def startGen (p : Nat) (s : State) : State :=
  let c := portCfg s p
  let g := Tbl.getD s.port.pcg c.gen {}
  if c.master ∧ g.start = 0xFF then { s with port := { s.port with pcg := Tbl.put s.port.pcg c.gen { g with running := true } } }
  else s

/-- PORT.ENABLE at its boundary (R246): a direction newly enabled starts silent; the port frame count starts with the
enabling commit (R232). -/
def applyEnable (p dirs : Nat) (s : State) : State :=
  let x := portOf s p
  let i := Fx.bit dirs 0
  let o := Fx.bit dirs 1
  let fresh := (i || o) && !(x.inOn || x.outOn)
  let x := { x with
    inOn := i, outOn := o
    inHold := if i && !x.inOn then silentStage else x.inHold
    outHold := if o && !x.outOn then silentStage else x.outHold }
  let x := if fresh then { x with
      state := if (portCfg s p).master then 2 else 1, lockCount := 0, phi0 := none, frames := 0, stamps := []
      proofLeft := 8, lastEdge := none, lost := false, away := false, slipAt := 0, measAt := none, measDone := none, rateNow := none, rateRef := none }
    else if i || o then x else { x with state := 0, driving := false, lastEdge := none }
  (if i || o then startGen p else id) (putPort p x (if fresh then asrcDrop p s else s))

/-- PORT.MARK (R235, R237): modes, tags, and the sender; a basic write ends raw contents (R240). -/
def applyMark (p dir mask mode sender : Nat) (tags : List Nat) (s : State) : State :=
  let x := portOf s p
  let slots := bitsOf 32 mask
  if dir = 1 then
    let tx := (slots.zip (List.range slots.length)).foldl (fun t e =>
      let m := Tbl.getD t e.1 {}
      Tbl.put t e.1 { m with mode := mode, raw := none, tag := tags.getD e.2 m.tag }) x.markTx
    putPort p { x with markTx := tx, sender := sender } s
  else
    let rx := slots.foldl (fun t i => Tbl.put t i { Tbl.getD t i ({} : MarkRx) with mode := mode }) x.markRx
    putPort p { x with markRx := rx } s

/-- PORT.PROOF and the nightly window (R239, R372): marking of the outputs, and the inputs' gathering and results afresh. -/
def markProof (outs ins : List (Nat × Nat)) (s : State) : State :=
  let s := outs.foldl (fun s (p, slot) =>
    let x := portOf s p
    putPort p { x with markTx := Tbl.put x.markTx slot { Tbl.getD x.markTx slot ({} : MarkTx) with once := 16 } } s) s
  ins.foldl (fun s (p, slot) =>
    let x := portOf s p
    let m := Tbl.getD x.markRx slot ({} : MarkRx)
    putPort p { x with markRx := Tbl.put x.markRx slot { m with proving := true, result := none, locked := false, good := 0 } } s) s

/-- PORT.MARK_RAW at its boundary (R240). -/
def applyMarkRaw (p slot : Nat) (bytes : List Byte) (s : State) : State :=
  let x := portOf s p
  putPort p { x with markTx := Tbl.put x.markTx slot { Tbl.getD x.markTx slot ({} : MarkTx) with raw := some bytes } } s

def applyExpect (p slot : Nat) (e : Option Expect) (s : State) : State :=
  let x := portOf s p
  let ex := match e with | some v => Tbl.put x.expect slot v | none => Tbl.erase x.expect slot
  let rx := match Tbl.find x.markRx slot with
    | some m => Tbl.put x.markRx slot { m with result := none }
    | none => x.markRx
  putPort p { x with expect := ex, markRx := rx } s

end Sys2Proof.Machine
end

