-- ==== Sys2Proof/Machine/TimeOps.lean ====
section
/-!
DEFINITION. Time at work (11): steps and rates (R283, R284), the servo (R292, R293), candidates and their selection (R303
to R305), holdover (R306 to R308), realignment (R290), triggers (R310 to R313).
-/
namespace Sys2Proof.Machine
open Sys2Proof

/-- The first grid index whose instant is not past (R288). -/
def gridIndex (s : State) : Nat := (((s.clk.count - s.clk.gridG) * fsNow s + 65536000000000 - 1) / 65536000000000).toNat

/-- Time runs to the next sample tick, once the frame tick runs. -/
def toTick (s : State) : State := if s.sys.running then advanceToCount (gridCount s (gridIndex s)) s else s

def setTime (f : TimeState → TimeState) (s : State) : State := { s with time := f s.time }

/-! ### Rate and steps (R283, R284) -/

/-- Rate range: signed 40 bits (R283). -/
def rateClamp (r : Int) : Int := Fx.clamp (-549755813888) 549755813887 r

/-- Write rate: C_a and RAW_a take the present values first (R283). -/
def setRate (r : Int) (s : State) : State :=
  { s with clk := { s.clk with cA := s.clk.count, rawA := s.clk.raw, rate := rateClamp r } }

/-- The time reading changes by an amount in 2^−16 ns; TIME_WRAPS takes the carry or borrow (R284). -/
def stepReading (d : Int) (s : State) : State :=
  let t := (s.clk.full16 + d) % (2 ^ 80 : Int)
  let wraps := (t / 2 ^ 48).toNat
  let off := ((t % (2 ^ 48 : Int)) - s.clk.count) % (2 ^ 48 : Int)
  { s with clk := { s.clk with offset := off.toNat, wraps := wraps } }

/-- A step of the time (R285, R293): the reading, the step interrupt, TIME_STEP and its log; port measurements that span
it are spoiled (R231). -/
def timeStep (d : Int) (sets : Bool) (s : State) : State :=
  let ns := Fx.roundAway d 65536
  let s := stepReading d s
  let s := { s with
    clk := { s.clk with unset := s.clk.unset && !sets }
    time := { s.time with steps := (s.time.steps + 1) % 2 ^ 32 }
    port := { s.port with port := Tbl.mapV (fun _ (p : Port) => { p with measStep := true }) s.port.port } }
  let s := postEvent Ev.timeStep none 0 (s64 ns) (raiseInt 11 s)
  report Src.clock K.timeStep 1 (Fx.toUnsigned 48 ns) 0 s

/-! ### Servo states (R293) -/

/-- A change of servo state posts TIME_STATE; entering HOLDOVER logs (R293). The time function is ready while the PLL is
locked, whatever the servo state (R19, R282). -/
def setServo (st : Nat) (s : State) : State :=
  if s.time.state = st then s
  else
    let was := s.time.state
    let s := { s with time := { s.time with state := st, within := 0, beyond := 0, lockedOnce := s.time.lockedOnce || decide (st = 2) } }
    let s := if st = 2 then { s with time := { s.time with hold := { s.time.hold with hist := [] } } } else s
    let s := postEvent Ev.timeState none 0 (u8 st ++ u8 was) s
    if st = 3 then report Src.clock K.timeHoldover 2 0 0 s
    else if was = 3 then endCondition Src.clock K.timeHoldover 2 s
    else s

/-- Source kinds of a candidate: 0 PTP, 1 PPS, 2 sample phase, 3 partner (R294, R303). -/
def candKind (c : Nat) : Nat := if c < 5 then 0 else if c = 5 then 1 else if c = 10 then 3 else 2

/-- The source gives time or a second phase (R293). -/
def givesTime (kind : Nat) : Bool := decide (kind ≠ 2)

/-- Lock limit in 2^−16 ns (R293). -/
def lockLimit (s : State) (kind : Nat) : Int :=
  if givesTime kind then 65536000 else 655360000000 / fsNow s

/-- Kp and Ki in force for a source kind (R294). -/
def loopGains (s : State) (kind : Nat) : Int × Int :=
  let raw := s.time.raw.getD kind (0, 0)
  let b := s.time.bw.getD kind 0
  (if raw.1 ≠ 0 then raw.1 else Config.loopKp kind b s.time.damping, if raw.2 ≠ 0 then raw.2 else Config.loopKi kind b s.time.damping)

/-- The rate that a measurement brings (R293): proportional part within the slope limit, integrator within the range. -/
def servoSlew (kind : Nat) (e : Int) (s : State) : State :=
  let (kp, ki) := loopGains s kind
  let slope : Int := (s.time.slope : Int) * 2 ^ 48 / 1000000000
  -- products have 16 + 16 fraction bits
  let p := Fx.clamp (-slope * 65536) (slope * 65536) (Fx.roundAway (kp * e) 65536)
  let i := Fx.clamp (-549755813888 * 65536) (549755813887 * 65536) (s.time.integ + Fx.roundAway (ki * e) 65536)
  setRate (-(Fx.roundAway (i + p) 65536)) { s with time := { s.time with integ := i } }

/-- What a measurement asks for. -/
inductive Measured where
  | slew
  | step (d : Int)
  deriving DecidableEq, Repr

/-- A step is due instead of a slew (R293). -/
def measured (s : State) (kind : Nat) (e : Int) : Measured :=
  if givesTime kind ∧ s.time.stepThr ≠ 0 ∧ (s.time.stepThr : Int) * 65536 < (e.natAbs : Int) then .step (-e) else .slew

/-- Lock tracking of a measurement (R293). -/
def trackLock (kind : Nat) (e : Int) (s : State) : State :=
  let lim := lockLimit s kind
  let a : Int := (e.natAbs : Int)
  let w := if a ≤ lim then s.time.within + 1 else 0
  let b := if 4 * lim < a then s.time.beyond + 1 else 0
  let s := { s with time := { s.time with within := w, beyond := b, offset := e } }
  if s.time.state = 1 ∧ 16 ≤ w then setServo 2 s
  else if s.time.state = 2 ∧ 4 ≤ b then setServo 1 s
  else s

/-! ### Candidates (R303 to R305) -/

def candOf (s : State) (c : Nat) : Cand := Tbl.getD s.time.cand c {}
def putCand (c : Nat) (x : Cand) (s : State) : State := { s with time := { s.time with cand := Tbl.put s.time.cand c x } }

/-- The engine follows the partner (R314): standby and in step, or on the way there since step 6 of the handshake (R324). -/
def followsPartner (s : State) : Bool :=
  s.sys.pairEn && !s.pair.activeOut && (decide (s.pair.state = 4) || s.pair.joined)

/-- A candidate is selectable (R304). -/
def selectable (s : State) (c : Nat) : Bool :=
  let x := candOf s c
  if c = 10 then followsPartner s
  else decide (x.priority ≠ 0) && x.qualified && !x.waiting

/-- Rank of a candidate: priority, then the order of the table (R303). -/
def candRank (s : State) (c : Nat) : Nat := (candOf s c).priority * 16 + c

/-- The highest-ranked selectable candidate; a standby in step follows the partner and selects no other (R305, R314). -/
def bestCand (s : State) : Option Nat :=
  if followsPartner s then some 10
  else
    ((List.range 10).filter (selectable s)).foldl (fun b c => match b with
      | none => some c
      | some d => if candRank s c < candRank s d then some c else some d) none

/-- Select a candidate: TIME_REFERENCE and its log (R305). -/
def switchRef (c : Nat) (s : State) : State :=
  let was := s.time.sel.getD 0xFF
  let s := { s with time := { s.time with sel := some c, within := 0, beyond := 0 } }
  let s := report Src.clock K.refSwitch 0 c 0 (postEvent Ev.timeReference none 0 (u8 c ++ u8 was) s)
  let s := if conditionStands s Src.clock K.refLoss then endCondition Src.clock K.refLoss 2 s else s
  if s.time.state = 0 ∨ s.time.state = 3 then setServo 1 s else s

/-- Means of rate, temperature and time over the averaging window, less the last 10 s (R306). -/
def holdoverMeans (h : Holdover) (window now : Nat) : Option (Int × Int × Nat) :=
  let rs := h.hist.filter fun r => decide (now ≤ r.sec + window + 10) && decide (r.sec + 10 ≤ now)
  if rs.length < 10 then none
  else
    let n : Int := (rs.length : Nat)
    some (rs.foldl (fun a r => a + r.rate) 0 / n, rs.foldl (fun a r => a + r.temp) 0 / n,
      ((rs.head?.map (·.sec)).getD now + (rs.getLast?.map (·.sec)).getD now) / 2)

/-- RAW in whole seconds. -/
def rawSec (s : State) : Nat := s.clk.raw / 250000000

/-- Seconds of the timescale, which the models count in: RAW starts again at every reset (R282, R307). -/
def modelSec (s : State) : Nat := s.clk.full / 1000000000

/-- Enter HOLDOVER (R306). -/
def enterHoldover (s : State) : State :=
  let h := s.time.hold
  let h := match holdoverMeans h s.time.avgWindow (rawSec s) with
    | some (r, t, m) => { h with rAvg := r, tempAvg := t, timeAvg := modelSec s - (rawSec s - m), since := s.clk.raw, keep := false }
    | none => { h with rAvg := s.clk.rate, tempAvg := h.temp, timeAvg := modelSec s, since := s.clk.raw, keep := true }
  setServo 3 { s with time := { s.time with hold := h } }

/-- No candidate is left (R305). -/
def loseRef (s : State) : State :=
  let s := { s with time := { s.time with sel := none } }
  let s := report Src.clock K.refLoss 2 0 0 s
  if s.time.state = 4 then s else if s.time.lockedOnce then enterHoldover s else setServo 0 s

/-- Selection after any change of the candidates (R305). MANUAL goes on selecting (R296). -/
def selectRefs (s : State) : State :=
  match s.time.sel, bestCand s with
  | none, some c => switchRef c s
  | none, none => s
  | some d, some c =>
    if c = d then s
    else if !selectable s d || decide (candRank s c < candRank s d) || c = 10 then
      -- an equal or lower rank does not replace a selected candidate that stays selectable
      if selectable s d && decide ((candOf s d).priority = (candOf s c).priority) && c ≠ 10 then s else switchRef c s
    else s
  | some _, none => loseRef s

/-- The conditions of a candidate's row hold (R303): candidate 5 needs REF10M_IN beside its pulses. -/
def candHolds (s : State) (c : Nat) : Bool :=
  let x := candOf s c
  if c = 5 then x.signal && (candOf s 6).signal && !(candOf s 6).outOfRange else x.signal && !x.outOfRange

/-- A candidate becomes valid: its qualification window begins (R304). -/
def candValid (c : Nat) (s : State) : State :=
  let x := candOf s c
  if x.valid then s
  else putCand c { x with valid := true, qualified := false, waiting := false, since := s.clk.raw } s

/-- A candidate disqualifies (R303, R304). -/
def candLost (c : Nat) (s : State) : State :=
  let x := candOf s c
  if !x.valid then s
  else selectRefs (putCand c { x with valid := false, qualified := false, waiting := false, dropped := x.dropped || x.qualified } s)

/-- Validity follows the conditions of the row (R303, R304). -/
def refreshCand (c : Nat) (s : State) : State := if candHolds s c then candValid c s else candLost c s

/-- A change of a candidate's signal or frequency range. -/
def setCand (c : Nat) (f : Cand → Cand) (s : State) : State :=
  let s := refreshCand c (putCand c (f (candOf s c)) s)
  if c = 6 then refreshCand 5 s else s

/-- The time left of a candidate's window or wait, in s (R487). -/
def candLeft (s : State) (x : Cand) : Nat :=
  let run := (s.clk.raw - x.since) / 250000000
  if x.valid ∧ !x.qualified then x.window - run else if x.waiting then x.restore - run else 0

/-- State code of a candidate (R487). -/
def candState (s : State) (c : Nat) : Nat :=
  let x := candOf s c
  if s.time.sel = some c then 5
  else if c = 10 then (if followsPartner s then 4 else 1)
  else if x.priority = 0 then 0
  else if !x.valid then 1
  else if !x.qualified then 2
  else if x.waiting then 3
  else 4

/-! ### Holdover models (R306 to R308) -/

/-- y_T in 10^−15 for a temperature in 0.01 °C (R307). -/
def yTemp (h : Holdover) (t : Int) : Int :=
  let d := t - 2500
  Fx.roundAway (h.c1 * d * 10000 + h.c2 * d * d * 100 + h.c3 * d * d * d) 1000000

/-- y_A in 10^−15 at a time in s of the timescale (R307): d days since the epoch, a × d + b × ln(1 + d). While the ageing model is
learning y_A is 0 (R308). -/
def yAge (h : Holdover) (sec : Nat) : Int :=
  match h.epoch with
  | none => 0
  | some e =>
    if h.a = 0 ∧ h.b = 0 then 0
    else
      let d : Int := ((sec - e : Nat) : Int)
      let ln := Fx.mul (Fx.log2 (Fx.one + Fx.ratio d 86400)) Fx.ln2
      Fx.roundAway (h.a * d) 86400 + Fx.roundAway (h.b * ln) Fx.one

/-- Rate units of a fractional frequency in 10^−15. -/
def rateOf15 (y : Int) : Int := Fx.roundAway (y * 2 ^ 48) 1000000000000000

/-- The rate of holdover now (R306). -/
def holdoverRate (s : State) : Int :=
  let h := s.time.hold
  h.rAvg - rateOf15 (yTemp h h.temp - yTemp h h.tempAvg) - rateOf15 (yAge h (modelSec s) - yAge h h.timeAvg)

/-- Determinant by expansion along the first row; `n` is the size. -/
def det : Nat → List (List Int) → Int
  | 0, _ => 1
  | n + 1, m =>
    let row := m.headD []
    (List.range (n + 1)).foldl (fun acc j =>
      let minor := (m.drop 1).map fun r => r.take j ++ r.drop (j + 1)
      acc + (if j % 2 = 0 then 1 else -1) * row.getD j 0 * det n minor) 0

/-- Least squares for y = Σ k_i·x_i: numerators and the common denominator of the coefficients, by Cramer's rule. -/
def leastSquares (n : Nat) (pts : List (List Int × Int)) : List Int × Int :=
  let idx := List.range n
  let a := idx.map fun i => idx.map fun j => pts.foldl (fun s p => s + p.1.getD i 0 * p.1.getD j 0) 0
  let b := idx.map fun i => pts.foldl (fun s p => s + p.1.getD i 0 * p.2) 0
  let d := det n a
  (idx.map fun k => det n ((a.zip b).map fun (r, v) => r.set k v), d)

/-- The fit of c1 to c3 over records that span at least 5 °C, a constant beside them (R308). rate is −(y + constant). -/
def fitTemp (h : Holdover) : Holdover :=
  let recs := h.recs.filter fun r => decide ((h.recs.getLast?.map (·.sec)).getD 0 ≤ r.sec + 2592000)
  let lo := recs.foldl (fun m r => min m r.temp) 1000000
  let hi := recs.foldl (fun m r => max m r.temp) (-1000000)
  if hi - lo < 500 then h
  else
    let pts := recs.map fun r => let x := r.temp - 2500; ([1, x, x * x, x * x * x], r.rate)
    let (k, d) := leastSquares 4 pts
    if d = 0 then h
    else
      let c := fun i (sc : Int) =>
        let n := -(k.getD i 0) * 1000000000000000 * sc
        if 0 < d then Fx.roundAway n (d * 2 ^ 48) else Fx.roundAway (-n) (-d * 2 ^ 48)
      { h with c1 := c 1 100, c2 := c 2 10000, c3 := c 3 1000000 }

/-- The fit of a and b over temperature-corrected records that span at least 3 days (R308). -/
def fitAge (h : Holdover) : Holdover :=
  match h.epoch with
  | none => h
  | some e =>
    let lo := h.recs.foldl (fun m r => min m r.sec) (2 ^ 40)
    let hi := h.recs.foldl (fun m r => max m r.sec) 0
    if hi < lo + 259200 then h
    else
      let pts := h.recs.map fun r =>
        let d : Int := ((r.sec - e : Nat) : Int)
        let ln := Fx.roundAway (Fx.mul (Fx.log2 (Fx.one + Fx.ratio d 86400)) Fx.ln2) (2 ^ 44)
        ([1, d, ln], r.rate + rateOf15 (yTemp h r.temp))
      let (k, d) := leastSquares 3 pts
      if d = 0 then h
      else
        let c := fun i (sc : Int) =>
          let n := -(k.getD i 0) * 1000000000000000 * sc
          if 0 < d then Fx.roundAway n (d * 2 ^ 48) else Fx.roundAway (-n) (-d * 2 ^ 48)
        { h with a := c 1 86400, b := c 2 1048576, state := 2 }

/-! ### Realignment (R289, R290) -/

/-- Alignment error in ns of a boundary time against the frames of the timescale (R289). -/
def alignError (s : State) (t16 : Int) : Int :=
  let p : Int := s.sys.b * 65536000000000
  let x := t16 * fsNow s
  let r := x - Fx.roundAway x p * p
  Fx.roundAway r (65536 * fsNow s)

/-- The extension that makes the boundary after frame f land on the target (R290): the media clock, or a time in ns. -/
def extensionFor (s : State) (f : Nat) (target : Option Nat) : Nat :=
  let p : Int := s.sys.b * 65536000000000
  let t := boundaryTime16 s (f + 1) * fsNow s
  let r : Int := match target with | some ns => (ns : Int) * 65536 * fsNow s | none => 0
  (Fx.roundAway ((r - t) % p) (65536 * fsNow s)).toNat

/-- w of an extension: counts that no sample tick carries (R290). -/
def skippedCounts (s : State) (ns : Nat) : Nat := (Fx.roundAway ((ns : Int) * fsNow s) 1000000000).toNat

/-- The frame that begins now is lengthened (R290). -/
def applyRealign (ns : Nat) (s : State) : State := { s with clk := { s.clk with extend := some (s.sys.frameNo, ns) } }

/-! ### Triggers (R310 to R313) -/

def trigOf (s : State) (n : Nat) : Trigger := Tbl.getD s.time.trig n {}
def putTrig (n : Nat) (x : Trigger) (s : State) : State := { s with time := { s.time with trig := Tbl.put s.time.trig n x } }

/-- Arm a trigger, or cancel it with none (R313): a pulse in progress is completed first. -/
def applyTrigger (n : Nat) (c : Option TrigCfg) (s : State) : State :=
  let x := trigOf s n
  match c, x.pulseEnd with
  | some c, some _ => putTrig n { x with cfg := none, handed := false, waiting := some c } s
  | some c, none => putTrig n { cfg := some c, time := c.time } s
  | none, some e => putTrig n { pulseEnd := some e, cfg := none } s
  | none, none => { s with time := { s.time with trig := Tbl.erase s.time.trig n } }

/-- Mladir hands a firing time to the comparator (R313). -/
def handTrigger (n : Nat) (s : State) : State :=
  let x := trigOf s n
  match x.cfg with
  | none => s
  | some c =>
    let now := s.clk.full
    if c.period ≠ 0 ∧ x.time < now then
      let k := Fx.ceilDiv (now - x.time) c.period
      putTrig n { x with handed := true, time := x.time + k * c.period, late := true, missed := k, lateNs := 0 } s
    else putTrig n { x with handed := true, late := decide (x.time < now), missed := 0, lateNs := now - x.time } s

/-- The first RAW at which the time reading is at or after a time (R311). -/
def rawAtTime (s : State) (ns : Nat) : Nat := s.clk.rawOf (s.clk.count + ((ns : Int) * 65536 - s.clk.full16))

/-- A firing (R311): the flag, its interrupt, TRIG_FIRED, the pulse; the next firing of a periodic trigger (R313). -/
def fireTrigger (n : Nat) (s : State) : State :=
  let x := trigOf s n
  match x.cfg with
  | none => s
  | some c =>
    let now := s.clk.full
    -- a forward step carried the reading past: LATE, further firings missed
    let behind := now - x.time
    let stepped := decide (5 ≤ behind) && !x.late
    let k := if stepped ∧ c.period ≠ 0 then behind / c.period else 0
    let late := x.late || stepped
    let missed := x.missed + k
    let lateNs := if stepped then behind else x.lateNs
    let s := { s with time := { s.time with fired := Fx.setBit s.time.fired n true } }
    let s := if Fx.bit s.time.trigInt n then raiseInt 12 s else s
    let s := postEvent Ev.trigFired none 0
      (u8 n ++ u8 (Fx.b2n late) ++ u16 0 ++ u32 missed ++ u32 s.clk.ns ++ u32 s.clk.wraps ++ u32 lateNs) s
    let drives := !s.sys.pairEn || s.pair.activeOut
    let s := if c.action = 0 ∧ drives then
        { s with out := s.out ++ [.pulse c.pin (Fx.b2n c.low) c.width] } else s
    let pulse := if c.action = 0 then some (s.clk.raw + Fx.ceilDiv c.width 4) else none
    let x := { x with late := false, missed := 0, lateNs := 0, pulseEnd := pulse }
    let x := if c.period = 0 then { x with cfg := none, handed := false }
      else { x with time := x.time + (k + 1) * c.period, handed := decide (c.period < 2000000000) }
    putTrig n x s

/-- Start the generators that name a trigger (R227, R312). -/
def applyStartPorts (trigger : Nat) (s : State) : State :=
  { s with port := { s.port with pcg := Tbl.mapV (fun _ (g : Pcg) => if g.start = trigger then { g with running := true } else g) s.port.pcg } }

/-! ### Settings (R294, R299, R303) -/

/-- TIME.REFERENCES: priority, window and wait of every candidate, and the port of candidate 9. -/
def applyRefs (cs : List (Nat × Nat × Nat)) (port : Nat) (s : State) : State :=
  let s := (cs.zip (List.range cs.length)).foldl (fun s ((p, w, r), i) =>
    putCand i { candOf s i with priority := p, window := w, restore := r } s) s
  selectRefs { s with time := { s.time with sapPort := port } }

/-- TIME.PTP: instances stand on the ports that it names (R298). -/
def applyPtp (c : PtpCfg) (s : State) : State :=
  let ps := bitsOf 5 c.ports
  let t := ps.foldl (fun t n => if Tbl.has t n then t else Tbl.put t n ({} : Ptp))
    (Tbl.keep (fun n _ => ps.contains n) s.time.ptp)
  let gone := (s.time.ptp.map (·.1)).filter fun n => !ps.contains n
  gone.foldl (fun s n => setCand n (fun x => { x with signal := false }) s) { s with time := { s.time with ptpCfg := c, ptp := t } }

/-- MANUAL begins, or RELEASE ends it (R296). -/
def applyManual (on : Bool) (s : State) : State :=
  if on then setServo 4 s
  else if s.time.state ≠ 4 then s
  else match s.time.sel with
    | some _ => setServo 1 s
    | none => if s.time.lockedOnce then enterHoldover s else setServo 0 s

end Sys2Proof.Machine
end

