-- ==== Sys2Proof/Machine/Changes.lean ====
section
/-!
DEFINITION. What a change other than a page edit does when it takes effect (R53, R244, R281, R329): every constructor of
`Change` by its domain's operation, and every setting of the Seril tables by its command code (R478 to R491).
-/
namespace Sys2Proof.Machine
open Sys2Proof

/-! ### Settings -/

/-- A value of a setting's list as a natural number. -/
def natAt (vs : List Int) (i : Nat) : Nat := (vs.getD i 0).toNat
def intAt (vs : List Int) (i : Nat) : Int := vs.getD i 0
def boolAt (vs : List Int) (i : Nat) : Bool := decide (vs.getD i 0 = 1)

/-- SCENE.AREA: 1 sets the size, 2 and 3 mark and clear resident (R134). -/
def setSceneArea (vs : List Int) (s : State) : State :=
  let op := natAt vs 0
  if op = 1 then { s with scene := { s.scene with areaKiB := natAt vs 1 } }
  else match Tbl.find s.scene.dir (natAt vs 2) with
    | some e => { s with scene := { s.scene with dir := Tbl.put s.scene.dir (natAt vs 2) { e with resident := decide (op = 2) } } }
    | none => s

/-- NET.STREAM_TABLE writes: entries of seven values from an entry number on (R260). -/
def setTable : Nat → List Int → Tbl TableEntry → Tbl TableEntry
  | i, v :: p :: u :: d :: a :: st :: pa :: rest, t =>
    let e : TableEntry := { valid := decide (v = 1), port := p.toNat, udp := u.toNat, dst := d.toNat, src := a.toNat
                            stream := st.toNat, path := pa.toNat }
    setTable (i + 1) rest (Tbl.put t i e)
  | _, _, t => t

/-- TIME.SERVO (R294, R308): the averaging window stands last. -/
def setServoParams (vs : List Int) (s : State) : State :=
  let t := { s.time with
    stepThr := natAt vs 0, slope := natAt vs 1, bw := (List.range 4).map fun i => natAt vs (2 + i), damping := natAt vs 6
    raw := (List.range 4).map fun i => (natAt vs (7 + 2 * i), natAt vs (8 + 2 * i))
    alignTol := natAt vs 15, avgWindow := natAt vs 16 }
  { s with time := t }

/-- FAULT.REACTION entries: kind and entry (R356); the FAULT_N level and the safe state follow the table. -/
def setReactions : List Int → State → State
  | k :: e :: rest, s =>
    let k := k.toNat
    let v := e.toNat
    setReactions rest { s with flt := { s.flt with reaction := Tbl.putD s.flt.reaction k v (defaultReaction k) } }
  | _, s => s

def putZone (n : Nat) (z : Zone) (s : State) : State := { s with supv := { s.supv with zone := Tbl.put s.supv.zone n z } }

/-- NET.PREEMPT (R258): the handshake is tried again. -/
def setPreempt (vs : List Int) (s : State) : State :=
  let n := natAt vs 0
  startVerify n (putNet n { netOf s n with preempt := boolAt vs 1, verify := boolAt vs 2, verifyMs := natAt vs 3, fragSize := natAt vs 4 } s)

/-- The nightly window starts by the forwarded change (R371). The items themselves run in `Supervision`. -/
def setNightly (vs : List Int) (s : State) : State :=
  { s with supv := { s.supv with
      enable := boolAt vs 0, start := natAt vs 1, periodS := natAt vs 2, lengthS := natAt vs 3, segments := natAt vs 4 } }

/-- A setting, by the code of its command and its numeric fields. -/
def applySetting (code : Nat) (vs : List Int) (s : State) : State :=
  match code with
  | 0x0208 => { s with route := { s.route with xfDefault := natAt vs 0 } }
  | 0x0509 => { s with scene := { s.scene with lateMs := natAt vs 0 } }
  | 0x050A => setSceneArea vs s
  | 0x0605 => putPort (natAt vs 0) { portOf s (natAt vs 0) with threshold := natAt vs 1 } s
  | 0x0606 => putPort (natAt vs 0) { portOf s (natAt vs 0) with tsLen := natAt vs 1 } s
  | 0x0607 => { s with port := { s.port with mclk := Tbl.put s.port.mclk (natAt vs 0) { Tbl.getD s.port.mclk (natAt vs 0) {} with next := some (natAt vs 1, natAt vs 2) } } }
  | 0x060A => (fun (v : List Nat) =>
      let n := v.getD 0 0
      let pairs := (List.range ((v.length - 1) / 2)).map fun i => (v.getD (1 + 2 * i) 0, v.getD (2 + 2 * i) 0)
      markProof (pairs.take n) (pairs.drop n) s) (vs.map Int.toNat)
  | 0x0608 => applyMark (natAt vs 0) (natAt vs 1) (natAt vs 2) (natAt vs 3) (natAt vs 4) ((vs.drop 5).map Int.toNat) s
  | 0x0708 =>
    { s with net := { s.net with
        pcp := (List.range 4).map fun i => natAt vs (2 * i), dscp := (List.range 4).map (fun i => natAt vs (2 * i + 1)), ctrlQueue := natAt vs 8 } }
  | 0x070A => setPreempt vs s
  | 0x070B => updateGroups { s with net := { s.net with table := setTable (natAt vs 0) (vs.drop 1) s.net.table } }
  | 0x0808 => { s with clk := { s.clk with alignAtLock := boolAt vs 0 } }
  | 0x0809 => { s with time := { s.time with wclk0 := natAt vs 0, wclk1 := natAt vs 1, pps := boolAt vs 2, ppsUs := natAt vs 3 } }
  | 0x080A => setServoParams vs s
  | 0x0901 =>
    { s with pair := { s.pair with enable := boolAt vs 0, autoReturn := decide (natAt vs 1 = 0), adopt := boolAt vs 2, restoreS := natAt vs 3 } }
  | 0x0905 =>
    { s with pair := { s.pair with link := { s.pair.link with
        timeoutUs := natAt vs 0, intervalUs := natAt vs 1, retxUs := natAt vs 2, asym := intAt vs 3 } } }
  | 0x0A04 => setReactions vs s
  | 0x0A05 => { s with flt := { s.flt with pinLevel := natAt vs 0 } }
  | 0x0A06 => { s with flt := { s.flt with retryLimit := natAt vs 0 } }
  | 0x0A07 =>
    putZone (natAt vs 0) { zoneOf s (natAt vs 0) with
      hi := natAt vs 1, lo := natAt vs 2, hyst := natAt vs 3, declare_ := natAt vs 4 } s
  | 0x0A08 => putZone (natAt vs 0) { zoneOf s (natAt vs 0) with calOn := true, calN := 0, calD := 0, calS := 0 } s
  | 0x0A0A => setNightly vs s
  | 0x0A0B => { s with supv := { s.supv with due := true } }
  | _ => s

/-! ### Rate and frame size (R6, R23, R103) -/

/-- The signal path stops at the boundary (R23): outputs ramp to silence, and the restart brings the new rate and B. -/
def applyInterrupt (rate b : Nat) (s : State) : State :=
  { s with sys := { s.sys with interrupted := some (rate, b) } }

/-- Enter or leave the maintenance state (R466). -/
def applyMaint (slot : Option Nat) (s : State) : State := { s with sys := { s.sys with maint := slot } }

/-! ### Every change -/

/-- SCENE.STORE at COMMIT (R135): Peat keeps every body in an object extent, a persistent or resident one beside its other
home (R134, R405), and the directory entry changes once every copy has been read back. -/
def applySceneStore (n flags version : Nat) (name body : List Byte) (s : State) : State :=
  let x : Storing := { kind := 2, id := n, version := version, tag := flags, name := name, body := body }
  if isReady s Fn.peat && !(systemCopies s).isEmpty then beginStore x s else enterStored x s

/-- A scene takes a version that the pair's configuration gives it; what is being stored under another number stands at once
(R325; log entry 10). -/
def applySceneVersion (n v : Nat) (s : State) : State :=
  let is := fun (x : Storing) => decide (x.kind = 2) && decide (x.id = n)
  let s := (s.peat.storing.filter is).foldl (fun s x => enterStored x s) s
  { s with
    peat := { s.peat with storing := s.peat.storing.filter fun x => !is x }
    scene := { s.scene with dir := Tbl.mapV (fun k (e : SceneEntry) => if k = n then { e with version := v } else e) s.scene.dir } }

/-- A change takes effect. Pages, commit lists and actions are the scene logic's own. -/
def applyChange (c : Change) (s : State) : State :=
  match c with
  | .setting code vs => applySetting code vs s
  | .port p cfg => applyPort p cfg s
  | .enable p dirs => applyEnable p dirs s
  | .markRaw p slot bs => applyMarkRaw p slot bs s
  | .clkgen g cfg => putGen g cfg s
  | .expect p slot e => applyExpect p slot e s
  | .stream rx id cfg => applyStream rx id cfg s
  | .dropStream rx id => applyDropStream rx id s
  | .gates p start cycle es => applyGates p start cycle es s
  | .blockNew p b _ => applyBlockNew p (if Tbl.has s.blk.inst p then s else { s with blk := { s.blk with inst := Tbl.put s.blk.inst p b } })
  | .blockDrop p => applyBlockDrop p s
  | .blockCost p _ => applyReshape p s
  | .image bs c x y => applyImage bs c x y s
  | .imageDrop id => applyImageDrop id s
  | .instNew image first pin rings =>
    let has := s.frond.tasks.any fun t => t.2.firstPage = first
    applyInstNew first (if has then s else match reserveInst image first pin (some rings) s with | some s' => s' | none => s)
  | .instDrop first => applyInstDrop first s
  | .rate code => applyInterrupt code (match s.sys.interrupted with | some (_, b) => b | none => s.sys.b) s
  | .frameSize b => applyInterrupt (match s.sys.interrupted with | some (r, _) => r | none => s.sys.rate) b s
  | .maint slot => applyMaint slot s
  | .trigger n cfg => applyTrigger n cfg s
  | .realign ns => applyRealign ns s
  | .timeStep a sets => timeStep a sets s
  | .timeRate r => setRate r s
  | .bias ns => { s with time := { s.time with bias := ns } }
  | .manual on => applyManual on s
  | .refs cs port => applyRefs cs port s
  | .ptp cfg => applyPtp cfg s
  | .tracks first count group arming => applyTracks first count group arming s
  | .emergAssign i sc latch => applyEmerg i sc latch s
  | .emergClear i => applyEmergClear i s
  | .sceneStore n flags name body => applySceneStore n flags (storedVersion s 2 n + 1) name body s
  | .sceneBody n v name body =>
    if (Tbl.has s.scene.dir n || s.peat.storing.any fun x => decide (x.kind = 2) && decide (x.id = n)) && decide (storedVersion s 2 n = v) then s
    else applySceneStore n 0 v name body s
  | .sceneVersion n v => applySceneVersion n v s
  | .sceneDrop n => dropObject 2 n { s with scene := { s.scene with dir := Tbl.erase s.scene.dir n } }
  | .arm _ _ _ _ _ _ => s
  | .disarm a => dropAction a s
  | .listDrop n => discardList n s
  | .holdTime g a b => applyHoldTime g a b s
  | .clipStore id rate body => applyClipStore id rate body s
  | .clipDrop id => applyClipDrop id s
  | .play v clip t always replace g => applyPlay v clip t always replace g s
  | .voiceQueue v clip x => applyVoiceQueue v clip x s
  | .voiceStop v => applyVoiceStop v s
  | .startPorts n => applyStartPorts n s

/-- Changes in order. -/
def applyChanges (cs : List Change) (s : State) : State := cs.foldl (fun s c => applyChange c s) s

end Sys2Proof.Machine
end

