-- ==== Sys2Proof/Machine/Submit.lean ====
section
/-!
DEFINITION. How a change reaches its boundary (06, 12, 17): immediate page writes (R53, R127 to R131), writes staged into
commit lists (R132), forwarding to the partner (R329), settings and their report (R475), and the commit itself (R129,
R130).
-/
namespace Sys2Proof.Machine
open Sys2Proof

/-! ### Forwarding (R329) -/

/-- Send a COMMAND for a transaction; its set waits for the apply frame. -/
def forward (r : Req) (set : CommitSet) (edits : List Edit) (changes : List Change) (action : Option Nat) (s : State) : State :=
  let id := s.pair.nextTxn
  let t : Txn := { id := id, origin := Config.serial.toNat, slot := r.slot, seq := r.seq, edits := edits, changes := changes, sentAt := s.clk.raw, action := action }
  let s := { s with pair := { s.pair with txns := s.pair.txns ++ [t], nextTxn := id + 1 },
                    commit := { s.commit with sets := s.commit.sets ++ [{ set with due := none, txn := some id }] } }
  sendLink (.command id r.slot r.seq edits changes) s

/-- A change of what R325 calls shared configuration, as far as it is not a page's. -/
def isConfig : Change → Bool
  | .markRaw _ _ _ | .maint _ | .trigger _ _ | .realign _ | .timeStep _ _ | .timeRate _ | .bias _ | .manual _ => false
  | .tracks _ _ _ _ | .emergClear _ | .arm _ _ _ _ _ _ | .disarm _ | .listDrop _ | .holdTime _ _ _ => false
  | .sceneBody _ _ _ _ | .clipStore _ _ _ | .clipDrop _ | .play _ _ _ _ _ _ | .voiceQueue _ _ _ | .voiceStop _ | .startPorts _ => false
  | _ => true

/-- A commit changes the shared configuration: a handshake that depends on it is to run again (R326). -/
def noteChange (pages : List Nat) (cs : List Change) (s : State) : State :=
  if !pages.isEmpty || cs.any isConfig then { s with pair := { s.pair with changed := true } } else s

/-- Put pages into the pending status (R128). -/
def markPending (ps : List Nat) (s : State) : State := ps.foldl (fun s p => setStatus p (some .pending) s) s

/-- The data of a reply that begins with the frame number where the command's layout does. -/
def fnData (fn : Bool) (f : Nat) (data : List Byte) : List Byte := (if fn then fnB f else []) ++ data

/-- Commit a plan at the boundary of R53: alone or out of step at the next frame, with the answer at once; forwarded, the
answer follows the partner's acknowledgement (R329). -/
def commitPlan (r : Req) (code : Nat) (pl : Plan) (fn : Bool) : State × Reply :=
  let s := markPending (pagesOf pl.edits) pl.st
  let st := if pl.clamps = [] then St.ok else St.clamped
  let set : CommitSet := { pages := pagesOf pl.edits, changes := pl.changes }
  if forwards s then
    let a : Answer := { code := code, slot := r.slot, seq := r.seq, status := st, clamps := pl.clamps, fn := fn, data := pl.data }
    (forward r { set with answer := some a } pl.edits pl.changes none s, { later := true })
  else
    let f := commitFrame s
    ({ s with commit := { s.commit with sets := s.commit.sets ++ [{ set with due := some f }] } }, done pl.clamps (fnData fn f pl.data))

/-! ### Page writes (R53, R127 to R132) -/

/-- An edit can change what admission counts: routes, selections, assignment, enables, structural parameters. -/
def touchesGraph (s : State) (e : Edit) : Bool :=
  decide (e.page < 0x600) || decide (e.field = clearField) ||
  (match pageName (fam s) e.page with
   | .block _ _ 0 _ => true
   | .instance_ _ => true
   | .block _ _ _ .pilot => true
   | _ => decide (0x700 ≤ e.page))

/-- The plan is admitted with every image and the committed state (R31, R54, R123, R77), or the refusal. -/
def admitPlan (pl : Plan) : Option Reply :=
  if pl.edits.any (touchesGraph pl.st) || !pl.changes.isEmpty then
    match (weigh pl.st (allViews pl.st)).refusal with
    | some r => some r
    | none => if delayFits pl.st (allViews pl.st) then none else some (refuse St.noResource (reason 0x06 0))
  else none

/-- The first page of a list that someone else holds (R131). -/
def heldPage (s : State) (own : Option PageStatus) (ps : List Nat) : Option Nat :=
  ps.find? fun p => match own with | some o => heldByOther s o p | none => isHeld s p

/-- The pages that a plan's changes concern beside its edits: those of an instance. -/
def changePages (cs : List Change) : List Nat :=
  cs.filterMap fun c => match c with
    | .blockDrop p => some p
    | .blockCost p _ => some p
    | _ => none

/-- Stage a plan into an open list (R132): its pages are held by it. -/
def stagePlan (list : Nat) (pl : Plan) : State :=
  let s := holdPages (.heldList list) (pagesOf pl.edits) pl.st
  match Tbl.find s.scene.lists list with
  | none => s
  | some l =>
    let l := { l with pages := pagesHeldBy s (.heldList list), edits := l.edits ++ pl.edits, changes := l.changes ++ pl.changes }
    { s with scene := { s.scene with lists := Tbl.put s.scene.lists list l } }

/-- A write to these pages waits: for a re-seed, and one that is staged also for an immediate commit (R128, R131). -/
def mustWait (s : State) (list : Nat) (ps : List Nat) : Bool :=
  ps.any fun p => isReseeding s p || (list != 0 && isPending s p)

/-- A page write of the Seril tables (R475): `plan` works out the edits on a copy of the state. A refusal leaves the state
as it was. -/
def pageWrite (r : Req) (code list : Nat) (fn : Bool) (plan : State → Except Reply Plan) (s : State) : State × Reply :=
  if 16 < list ∨ (list ≠ 0 ∧ !Tbl.has s.scene.lists list) then (s, refuse St.noResource)
  else match plan s with
    | .error e => (s, e)
    | .ok pl =>
      let ps := pagesOf pl.edits
      let own := if list = 0 then none else some (PageStatus.heldList list)
      match heldPage s own (ps ++ changePages pl.changes) with
      | some p => (s, refuse St.conflict (reason 0x02 p))
      | none =>
        match admitPlan pl with
        | some e => (s, e)
        | none =>
          if pl.edits = [] ∧ pl.changes = [] then (s, done pl.clamps (fnData fn (if list = 0 then commitFrame s else 0) pl.data))
          else if mustWait s list ps then
            let w : WaitWrite := { slot := r.slot, seq := r.seq, code := code, list := list, since := s.clk.raw, fn := fn
                                   edits := pl.edits, changes := pl.changes, clamps := pl.clamps, data := pl.data }
            ({ pl.st with page := s.page, commit := { s.commit with waits := s.commit.waits ++ [w] } }, { later := true })
          else if list = 0 then commitPlan r code pl fn
          else (stagePlan list pl, done pl.clamps (fnData fn 0 pl.data))

/-- Instances that a forwarded creation brings stand uncommitted, so that their pages can be written (R182). -/
def enterUnborn (s : State) : Change → State
  | .blockNew p b _ => if Tbl.has s.blk.inst p then s else { s with blk := { s.blk with inst := Tbl.put s.blk.inst p { b with live := false } } }
  | .instNew image first pin rings =>
    if s.frond.tasks.any fun t => decide (t.2.firstPage = first) then s
    else match reserveInst image first pin (some rings) s with | some s' => s' | none => s
  | _ => s

/-- The action that a forwarded arming names (R139). -/
def armedAction (id : Nat) (pages : List Nat) (edits : List Edit) (changes : List Change) (now : Nat) : Change → Option (Nat × Action)
  | .arm a isList n time always skip => some (a, {
      isList := isList, number := n, time := time, always := always, skipAbsent := skip, state := .loaded, slot := 255, since := now
      pages := pages, edits := edits, changes := changes, txn := some id })
  | _ => none

/-- A change as the partner's own: a slot that owns the maintenance state is the partner's (R466). -/
def asPartner : Change → Change
  | .maint (some c) => .maint (some (c + 8))
  | c => c

/-- Write a forwarded command into the shadow banks; its set waits for the COMMIT. -/
def takeCommand (id slot seq : Nat) (edits : List Edit) (changes : List Change) (s : State) : State :=
  let rest := (changes.filter fun c => match c with | .arm _ _ _ _ _ _ => false | _ => true).map asPartner
  let pages := pagesOf edits
  let arms := changes.filterMap (armedAction id pages edits rest s.clk.raw)
  let s := rest.foldl enterUnborn s
  let s := edits.foldl (fun s e => putShadow e s) s
  let status := match arms.head? with | some (a, _) => PageStatus.heldAction a | none => PageStatus.pending
  let s := pages.foldl (fun s p => setStatus p (some status) s) s
  let s := arms.foldl (fun (s : State) a => { s with scene := { s.scene with actions := Tbl.put s.scene.actions a.1 a.2 } }) s
  let set : CommitSet := { pages := pages, changes := rest, txn := some id, action := arms.head?.map (·.1) }
  let t : Txn := { id := id, origin := (s.pair.partner.map (·.serial)).getD 0, slot := slot, seq := seq, edits := edits, changes := changes, sentAt := s.clk.raw, action := arms.head?.map (·.1) }
  { s with commit := { s.commit with sets := s.commit.sets ++ [set] }, pair := { s.pair with txns := s.pair.txns ++ [t] } }

/-- A forwarded command is written and acknowledged; one that reaches a re-seeding page waits for the copy first (R128). -/
def enterCommand (id slot seq : Nat) (edits : List Edit) (changes : List Change) (s : State) : State :=
  if (pagesOf edits).any (isReseeding s) then
    let w : WaitWrite := { slot := slot, seq := seq, code := 0, list := 0, since := s.clk.raw, txn := some id
                           edits := edits, changes := changes, clamps := [], data := [] }
    { s with commit := { s.commit with waits := s.commit.waits ++ [w] } }
  else sendLink (.commandAck id true false) (takeCommand id slot seq edits changes s)

/-- A write that waited ends without effect. -/
def refuseWait (w : WaitWrite) (r : Reply) (s : State) : State :=
  match w.txn with
  | some id => sendLink (.commandAck id false false) s
  | none => answer w.slot w.seq w.code 0 r (dropUnborn w.changes s)

/-- Writes that waited for a page go on once no page of theirs is pending or re-seeding (R128, R131). -/
def resumeWait (w : WaitWrite) (s : State) : State :=
  match w.txn with
  | some id => sendLink (.commandAck id true false) (takeCommand id w.slot w.seq w.edits w.changes s)
  | none =>
    if w.list ≠ 0 ∧ !Tbl.has s.scene.lists w.list then refuseWait w (refuse St.conflict) s
    else
      let own := if w.list = 0 then none else some (PageStatus.heldList w.list)
      let pl : Plan := {
        st := w.edits.foldl (fun s e => putShadow e s) s, edits := w.edits, changes := w.changes, clamps := w.clamps, data := w.data }
      match heldPage s own (pagesOf w.edits ++ changePages w.changes), admitPlan pl with
      | some p, _ => refuseWait w (refuse St.conflict (reason 0x02 p)) s
      | none, some e => refuseWait w e s
      | none, none =>
        if w.list = 0 then
          let (t, rep) := commitPlan { slot := w.slot, seq := w.seq, crc := 0 } w.code pl w.fn
          if rep.later then t else answer w.slot w.seq w.code 0 rep t
        else answer w.slot w.seq w.code 0 (done w.clamps (fnData w.fn 0 w.data)) (stagePlan w.list pl)

/-- Resume every waiting write that can go on, in order. -/
def resumeWaits (s : State) : State :=
  s.commit.waits.foldl (fun s w =>
    if mustWait s w.list (pagesOf w.edits) then s
    else resumeWait w { s with commit := { s.commit with waits := s.commit.waits.erase w } }) s

/-- A command that its pages keep waiting for 100 ms is answered BUSY, with nothing of it applied (R456). -/
def expireWaits (s : State) : State :=
  let late := s.commit.waits.filter fun w => decide (w.since + msTicks 100 ≤ s.clk.raw)
  let s := { s with commit := { s.commit with waits := s.commit.waits.filter fun w => !late.contains w } }
  late.foldl (fun s w => refuseWait w (refuse St.busy) s) s

/-! ### Settings and other changes (R329, R475) -/

/-- A change that takes effect at a boundary and answers with its frame number. -/
def changeAt (r : Req) (code : Nat) (cs : List Change) (clamps : List Clamp) (data : List Byte) (s : State) : State × Reply :=
  commitPlan r code { st := s, changes := cs, clamps := clamps, data := data } true

/-- A change of a shared setting: alone, at once, and the reply reports what stands; forwarded, at the apply frame, and
the reply reports what will stand then (R329, R475). -/
def changeNow (r : Req) (code : Nat) (cs : List Change) (clamps : List Clamp) (report : State → List Byte) (s : State) : State × Reply :=
  let s' := applyChanges cs s
  if forwards s then
    let st := if clamps = [] then St.ok else St.clamped
    let a : Answer := { code := code, slot := r.slot, seq := r.seq, status := st, clamps := clamps, fn := false, data := report s' }
    (forward r { changes := cs, answer := some a } [] cs none s, { later := true })
  else (noteChange [] cs s', done clamps (report s'))

/-- A shared setting that is read or set (R475). -/
def sharedSetting (r : Req) (code op : Nat) (set : State → Except Reply (List Change × List Clamp)) (report : State → List Byte)
    (s : State) : State × Reply :=
  if op = 0 then (s, done [] (report s))
  else if op ≠ 1 then (s, refuse St.conflict)
  else match set s with
    | .error e => (s, e)
    | .ok (cs, cl) => changeNow r code cs cl report s

/-- How a state-changing command is gated (R463, R467): a body with reading rows is admitted as a read, and its setting
part by this. -/
def gate (need : Option Nat) (s : State) : Option Reply :=
  if isStandby s then some (refuse St.notReady (reason 0x08 0))
  else match need with
    | some f => if isReady s f then none else some (refuse St.notReady (reason 0x09 f))
    | none => none

/-! ### The commit (R129, R130) -/

/-- What a commit of a page, or a change of the images over it, starts under its readers: lane stepping, block transitions,
a strip that starts afresh. A commit starts ramps and generators anew though the page holds what it held (R73, R97). -/
def transit (p : Nat) (commit : Bool) (old new : PageRec) (s : State) : State :=
  if old = new ∧ !commit then s
  else match pageName (fam s) p with
    | .lane n => commitLane n old new s
    | .block pl _ 0 .stripEnable =>
      -- an enable: a strip that starts has no history
      if recGet s p old 0 = recGet s p new 0 then s
      else
        let n := if pl = .busStrip then 8 else 16
        { s with blk := { s.blk with st := Tbl.keep (fun q _ => !(decide (p ≤ q) && decide (q < p + n))) s.blk.st } }
    | _ =>
      -- an ASRC that goes to another port or direction begins anew (R95)
      let s := if old ≠ new then { s with blk := { s.blk with asrc := Tbl.erase s.blk.asrc p } } else s
      match pageBlock s p, Tbl.find s.blk.st p with
      | some (k, _), some b =>
        { s with blk := { s.blk with st := Tbl.put s.blk.st p (commitBlk k (fsNow s) (recGet s p old) (recGet s p new) (fun i => Tbl.find new (rawBase + i)) b) } }
      | _, _ => s

/-- Swap the banks of a pending or held page (R128, R129): the page is then re-seeding. -/
def swapPage (s : State) (p : Nat) : State :=
  match Tbl.find s.page.status p with
  | some .reseeding => s
  | none => s
  | some _ =>
    let a := activeRec s p
    let b := shadowRec s p
    { s with page := { s.page with active := Tbl.put s.page.active p b, shadow := Tbl.put s.page.shadow p a
                                   status := Tbl.put s.page.status p .reseeding } }

/-- The transitions that a change of the banks or of the redirection causes: on pages that changed, and on those whose banks
have swapped under no image. -/
def transitAll (swapped : List Nat) (old : List (Nat × PageRec)) (s : State) : State :=
  old.foldl (fun s (p, r) => transit p (swapped.contains p && !Tbl.has s.page.redirect p) r (effRec s p) s) s

/-- Answer a request with the frame of its commit. -/
def answerAt (a : Answer) (f flags : Nat) (s : State) : State :=
  let data := if a.fnLast then a.data ++ fnB f else fnData a.fn f a.data
  answer a.slot a.seq a.code flags { status := a.status, clamps := a.clamps, detail := a.detail, data := data } s

/-- A set falls due at a frame: nothing commits while Mladir does not respond (R18, R143, R362). -/
def CommitSet.falls (s : State) (f : Nat) (c : CommitSet) : Bool :=
  (match c.due with | some d => decide (d ≤ f) | none => false) && s.sys.mladirUp

/-- Sets that fall due at a frame leave the queue, in order. -/
def dueSets (s : State) (f : Nat) : List CommitSet := s.commit.sets.filter (CommitSet.falls s f)

def takeSets (f : Nat) (s : State) : State :=
  { s with commit := { s.commit with sets := s.commit.sets.filter fun c => !c.falls s f } }

end Sys2Proof.Machine
end

