-- ==== Sys2Proof/Machine/BlockCmds.lean ====
section
/-!
DEFINITION. The STRIP and BLOCK commands (R480, R481): creation, deletion and reshaping of standalone blocks (R67, R69,
R102), parameter writes and reads (R68), tap sets (R87), and meter readings (R98).
-/
namespace Sys2Proof.Machine
open Sys2Proof

/-! ### Chunked objects (R459, R460, R476) -/

/-- Open an object for a slot: at most 2 a slot and 8 in all (R460). -/
def openObject (r : Req) (kind : ObjKind) (length : Nat) (s : State) : State × Reply :=
  if 2 ≤ (s.mbx.objects.filter fun e => e.2.slot = r.slot).length ∨ 8 ≤ s.mbx.objects.length then (s, refuse St.noResource)
  else
    let h := s.mbx.nextHandle
    let o : Object := { slot := r.slot, kind := kind, length := length, touched := s.clk.raw }
    ({ s with mbx := { s.mbx with objects := Tbl.put s.mbx.objects h o, nextHandle := max 1 ((h + 1) % 2 ^ 32) } }, done [] (u32 h))

/-! ### Parameters -/

/-- Block types by their number (R480). -/
def blockType : Nat → Option BlockKind
  | 0 => some .trim
  | 1 => some .delay
  | 2 => some .highPass
  | 3 => some .lowPass
  | 4 => some .peq
  | 5 => some .crossover
  | 6 => some .fir
  | 7 => some .gate
  | 8 => some .expander
  | 9 => some .compressor
  | 10 => some .limiter
  | 11 => some .ancGain
  | 12 => some .asrc
  | _ => none

/-- The number of a block type, where the manual gives one (R480). -/
def typeNumber (get : Nat → Int) : BlockKind → Option Nat
  | .trim => some 0
  | .delay => some 1
  | .highPass => some 2
  | .lowPass => some 3
  | .peq => some 4
  | .crossover => some 5
  | .fir => some 6
  | .gate => some 7
  | .expander => some 8
  | .gateOrExpander => some (if get 17 = 1 then 8 else 7)
  | .compressor => some 9
  | .limiter => some 10
  | .ancGain => some 11
  | .asrc => some 12
  | _ => none

/-- Blocks offered at 176.4 and 192 kHz (R5, R102). -/
def offeredAt192 (k : BlockKind) : Bool :=
  decide (k = .trim ∨ k = .delay ∨ k = .highPass ∨ k = .lowPass ∨ k = .peq ∨ k = .generator ∨ k = .detector)

/-- Where a parameter stands in the order of its block's table: by ID. The order-6 page's type, ID 17, is taken before every
other field, since the ranges of the others follow it; R481 lists it last (DESIGN CHOICE, log entry 79). -/
def pairOrder (p : Pair) : Nat := if p.id = 17 then 0 else p.id + 1

/-- Insert a pair, with its index in the request, by the order of checking; equal IDs keep their order. -/
def insertPair (a : Nat × Pair) : List (Nat × Pair) → List (Nat × Pair)
  | [] => [a]
  | b :: bs => if pairOrder a.2 < pairOrder b.2 then a :: b :: bs else b :: insertPair a bs

/-- Pairs with their indices, in the order of checking (R68, R472). -/
def orderPairs (ps : List Pair) : List (Nat × Pair) :=
  ((List.range ps.length).zip ps).foldl (fun l a => insertPair a l) []

/-- Write pairs in the order of checking with one kind of write. -/
def planPairs (f : Plan → Nat → Int → Nat → Nat → Except Reply Plan) : List (Nat × Pair) → Plan → Except Reply Plan
  | [], pl => .ok pl
  | (i, p) :: ps, pl => match f pl p.id p.value p.id i with
    | .error e => .error e
    | .ok pl => planPairs f ps pl

/-- A page that BLOCK.PARAM writes: a block of a strip or instance, a generator, a meter or detector (R480). -/
def isBlockPage (s : State) (p : Nat) : Bool := (pageBlock s p).isSome

/-- STRIP and BLOCK commands that write pages. -/
def blockCmd (code : Nat) : Cmd := { code := code, reach := .shared, needs := some Fn.fronds }

/-! ### Creation, reshaping, deletion -/

/-- Ratio of an ASRC's foreign rate to the engine's rate lies from 0.30 to 4.40 (R93). -/
def asrcRatioOk (s : State) (code : Nat) : Bool :=
  let f := foreignRate code
  decide (30 * fsOf s.sys.rate ≤ 100 * f) && decide (100 * f ≤ 440 * fsOf s.sys.rate)

/-- Another instance serves the same direction of the same port (R93). -/
def asrcTaken (s : State) (page : Nat) : Bool :=
  s.blk.inst.any fun e => e.1 != page && decide (e.2.kind = .asrc) &&
    decide (shadowGet s e.1 0 = shadowGet s page 0) && decide (shadowGet s e.1 1 = shadowGet s page 1)

/-- The checks of an instance's parameters beside their ranges. -/
def instanceRefusal (s : State) (page : Nat) (k : Option BlockKind) : Option Reply :=
  if k ≠ some .asrc then none
  else if !asrcRatioOk s (shadowGet s page 2).toNat then some (refuse St.conflict (reason 0x03 2))
  else if asrcTaken s page then some (refuse St.conflict (reason 0x03 0))
  else none

/-- BLOCK.PARAM (R68, R127). -/
def execBlockParam (r : Req) (list page : Nat) (pairs : List Pair) (s : State) : Host.Outcome State Fault Refusal :=
  serve (blockCmd 0x0304) r (fun r s =>
    pageWrite r 0x0304 list true (fun s =>
      if !isBlockPage s page then .error (refuse St.noResource (reason 0x02 page))
      else (planPairs (fun pl id v f e => pl.param page id v f e) (orderPairs pairs) { st := s }).bind fun pl =>
        let pl := pl.raiseSplits page
        match instanceRefusal pl.st page ((pageBlock s page).map (·.1)) with
        | some e => .error e
        | none => .ok pl) s) s

/-- The plan of BLOCK.CREATE: the lowest free page and the lowest free run of pins (R67, R182). -/
def planCreate (type stage structural : Nat) (pairs : List Pair) (s : State) : Except Reply Plan :=
  match blockType type with
  | none => .error (refuse St.conflict)
  | some k =>
    if stage ≠ 1 ∧ stage ≠ 3 ∧ stage ≠ 4 then .error (refuse St.conflict)
    else if pairs.length < structural then .error (refuse St.badLen)
    else if fam s = 2 ∧ !offeredAt192 k then .error (refuse St.noResource)
    else match lowestPages s 1 with
      | none => .error (refuse St.noResource)
      | some page =>
        let bare : BlockInst := { kind := k, stage := stage, pinBase := 0x10000, ins := 0, outs := 0 }
        let s1 := { s with blk := { s.blk with inst := Tbl.put s.blk.inst page bare } }
        match planPairs (fun pl id v f e => pl.write page id v f e) (orderPairs pairs) { st := s1 } with
        | .error e => .error e
        | .ok pl =>
          let pl := pl.raiseSplits page
          match instanceRefusal pl.st page (some k) with
          | some e => .error e
          | none =>
            let (a, b) := blockPins k (shadowGet pl.st page)
            let parts := if k = .fir then firParts (shadowGet pl.st page 0).toNat else 1
            match lowestPins s (a + b) with
            | none => .error (refuse St.noResource)
            | some base =>
              let i : BlockInst := { kind := k, stage := stage, pinBase := base, ins := a, outs := b, parts := parts }
              let st := { pl.st with blk := { pl.st.blk with inst := Tbl.put pl.st.blk.inst page i } }
              .ok { pl with
                st := st, changes := [.blockNew page i 0]
                data := u16 page ++ idB (if a + b = 0 then none else some base) ++ u8 a ++ u8 b }

/-- BLOCK.CREATE (R67, R69). -/
def execBlockCreate (r : Req) (list type stage structural : Nat) (pairs : List Pair) (s : State) : Host.Outcome State Fault Refusal :=
  serve (blockCmd 0x0301) r (fun r s => pageWrite r 0x0301 list true (planCreate type stage structural pairs) s) s

/-- Pins of an instance that a connection or selection names, in the committed or the shadow state (R184). -/
def namedPins (s : State) (pins : List Nat) : Bool :=
  let shadow : Tbl PageRec := (listedPages s).map fun p => (p, shadowRec s p)
  !(detachEdits s.page.active pins).isEmpty || !(detachEdits shadow pins).isEmpty

/-- Edits that take every connection and selection of a run of pins away (R184). -/
def detachPlan (pins : List Nat) (s : State) : Plan :=
  let shadow : Tbl PageRec := (listedPages s).map fun p => (p, shadowRec s p)
  (detachEdits shadow pins).foldl (fun pl e => pl.edit e.page e.field e.value) { st := s }

/-- A page belongs to an assigned emergency scene (R184). -/
def inEmergency (s : State) (p : Nat) : Bool := s.scene.emerg.any fun e => e.2.scene.isSome && e.2.pages.contains p

/-- The plan of a deletion, by R184: refused while a page is held, belongs to an emergency scene, or a pin is named. -/
def planDelete (pages pins : List Nat) (detach : Bool) (change : Change) (s : State) : Except Reply Plan :=
  match pages.find? fun p => isHeld s p || inEmergency s p with
  | some p => .error (refuse St.conflict (reason 0x02 p))
  | none =>
    if !detach && namedPins s pins then .error (refuse St.conflict)
    else
      let pl := detachPlan pins s
      .ok { pl with changes := [change] }

/-- BLOCK.DELETE (R184, R480). A page that holds no live standalone instance contradicts the command. -/
def execBlockDelete (r : Req) (list page flags : Nat) (s : State) : Host.Outcome State Fault Refusal :=
  serve (blockCmd 0x0302) r (withFlags 1 flags fun r s =>
    pageWrite r 0x0302 list true (fun s =>
      match Tbl.find s.blk.inst page with
      | none => .error (refuse St.conflict (reason 0x02 page))
      | some i =>
        if !i.live then .error (refuse St.conflict (reason 0x02 page))
        else planDelete [page] (pinsOf s page) (Fx.bit flags 0) (.blockDrop page) s) s) s

/-- A structural parameter's write, as BLOCK.RESHAPE makes it (R69, R481). -/
def Plan.reshape (page : Nat) (pl : Plan) (id : Nat) (v : Int) (f e : Nat) : Except Reply Plan :=
  match fieldOf pl.st page (shadowGet pl.st page) id with
  | none => .error (refuse St.noResource (reason 0x03 id))
  | some sp => if sp.structural then pl.write page id v f e else .error (refuse St.conflict (reason 0x03 id))

/-- The pins of a reshaped instance: they keep their base. New counts need a free run there, and no connection to the
pins they renumber (DEDUCED, log entry 35). -/
def reshapePins (s : State) (page : Nat) : Option Reply :=
  match Tbl.find s.blk.inst page with
  | none => none
  | some i =>
    let (a, b) := blockPins i.kind (shadowGet s page)
    if a = i.ins ∧ b = i.outs then none
    else if namedPins s (pinsOf s page) then some (refuse St.conflict)
    else
      let others := (usedPins s).filter fun u => u.1 != i.pinBase
      if (others.any fun u => decide (u.1 < i.pinBase + a + b) && decide (i.pinBase < u.1 + u.2)) || decide (0x10000 < i.pinBase + a + b)
      then some (refuse St.noResource) else none

/-- BLOCK.RESHAPE (R69). -/
def execBlockReshape (r : Req) (list page : Nat) (pairs : List Pair) (s : State) : Host.Outcome State Fault Refusal :=
  serve (blockCmd 0x0303) r (fun r s =>
    pageWrite r 0x0303 list true (fun s =>
      match pageBlock s page with
      | none => .error (refuse St.noResource (reason 0x02 page))
      | some (k, _) =>
        match planPairs (Plan.reshape page) (orderPairs pairs) { st := s } with
        | .error e => .error e
        | .ok pl =>
          let pl := pl.raiseSplits page
          match (instanceRefusal pl.st page (some k)).or (reshapePins pl.st page) with
          | some e => .error e
          | none => .ok { pl with changes := [.blockCost page 0] }) s) s

/-! ### Reads -/

/-- The parameter IDs of a page, ascending. -/
def paramIds (s : State) (p : Nat) (get : Nat → Int) : List Nat :=
  let ids := List.range 32 ++ (List.range 16).flatMap fun b => (List.range 8).map fun k => 32 * (b + 1) + k
  ids.filter fun i => (fieldOf s p get i).isSome

/-- BLOCK.PARAM_READ. A type without a number in R480 reads as a free value (log entry 5). -/
def execBlockParamRead (r : Req) (page bank : Nat) (s : State) : Host.Outcome State Fault Refusal :=
  serve { code := 0x0305 } r (fun _ s =>
    match pageBlock s page with
    | none => (s, refuse St.noResource (reason 0x02 page))
    | some (k, _) =>
      if 1 < bank then (s, refuse St.noResource)
      else
        let get := if bank = 1 then shadowGet s page else activeGet s page
        let ids := paramIds s page get
        let (t, s) := match typeNumber get k with
          | some t => (t, s)
          | none => drawFree 8 s
        (s, done [] (u8 t ++ u16 ids.length ++ ids.flatMap fun i => u16 i ++ s32 (get i)))) s

/-- BLOCK.TAPS opens a tap set for a FIR's page (R87, R476). -/
def execBlockTaps (r : Req) (list total page : Nat) (s : State) : Host.Outcome State Fault Refusal :=
  serve (blockCmd 0x0306) r (fun r s =>
    match pageBlock s page with
    | some (.fir, _) =>
      if 16 < list ∨ (list ≠ 0 ∧ !Tbl.has s.scene.lists list) then (s, refuse St.noResource)
      else openObject r (.taps list page) total s
    | _ => (s, refuse St.noResource (reason 0x02 page))) s

/-- The plan of a tap set at COMMIT: N taps of 4 bytes, each word in [23:0] (R87, R480). -/
def planTaps (page : Nat) (bs : List Byte) (s : State) : Except Reply Plan :=
  match pageBlock s page with
  | some (.fir, _) =>
    let n := (shadowGet s page 0).toNat
    if bs.length ≠ 4 * n then .error (refuse St.badLen)
    else
      let words := (List.range n).map fun i => fromLE ((bs.drop (4 * i)).take 4)
      if words.any fun w => 2 ^ 24 ≤ w then .error (refuse St.conflict)
      else .ok (((List.range n).zip words).foldl (fun pl (i, w) => pl.edit page (rawBase + i) w) { st := s })
  | _ => .error (refuse St.noResource (reason 0x02 page))

/-- A reading of a meter endpoint (R98, R480). -/
def meterBytes (s : State) (n : Nat) : List Byte :=
  let m := Tbl.getD s.blk.meter n {}
  s16 (if effGet s (0x800 + n) 0 = 2 then m.readRms else m.readPeak) ++ s16 m.readHeld ++ u8 (Fx.b2n m.above) ++ u8 0

/-- BLOCK.METER_READ (R98). -/
def execBlockMeterRead (r : Req) (meters : List Nat) (s : State) : Host.Outcome State Fault Refusal :=
  serve { code := 0x0307 } r (fun _ s =>
    match meters.find? fun n => 256 ≤ n with
    | some n => (s, refuse St.noResource (reason 0x01 n))
    | none => (s, done [] (fnB s.blk.meterFrame ++ meters.flatMap (meterBytes s)))) s

/-- Strips of a kind that exist, the page of a strip, and its dynamics blocks in strip order (R101, R47). -/
def stripCount (s : State) (kind : Nat) : Nat :=
  match kind with
  | 0 => inStrips (fam s)
  | 1 => busStrips (fam s)
  | 2 => outStrips (fam s)
  | _ => 0

def stripPage (kind n : Nat) : Nat := if kind = 0 then inStripPage n else if kind = 1 then busStripPage n else outStripPage n

def stripDyn (kind : Nat) : List Nat := if kind = 0 then [6, 7, 8] else if kind = 1 then [2] else [7]

/-- Gain reduction of a block's first channel in 0.01 dB. -/
def reductionOf (s : State) (p : Nat) : Int :=
  match Tbl.find s.blk.st p with
  | some b => (b.dyn.head?.map (·.gr)).getD 0
  | none => 0

/-- One strip's readings (R98, R480). -/
def stripBytes (s : State) (kind n : Nat) : List Byte :=
  let p := stripPage kind n
  let pre := Tbl.getD s.blk.stripMeter (stripMeterKey kind n false) {}
  let post := Tbl.getD s.blk.stripMeter (stripMeterKey kind n true) {}
  let gr := ((stripDyn kind).map fun o => reductionOf s (p + o)) ++ [0, 0, 0]
  let here : Bool := match Tbl.find s.blk.st (p + 9) with
    | some b => decide (kind = 0) && decide (0 < b.hold)
    | none => false
  s16 pre.readPeak ++ s16 pre.readRms ++ s16 post.readPeak ++ s16 post.readRms ++ (gr.take 3).flatMap s16 ++
    u8 (Fx.b2n (s.blk.clip.contains p) + 2 * Fx.b2n here) ++ u8 0

/-- STRIP.METER_READ: the clip flags that it returns are cleared (R72, R98). -/
def execStripMeterRead (r : Req) (kind first count : Nat) (s : State) : Host.Outcome State Fault Refusal :=
  serve { code := 0x0308 } r (fun _ s =>
    if 2 < kind ∨ stripCount s kind < first + count then (s, refuse St.noResource)
    else
      let ns := (List.range count).map (first + ·)
      let data := fnB s.blk.meterFrame ++ ns.flatMap (stripBytes s kind)
      let ps := ns.map (stripPage kind)
      ({ s with blk := { s.blk with clip := s.blk.clip.filter fun p => !ps.contains p } }, done [] data)) s

end Sys2Proof.Machine
end

