-- ==== Sys2Proof/Machine/PairOps.lean ====
section
/-!
DEFINITION. Keeping a pair in step (12): pair states, frame numbers on the link, what a departure from step does to
forwarded commands, reconciliation figures, signatures and their resolution, the state copy, the loss of the link.
-/
namespace Sys2Proof.Machine
open Sys2Proof

/-- Change the pair logic's state. -/
def setPair (f : PairCtl → PairCtl) (s : State) : State := { s with pair := f s.pair }

/-- A frame number of this engine as it stands on the link: in the source's numbering (R324; log entry 10). -/
def linkFrame (s : State) (f : Nat) : Nat := if s.pair.source then f else ((f : Int) + s.pair.delta).toNat

/-- A frame number of the link in this engine's numbering (R324). -/
def ownFrame (s : State) (f : Nat) : Nat := if s.pair.source then f else ((f : Int) - s.pair.delta).toNat

/-- The engine takes part in a pair whose inputs are reconciled and commands forwarded (R323, R337). -/
def inCopyOrStep (s : State) : Bool := decide (s.pair.state = 3) || decide (s.pair.state = 4)

/-! ### Forwarded commands when the pair leaves step (R329, R330) -/

/-- The outcome of a transaction joins the finished ones: 64 from each slot are kept (R468). -/
def finishTxn (t : Txn) (s : State) : State :=
  let same := fun (u : Txn) => decide (u.slot = t.slot) && decide (u.origin = t.origin)
  let mine := (s.pair.applied.filter same).take 63
  let rest := s.pair.applied.filter fun u => !same u
  setPair (fun p => { p with applied := t :: (mine ++ rest), txns := p.txns.filter fun u => decide (u.id ≠ t.id) }) s

/-- The active engine commits a transaction alone and answers with PARTNER_OUT_OF_STEP (R330). -/
def commitSetAlone (c : CommitSet) (s : State) : State :=
  match c.txn with
  | none => s
  | some id =>
    let f := c.due.getD (nextFrame s)
    if c.action.isSome ∧ c.due.isNone then
      -- an action that is armed and not assigned its frame goes on by itself
      let s := { s with commit := { s.commit with sets := s.commit.sets.filter fun d => decide (d.txn ≠ some id) } }
      setPair (fun p => { p with txns := p.txns.filter fun u => decide (u.id ≠ id) }) s
    else
    let sets := s.commit.sets.map fun (d : CommitSet) =>
      if d.txn = some id then { d with due := some f, txn := none, answer := none } else d
    let s := { s with commit := { s.commit with sets := sets } }
    let s := match s.pair.txns.find? fun t => t.id = id with
      | some t => finishTxn { t with frame := some f, alone := true } s
      | none => s
    match c.answer with
    | some a => answerAt a f 0x10 s
    | none => s

/-- Assign a transaction the frame at whose beginning it applies, and send its COMMIT (R329). -/
def assignFrame (id f : Nat) (s : State) : State :=
  let sets := s.commit.sets.map fun (c : CommitSet) => if c.txn = some id then { c with due := some f } else c
  let txns := s.pair.txns.map fun (t : Txn) => if t.id = id then { t with frame := some f } else t
  let s := { s with commit := { s.commit with sets := sets }, pair := { s.pair with txns := txns } }
  sendLink (.commit id (linkFrame s f)) s

/-- Actions whose arming the partner has not acknowledged go on alone (R139, R330). -/
def armAlone (s : State) : State :=
  s.scene.actions.foldl (fun s (a, x) =>
    match x.txn, x.state with
    | some _, .loading =>
      let s := { s with scene := { s.scene with actions := Tbl.put s.scene.actions a { x with txn := none, state := .loaded } } }
      postArmed a x s
    | some _, _ => { s with scene := { s.scene with actions := Tbl.put s.scene.actions a { x with txn := none } } }
    | _, _ => s) s

/-- The standby drops what was forwarded and has no apply frame: it was never applied (R329, R468). -/
def dropForwarded (s : State) : State :=
  let gone := s.commit.sets.filter fun c => c.txn.isSome && c.due.isNone
  let s := { s with commit := { s.commit with sets := s.commit.sets.filter fun c => !(c.txn.isSome && c.due.isNone) } }
  gone.foldl (fun s c => c.pages.foldl (fun s p => releasePage p s) s) s

/-- The partner takes no forwarded command any more. -/
def endForwarding (s : State) : State :=
  if s.pair.activeOut then armAlone (s.commit.sets.foldl (fun s c => commitSetAlone c s) s) else dropForwarded s

/-! ### Pair states (R323) -/

/-- Announce the release of the own identity (R277, R278, R326): the partner claims it. -/
def releaseOwn (s : State) : State :=
  if s.pair.link.up then sendLink (.identity false (ownBlue s)) (setPair (fun p => { p with ownId := false }) s) else s

/-- The pair function's needs on this engine (R19): the pair in step over a link that is up, its self-test passed, the
functions it needs ready. No link message carries the partner's readiness: its sixteen equal signatures stand for it (log
entry 76). -/
def pairUp (s : State) : Bool :=
  decide (s.pair.state = 4) && s.pair.link.up && s.sys.tested.contains Fn.pair && (needsOf Fn.pair).all (isReady s)

/-- The pair function reports ready once its needs hold; it is not ready outside IN_STEP (R19, R463). -/
def followPair (s : State) : State :=
  if isReady s Fn.pair then (if s.pair.state = 4 then s else setReady Fn.pair false s)
  else if pairUp s then setReady Fn.pair true s else s

/-- A change of pair state: PAIR_STATE, readiness, the wait-to-restore (R340), and the end of forwarding outside SYNCING
and IN_STEP. -/
def setPairState (st : Nat) (s : State) : State :=
  if s.pair.state = st then s
  else
    let old := s.pair.state
    let now := s.clk.raw
    let s := setPair (fun p => { p with
      state := st
      stepAt := if old = 4 ∨ st = 4 then some now else p.stepAt
      restoreAt := if st = 4 then some now else none
      joined := p.joined && (decide (st = 3) && decide (old ≠ 4 ∧ old ≠ 5) || decide (st = 4))
      reason := if st = 2 then p.reason else 0 }) (raiseInt 15 s)
    let s := postEvent Ev.pairState none 0 (u8 st ++ u8 old ++ u8 s.pair.reason) s
    let s := followPair s
    let s := if old = 4 ∧ !s.pair.activeOut then releaseOwn s else s
    let s := if s.pair.activeOut then s else selectRefs s
    if inCopyOrStep s then s else endForwarding s

/-! ### The state copy (R337 to R339) -/

/-- Words of a ring in bulk memory. -/
def ringWords (s : State) (r : Ring) : List Nat := (List.range r.size).map fun i => s.mem.bulk.readLE (4 * (r.base + i)) 4

/-- What the state copy says of an expert task: the words in layout order, since the partner places it by itself (R185). -/
def copiedTask (s : State) (p : Nat) (t : ExpertTask) : CopyItem :=
  .task p t.runIndex t.copy (t.rings.map (·.head)) ((keptWords t).map fun a => (s.frond.read (frondOf s p) 0 false a).toNat)
    ((t.rings.filter (·.bulk)).map (ringWords s))

/-- Every item of the state copy (R338; log entry 34): what no item names is at rest. -/
def copyItems (s : State) : List CopyItem :=
  (s.blk.st.map fun e => .block e.1 e.2) ++ ((s.frond.tasks.filter fun e => e.2.live).map fun e => copiedTask s e.1 e.2) ++
  (s.blk.cur.map fun e => .source e.1 e.2) ++ (s.mix.xp.map fun e => .cross e.1 e.2) ++ (s.mix.bus.map fun e => .lane e.1 e.2) ++
  (s.mix.inp.map fun e => .mixIn e.1 e.2) ++ (s.route.sinks.map fun e => .sink e.1 e.2) ++
  (s.port.port.map fun e => .port e.1 e.2.frames e.2.inHold e.2.outHold e.2.markTx e.2.markRx) ++
  (s.net.tx.map fun e => .sent e.1 e.2.count e.2.acc e.2.spoiled) ++
  (s.net.rx.map fun e => .jitter e.1 e.2.buf e.2.empties e.2.fade e.2.held) ++
  (s.blk.stripMeter.map fun e => .meter true e.1 e.2) ++ (s.blk.meter.map fun e => .meter false e.1 e.2) ++
  (s.blk.pilot.map fun e => .pilotDet e.1 e.2) ++ (s.peat.voice.map fun e => .voice e.1 e.2) ++ (s.blk.asrc.map fun e => .asrc e.1 e.2)

/-- The source sends the regions (R337). -/
def sendRegions (s : State) : State := (copyItems s).foldl (fun s i => sendLink (.state i) s) s

/-- Put a ring's words into bulk memory. -/
def putRing (r : Ring) (ws : List Nat) (m : Memory) : Memory :=
  (ws.zip (List.range r.size)).foldl (fun m e => m.writeLE (4 * (r.base + e.2)) e.1 4) m

/-- The joiner takes an item (R337): it belongs to what this engine has as well. None for what is no region of R338. -/
def takeItem (i : CopyItem) (s : State) : Option State :=
  match i with
  | .block p st => some { s with blk := { s.blk with st := Tbl.put s.blk.st p st } }
  | .task p run copy heads kept bulk =>
    match Tbl.find s.frond.tasks p with
    | none => some s
    | some t =>
      let rings := (t.rings.zip (heads ++ List.replicate t.rings.length 0)).map fun (r, h) => { r with head := h }
      let f := frondOf s p
      let fr := ((keptWords t).zip kept).foldl (fun fr e => Fronds.write fr f 0 false e.1 (BitVec.ofNat 24 e.2)) s.frond
      let fr := { fr with tasks := Tbl.put fr.tasks p { t with runIndex := run, copy := copy, rings := rings } }
      let m := ((t.rings.filter (·.bulk)).zip bulk).foldl (fun m e => putRing e.1 e.2 m) s.mem.bulk
      some { s with frond := fr, mem := { s.mem with bulk := m } }
  | .meter true k m => some { s with blk := { s.blk with stripMeter := Tbl.put s.blk.stripMeter k m } }
  | .meter false k m => some { s with blk := { s.blk with meter := Tbl.put s.blk.meter k m } }
  | .pilotDet p d => some { s with blk := { s.blk with pilot := Tbl.put s.blk.pilot p d } }
  | .source id xs => some { s with blk := { s.blk with cur := Tbl.put s.blk.cur id xs } }
  | .cross k x => some { s with mix := { s.mix with xp := Tbl.put s.mix.xp k x } }
  | .lane b x => some { s with mix := { s.mix with bus := Tbl.put s.mix.bus b x } }
  | .mixIn m x => some { s with mix := { s.mix with inp := Tbl.put s.mix.inp m x } }
  | .sink id k => some { s with route := { s.route with sinks := Tbl.put s.route.sinks id k } }
  | .port n frames inHold outHold tx rx =>
    some { s with port := { s.port with port := Tbl.put s.port.port n { Tbl.getD s.port.port n {} with
      frames := frames, inHold := inHold, outHold := outHold, markTx := tx, markRx := rx } } }
  | .sent id count acc spoiled =>
    some { s with net := { s.net with tx := Tbl.mapV (fun k (x : TxStream) =>
      if k = id then { x with count := count, acc := acc, spoiled := spoiled } else x) s.net.tx } }
  | .jitter id buf empties fade last =>
    some { s with net := { s.net with rx := Tbl.mapV (fun k (x : RxStream) =>
      if k = id then { x with buf := buf, empties := empties, fade := fade, held := last } else x) s.net.rx } }
  | .voice n v => some { s with peat := { s.peat with voice := Tbl.put s.peat.voice n v } }
  | .asrc p a => some { s with blk := { s.blk with asrc := Tbl.put s.blk.asrc p a } }
  | .outside _ => none

/-- Begin the state copy from round 0 (R337): the active engine is its source. It names the final frame once a round
leaves nothing dirty. -/
def startCopy (s : State) : State :=
  let s := setPairState 3 (setPair (fun p => { p with copying := true, round := 0, agreed := 0, finalFrame := none, progress := 0 }) s)
  if s.pair.activeOut then
    let s := sendRegions (sendLink (.stateCtrl 0 0) s)
    let f := s.sys.frameNo + 4
    let s := setPair (fun p => { p with finalFrame := some f, progress := 1000 }) s
    sendLink (.stateCtrl 2 (linkFrame s f)) (sendLink (.stateCtrl 1 0) s)
  else s

/-- A copy that fails starts again; three failures in a row end in OUT_OF_STEP until the retry (R339). -/
def copyFailed (s : State) : State :=
  let n := s.pair.copyFails + 1
  if 3 ≤ n then
    let s := report Src.pair K.pairSync 3 0 0 (setPair (fun p => { p with copyFails := 0, copyFailAt := s.clk.raw, copying := false }) s)
    setPairState 5 s
  else startCopy (setPair (fun p => { p with copyFails := n }) s)

/-- The pair leaves step: OUT_OF_STEP, then the state copy at once (R323, R332, R339). -/
def leaveStep (s : State) : State := if inCopyOrStep s then startCopy (setPairState 5 s) else s

/-- The final frame begins: the words still dirty at its boundary go over (R337). -/
def copyBoundary (s : State) : State :=
  if s.pair.copying ∧ s.pair.activeOut ∧ s.pair.finalFrame = some s.sys.frameNo then sendRegions s else s

/-! ### Signatures (R331, R332) -/

/-- The severity of the local detections that count for a frame, 0 for none (R332). -/
def detectionFor (s : State) (f : Nat) : Nat :=
  (s.pair.detections.filter fun d => decide (d.1 ≤ f ∧ f ≤ d.1 + 2)).foldl (fun m d => max m d.2) 0

/-- Unattributed mismatches count over 3,600 s (R332). -/
def unattributed (s : State) : State :=
  let now := s.clk.raw
  let times := now :: s.pair.diverged.filter fun t => decide (now < t + windowTicks)
  report Src.pair K.pairDiverge (if 3 ≤ times.length then 3 else 2) 0 0 (setPair (fun p => { p with diverged := times }) s)

/-- Resolve a mismatch by the local detections of the active engine and of the standby (R332). -/
def resolveMismatch (act stb : Nat) (s : State) : State :=
  if act ≠ 0 ∧ stb = 0 then
    if 3 ≤ act then
      -- the active engine hands over at the next tick (R334); the standby takes over on PARTNER_ACTIVE
      if s.pair.activeOut then setPair (fun p => { p with dropDue := true }) s else s
    else leaveStep s
  else if act = 0 ∧ stb ≠ 0 then leaveStep (report Src.pair K.pairDiverge 2 0 0 s)
  else if act ≠ 0 then leaveStep s
  else leaveStep (unattributed s)

/-- The source copies the bodies that live only in Peat, in the background: the joiner takes those whose version differs (R325;
log entry 10). -/
def copyBodies (s : State) : State :=
  if s.pair.activeOut then
    (s.scene.dir.filter fun e => !e.2.persistent && !e.2.resident).foldl (fun s e =>
      forward { slot := 255, seq := 0, crc := 0 } {} [] [.sceneBody e.1 e.2.version e.2.name e.2.body] none s) s
  else s

/-- A pair has formed: short link offsets are told again (R274), and the bodies follow. -/
def pairForms (s : State) : State := copyBodies (s.net.rx.foldl (fun s e => offsetShort s e.1 e.2.cfg) s)

/-- The outcome of a comparison: in step 5 of the copy 16 agreeing frames bring IN_STEP, and a mismatch starts the copy
again (R337). -/
def signatureOutcome (agree : Bool) (x : SigRec) (s : State) : State :=
  if s.pair.state = 3 then
    match s.pair.finalFrame with
    | none => s
    | some f =>
      if x.frame < f then s
      else if !agree then copyFailed s
      else
        let n := s.pair.agreed + 1
        let s := setPair (fun p => { p with agreed := n }) s
        if n < 16 then s
        else
          let s := setPairState 4 (setPair (fun p => { p with copying := false, copyFails := 0 }) s)
          pairForms (postEvent Ev.pairInStep none 0 (fnB f) s)
  else if s.pair.state = 4 ∧ !agree then
    if s.pair.activeOut then resolveMismatch x.ownDet x.partnerDet s else resolveMismatch x.partnerDet x.ownDet s
  else s

/-- Compare a frame's signatures once both are present; a frame that either engine marked invalid is not compared (R331).
The last 64 pairs are kept (R349). -/
def noteSignature (f : Nat) (up : SigRec → SigRec) (s : State) : State :=
  let old := (s.pair.sigs.find? fun x => x.frame = f).getD { frame := f }
  let x := up old
  let both := x.own.isSome && x.partner.isSome
  let agree := decide (x.own = x.partner)
  let x := { x with result := if !both || x.invalid then 2 else if agree then 0 else 1 }
  let s := setPair (fun p => { p with sigs := (x :: p.sigs.filter fun y => decide (y.frame ≠ f)).take 64 }) s
  if both && !x.invalid then signatureOutcome agree x s else s

/-- The own signatures of a frame: recorded and sent (R331). -/
def ownSignature (f : Nat) (sigs : Nat × Nat × Nat) (invalid : Bool) (s : State) : State :=
  let det := detectionFor s f
  let s := if inCopyOrStep s then sendLink (.signature (linkFrame s f) sigs.1 sigs.2.1 sigs.2.2 invalid det) s else s
  noteSignature f (fun x => { x with own := some sigs, ownDet := det, invalid := x.invalid || invalid }) s

/-! ### Reconciliation of sections (R243, R327) -/

/-- The check of an input section: its words position by position, then its validity flags (R243; log entry 34). -/
def sectionCrc (x : Section61) : Nat :=
  crc32c ((x.pos.flatMap fun e => e.2.1.flatMap u32) ++ x.pos.map fun e => if e.2.2 then 1 else 0)

/-- The section of a port and capture frame. -/
def inSection (s : State) (p f : Nat) : Option Section61 :=
  match Tbl.find (portOf s p).inRing (f % 4) with
  | some x => if x.frame = f then some x else none
  | none => none

/-- Enabled input ports. -/
def inputPorts (s : State) : List Nat := (s.port.port.filter fun p => p.2.inOn).map (·.1)

/-- Debounced emergency inputs as a mask (R150). -/
def emergMask (s : State) : Nat := s.scene.emerg.foldl (fun m (n, e) => if e.pin then m + 2 ^ n else m) 0

/-- This engine's ratio and phase of a bridged port now: the measured rate in mHz and the phase of its latest frame start edge
(R94, R96). -/
def ownFigure (s : State) (p : Nat) : Nat × Nat := ((portOf s p).rateNow.getD 0, (portOf s p).phase)

/-- Ratio and phase of every bridged port (R96). -/
def asrcFigures (s : State) : List (Nat × Nat × Nat) := (s.port.port.filter fun p => isBridged s p.1).map fun p => (p.1, ownFigure s p.1)

/-- The figures of a capture frame, the active engine's own ones or those that it has sent (R96). -/
def noteFigures (f : Nat) (figs : List (Nat × Nat × Nat)) (s : State) : State :=
  setPair (fun p => { p with asrc := figs.foldl (fun t e => Tbl.put t (f % 4 * 128 + e.1) e.2) p.asrc }) s

/-- Ratio and phase with which the conversions of a capture frame run: in a pair those that the active engine has forwarded for
that frame, so both engines convert alike (R96). -/
def figureOf (s : State) (f : Option Nat) (p : Nat) : Nat × Nat :=
  match if inCopyOrStep s then f else none with
  | some f => Tbl.getD s.pair.asrc (f % 4 * 128 + p) (ownFigure s p)
  | none => ownFigure s p

/-- A section as the words of DATA: position by position, the validity flag and the packed words (log entry 34). -/
def sectionWords (x : Section61) : List Nat := x.pos.flatMap fun e => Fx.b2n e.2.2 :: e.2.1

/-- Both CRC lists of a capture frame are known (R327): the active engine sends the sections that differ, and the standby
waits for them. -/
def compareRecon (f : Nat) (own peer : List (Nat × Nat)) (s : State) : State :=
  -- a section that only one engine has differs (R243)
  let bad := ((own ++ peer).filter fun e => !(own.contains e && peer.contains e)).map (·.1)
  let bad := bad.eraseDups
  if s.pair.activeOut then
    bad.foldl (fun s p => sendLink (.data (.portSection p (linkFrame s f)) (((inSection s p f).map sectionWords).getD [])) s) s
  else setPair (fun p => { p with
    reconWait := (p.reconWait.filter fun e => decide (e ≠ (0xFFFF, f))) ++ bad.map fun q => (q, f) }) s

/-- The RECON of a capture frame (R327): the standby expects the partner's. The mark 0xFFFF stands for the whole message. -/
def sendRecon (f : Nat) (s : State) : State :=
  if !inCopyOrStep s then s
  else
    let crcs := (inputPorts s).filterMap fun p => (inSection s p f).map fun x => (p, sectionCrc x)
    let s := setPair (fun p => { p with ownRecon := Tbl.keep (fun k _ => decide (f < k + 4)) (Tbl.put p.ownRecon f crcs) }) s
    let s := if inCopyOrStep s ∧ ¬ s.pair.activeOut then
      setPair (fun p => { p with reconWait := p.reconWait ++ [(0xFFFF, f)] }) s else s
    let emerg := if s.pair.activeOut then emergMask s else 0
    let figs := if s.pair.activeOut then asrcFigures s else []
    let s := noteFigures f figs (sendLink (.recon (linkFrame s f) crcs emerg figs) s)
    match Tbl.find s.pair.peerRecon f with
    | some peer => compareRecon f crcs peer (setPair (fun p => { p with peerRecon := Tbl.erase p.peerRecon f }) s)
    | none => s

/-- Processing of a capture frame begins: what reconciliation still lacks makes the standby use its own sections (R327). -/
def reconDeadline (f : Nat) (s : State) : State :=
  let missing := s.pair.reconWait.any fun e => decide (e.2 ≤ f)
  let s := setPair (fun p => { p with reconWait := p.reconWait.filter fun e => decide (f < e.2) }) s
  if missing ∧ inCopyOrStep s ∧ ¬ s.pair.activeOut then report Src.pair K.pairReconcile 3 (f % 2 ^ 16) 0 s else s

/-! ### Link loss (R341, R278) -/

/-- A fetched item that has not come when its processing begins (R274, R328): this engine conceals it, or takes a cache
miss, and logs it. -/
def fetchOverdue (s : State) : FetchItem → Bool
  | .packet id c => match Tbl.find s.net.rx id with
    | some x => decide (c + linkSamples s x.cfg ≤ mediaNow s 0)
    | none => true
  | .block _ f => decide (ownFrame s f ≤ s.sys.frameNo)
  | .portSection _ f => decide (ownFrame s f + 1 ≤ s.sys.frameNo)

/-- The fetches that are due at a frame boundary. -/
def fetchDeadline (s : State) : State :=
  let late := s.pair.fetching.filter (fetchOverdue s)
  let s := setPair (fun p => { p with fetching := p.fetching.filter fun i => !late.contains i }) s
  late.foldl (fun s i => match i with
    | .packet id _ => report Src.packet K.netReconcile 3 id 0 s
    | _ => s) s

/-- PARTNER_ACTIVE low with the twin link down counts towards the claim of R278. -/
def noteAlone (s : State) : State :=
  if s.sys.pairEn ∧ ¬ s.pair.partnerIn ∧ ¬ s.pair.link.up then
    match s.net.aloneSince with
    | some _ => s
    | none => { s with net := { s.net with aloneSince := some s.clk.raw } }
  else { s with net := { s.net with aloneSince := none } }

/-- The twin link goes down, or its heartbeat is lost (R341): SEEKING and TWL_DOWN; forwarding ends. -/
def linkDown (s : State) : State :=
  if !s.pair.link.up then s
  else
    let k := s.pair.link
    let s := setPair (fun p => { p with
      link := { k with up := false, txSet := 0, rxSet := 0, txSeq := 0, rxSeq := 0, unacked := [], queue := [], nakked := false, ackDue := false
                       nextSet := none, latest := none }
      peer := none, hello := none, step := 0, passed := 0, partnerPassed := 0, copying := false, finalFrame := none
      config := [], adoptAt := none, peerRecon := []
      reconWait := [], fetching := [], switchAt := none, forced := false, handover := false }) s
    let s := report Src.pair K.twlDown 3 0 0 s
    noteAlone (setPairState 0 s)

end Sys2Proof.Machine
end

