-- ==== Sys2Proof/Machine/Boundary.lean ====
section
/-!
DEFINITION. What happens at a frame boundary (01, 02, 03, 06): the close of the frame in process with its deadline check
(R43, R44, R555), sinks, meters, slack and signatures; the retirement of a frond (R35); commits (R17, R129, R140 to R149);
and the sources that the next processing frame reads (R24, R25).
-/
namespace Sys2Proof.Machine
open Sys2Proof

/-! ### Retirement and the spare (R33 to R35) -/

/-- A sink, or a selection in its role, that carries one of these sources fades in from silence. -/
def SinkState.fromSilence (srcs : List Nat) (k : SinkState) : SinkState :=
  match k.carried with
  | some c => if srcs.contains c then { k with xfade := some { hold := some 0, pos := 0, len := 64 } } else k
  | none => k

/-- Fade the sinks and the mix inputs that carry one of these sources in from silence (R35). -/
def fadeFromSilence (srcs : List Nat) (s : State) : State :=
  { s with
    route := { s.route with sinks := Tbl.mapV (fun _ k => SinkState.fromSilence srcs k) s.route.sinks }
    mix := { s.mix with inp := Tbl.mapV (fun _ (i : MixInput) => { i with sel := i.sel.fromSilence srcs }) s.mix.inp } }

/-- A task starts from its committed parameters, with histories and delay contents cleared (R35); its run index goes on
(R160). -/
def clearTask (key : Nat) (s : State) : State :=
  let p := key % 65536
  let n := match pageName (fam s) p with
    | .block .busStrip _ _ _ => 8
    | .block .inputStrip _ _ _ => 16
    | .block .outputStrip _ _ _ => 16
    | _ => 0
  let b := { s.blk with st := Tbl.keep (fun q _ => !(decide (q = key) || (decide (p ≤ q) && decide (q < p + n)))) s.blk.st }
  let b := match pageName (fam s) p with
    | .block .alone m 0 .detector => { b with meter := Tbl.erase b.meter m, pilot := Tbl.erase b.pilot m }
    | _ => b
  let s := { s with blk := b }
  match Tbl.find s.frond.tasks p with
  | some t =>
    let fr := putKept (frondOf s key) t (zeroKept t) { s.frond with tasks := Tbl.put s.frond.tasks p { t with undo := [] } }
    { s with frond := fr }
  | none => s

/-- Retire a frond (R35): its tasks go to the spare; without one they are placed anew, and what does not fit stays stopped
with the capacity fault. `kind` is the kind whose reaction decides how the paths resume. -/
def retireFrond (f kind : Nat) (s : State) : State :=
  if s.sys.retired.contains f then s
  else
    let keys := (s.frond.placed.filter fun e => e.2.frond = f).map (·.1)
    let s := report f K.frondRetired 2 0 0 { s with sys := { s.sys with retired := s.sys.retired ++ [f] } }
    let outs := keys.flatMap (taskOuts s)
    let s := match s.sys.spareFrond with
      | some sp =>
        let pl := Tbl.mapV (fun _ (x : Placed) => if x.frond = f then { x with frond := sp } else x) s.frond.placed
        settlePlacement pl { s with sys := { s.sys with spareFrond := none } }
      | none =>
        let (pl, left) := placeTasks s (tasksOf s [effView s])
        let s := settlePlacement pl s
        if left = [] then s
        else report Src.sequencer K.capacity 3 0 0 { s with frond := { s.frond with capacity := true } }
    let s := keys.foldl (fun s k => clearTask k s) s
    if Fx.bit (actionsOf s kind 3) Act.reset then fadeFromSilence outs s else s

/-- The move of a frond's tasks to the spare (R34): one step at a boundary, abandoned when a copied word failed. -/
def spareMoveStep (s : State) : State :=
  match s.frond.spareMove, s.sys.spareFrond with
  | some (f, bad), some sp =>
    let s := { s with frond := { s.frond with spareMove := none } }
    if bad then report f K.spareMove 1 0 0 s
    else
      let pl := Tbl.mapV (fun _ (x : Placed) => if x.frond = f then { x with frond := sp } else x) s.frond.placed
      settlePlacement pl { s with sys := { s.sys with spareFrond := some f } }
  | _, _ => { s with frond := { s.frond with spareMove := none } }

/-! ### Runs that end without a commit (R37, R168) -/

/-- Give back the words that a discarded run has written (R161, R168). -/
def undoTask (p : Nat) (s : State) : State :=
  match Tbl.find s.frond.tasks p with
  | none => s
  | some t =>
    let f := frondOf s p
    let fr := t.undo.foldl (fun (fr : Fronds) e => if e.1 < 2 ^ 40 then fr.write f 0 false e.1 e.2 else fr) s.frond
    let bulk := t.undo.foldl (fun (m : Memory) e => if e.1 < 2 ^ 40 then m else m.writeLE ((e.1 - 2 ^ 40) * 4) (e.2.toNat * 256) 4) s.mem.bulk
    { s with frond := { fr with tasks := Tbl.put fr.tasks p { t with undo := [] } }, mem := { s.mem with bulk := bulk } }

/-- The largest counts of a task's runs, with those of a run that ends (R187). -/
def noteCounts (p : Nat) (c : Core) (s : State) : State :=
  match Tbl.find s.frond.tasks p with
  | some t =>
    let t := { t with maxInstr := max t.maxInstr c.instrs, maxBulk := max t.maxBulk c.bulkWords }
    { s with frond := { s.frond with tasks := Tbl.put s.frond.tasks p t } }
  | none => s

/-- Stop the cores that run a task; their handshakes are idle again (R44). What the stopped run had counted enters the
largest counts of its task (R187). -/
def stopCores (key : Nat) (s : State) : State :=
  let f := frondOf s key
  let mine := s.frond.core.filter fun e => decide (e.1 / 4 = f) && decide (e.2.run.page = some (key % 65536))
  let s := mine.foldl (fun s e => noteCounts (key % 65536) e.2 s) s
  let cores := Tbl.mapV (fun k (c : Core) =>
    if k / 4 = f ∧ c.run.page = some (key % 65536) then {} else c) s.frond.core
  undoTask (key % 65536) { s with frond := { s.frond with core := cores } }

/-! ### Missed deadlines (R43, R44) -/

def isUnfinished : TaskMark → Bool
  | .waiting => true
  | .running => true
  | .flagged _ => true
  | .committed => false
  | .failed => false

/-- Tasks, and lanes, of the frame in process that have not committed. -/
def openTasks (s : State) : List Nat := (s.frond.mark.filter fun e => isUnfinished e.2).map (·.1)
def openLanes (s : State) : List Nat := (activeLanes s).filter fun l => !(busOf s l).stored

/-- The record of a miss and its outcome (R44): the source ID of the block that last held work. -/
def missDeadline (held : Nat) (s : State) : State :=
  let f := s.sys.frameNo
  let now := s.clk.raw
  let times := now :: s.frond.misses.filter fun t => decide (now < t + windowTicks)
  let second : Bool := match s.frond.lastMiss with | some (g, _) => decide (g + 1 = f) | none => false
  let same : Bool := match s.frond.lastMiss with | some (g, h) => decide (g + 1 = f ∧ h = held) | none => false
  let sev := if second ∨ 4 ≤ times.length then 3 else 2
  let s := { s with frond := { s.frond with misses := times, lastMiss := some (f, held) } }
  let s := report Src.sequencer K.deadlineMissed sev f held s
  let s := if second then (requestSwitch s).2 else s
  if same ∧ held < 32 then retireFrond held K.deadlineMissed s else s

/-- A missed deadline that TEST.INJECT has asked for (R380): the frame is invalid, and the miss is the sequencer's. -/
def injectedMiss (s : State) : State :=
  match takeInjected (fun x => decide (x.1 = 4)) s with
  | (false, s) => s
  | (true, s) => missDeadline Src.sequencer { s with frond := { s.frond with invalid := true } }

/-- The source of a stage-5 write or of an output buffer: a port, the packet engine, the Peat engine (R15, R26). -/
def isEdgeSource (n : Nat) : Bool := (decide (0x100 ≤ n) && decide (n < 0x160)) || decide (n = Src.packet) || decide (n = Src.peat)

/-- The frond or block that last held work at a miss (R44): the last output write named, else the last unfinished lane, else
the frond of the unfinished task with the highest key (DESIGN CHOICE: the manual does not order work that is unfinished at
once; log entry 81). -/
def lastHeld (s : State) (late ls ts : List Nat) : Nat :=
  match late.getLast?, ls.getLast?, ts.getLast? with
  | some n, _, _ => n
  | none, some l, _ => Src.lane l
  | none, none, some k => frondOf s k
  | none, none, none => Src.sequencer

/-- Abort a task that has not committed; one that was to run a second time gets its record (R37, R44). -/
def abortTask (s : State) (k : Nat) : State :=
  let s := match Tbl.find s.frond.mark k with
    | some (.flagged _) => report (frondOf s k) K.taskLasting 3 (taskIndex k 0xF0000000) 0 s
    | _ => s
  failTask k (stopCores k s)

/-- Abort a lane that has not stored its bus: a reader takes the bus that it stored last (R44, R555). -/
def abortLane (s : State) (l : Nat) : State :=
  let b := busOf s l
  let s := putBus l { b with failed := true, stored := true } s
  if Tbl.has s.frond.mark (busStripPage l) then s else putSource (0x7000 + l) b.last s

/-- The deadline check at the boundary (R43, R44): unfinished work is aborted and the frame is invalid. `late` are the sources
of output buffers and stage-5 writes that are not complete (R15, R43). -/
def checkDeadline (late : List Nat) (s : State) : State :=
  let ts := openTasks s
  let ls := openLanes s
  let es := late.filter isEdgeSource
  if ts = [] ∧ ls = [] ∧ es = [] then injectedMiss s
  else
    let held := lastHeld s es ls ts
    let s := ls.foldl abortLane (ts.foldl abortTask s)
    missDeadline held { s with frond := { s.frond with invalid := true } }

/-- The capture frame that the frame in progress processes: one further back in a pair (R24, R319). -/
def captureOf (s : State) : Option Nat :=
  let d := if s.sys.pairEn then 2 else 1
  if d ≤ s.sys.frameNo then some (s.sys.frameNo - d) else none

/-! ### Sinks of the edge and of stage 5 (R25, R26) -/

/-- Meter and detector pages in force (R98, R100). -/
def meterPages (s : State) : List Nat := (effTable s).filterMap fun e => if 0x800 ≤ e.1 ∧ e.1 < 0x900 then some (e.1 - 0x800) else none

/-- The samples of an output port's slots in use, by slot. -/
def outColumns (s : State) (p : Nat) : List (Nat × List Int) := (slotsInUse s p true).map fun i => (i, sinkSamples s (0xC00 + p * 32 + i))

/-- An output section of a port from the samples of its slots, packed (R61, R233): the emit frame is the one after the processing
frame. -/
def outSectionOf (s : State) (p : Nat) (cols : List (Nat × List Int)) : Section61 :=
  let row := fun (k : Nat) => cols.map fun c => Fx.toUnsigned 24 (c.2.getD k 0) * 256
  { frame := s.sys.frameNo + 1, valid := !s.frond.invalid, mask := useMask s p true
    pos := (List.range (sectionSize s p)).map fun k => (k, row k, !s.frond.invalid) }

/-- An output section into its ring (R61). -/
def putOutSection (p : Nat) (sec : Section61) (s : State) : State :=
  let j := sec.frame % 4
  let x := portOf s p
  sec.pos.foldl (fun s q => putRingWords p true j q.1 q.2.1 s) (putPort p { x with outRing := Tbl.put x.outRing j sec } s)

/-- The slots of an output port after its ASRC: a slot that it does not bridge is silent (R47, R93, R94). A port at a foreign rate
without an ASRC carries no audio (R225). -/
def convertOut (p : Nat) (s : State) : List (Nat × List Int) × State :=
  let cols := outColumns s p
  let silent := cols.map fun c => (c.1, ([] : List Int))
  if atEngineRate s p then (cols, s)
  else match asrcOf s p 1 with
    | none => (silent, s)
    | some page =>
      let a := Tbl.getD s.blk.asrc page {}
      if a.silent then (silent, s)
      else
        let on := bridgedSlots s p true
        let a := a.feed (cols.filter fun c => on.contains c.1) (figureOf s (captureOf s) p)
        (cols.map fun c => (c.1, if on.contains c.1 then (List.range (sectionSize s p)).map (a.converted c.1) else []),
          { s with blk := { s.blk with asrc := Tbl.put s.blk.asrc page a } })

/-- The output sections of the processing frame (R25, R93). -/
def writeOutputs (s : State) : State :=
  (s.port.port.filter fun e => e.2.outOn).foldl (fun s e =>
    let (cols, s) := convertOut e.1 s
    putOutSection e.1 (outSectionOf s e.1 cols) s) s

/-- A stream's samples into packets (R267, R268). Counts that an extension skips carry zeros (R290). -/
def TxStream.frame (x : TxStream) (ps ssrc count skip : Nat) (rows : List (List Int)) (invalid : Bool) : TxStream :=
  let zero : List Int := List.replicate x.cfg.channels 0
  let x := (List.range skip).foldl (fun (x : TxStream) i => x.sample ps (count - skip + i) ssrc zero false) x
  (rows.zip (List.range rows.length)).foldl (fun (x : TxStream) r => x.sample ps (count + r.2) ssrc r.1 invalid) x

/-- The emit positions of the frame that the processing frame feeds (R25). -/
def writePackets (skip : Nat) (s : State) : State :=
  let j := s.clk.boundaryJ + s.sys.b
  let count := gridMediaCount s (j + 1)
  let tx := Tbl.mapV (fun id (x : TxStream) =>
    let cols := (List.range x.cfg.channels).map fun i => sinkSamples s (0x4000 + x.cfg.first + i)
    let rows := (List.range s.sys.b).map fun k => cols.map fun c => c.getD k 0
    x.frame (packetSamples (fam s) x.cfg.ptime) (streamSsrc (senderId s 96) id x.cfg) count skip rows s.frond.invalid) s.net.tx
  { s with net := { s.net with tx := tx } }

/-- The recorder's share of the frame (R393 to R396). -/
def writeTracks (time count : Nat) (s : State) : State :=
  s.peat.track.foldl (fun s e => recordFrame e.1 (sinkSamples s (0x7800 + e.1)) time count s.frond.invalid s) s

/-! ### Meters and detectors (R98, R100) -/

/-- A meter of a threshold event, with hysteresis (R98). -/
def meterEvent (n : Nat) (level thr hyst : Int) (m : Meter) (s : State) : State :=
  let above := if m.above then decide (thr - hyst ≤ level) else decide (thr < level)
  let s := { s with blk := { s.blk with meter := Tbl.put s.blk.meter n { m with above := above } } }
  if above = m.above ∨ thr = dbOff then s
  else postEvent Ev.meter none 0 (u16 n ++ u8 (Fx.b2n above) ++ u8 0 ++ s16 level) s

/-- The readings of a meter endpoint at the boundary, and its threshold event (R98). -/
def meterClose (n : Nat) (s : State) : State :=
  let get := effGet s (0x800 + n)
  let m := meterLatch (Tbl.getD s.blk.meter n {})
  meterEvent n (if get 0 = 2 then m.readRms else m.readPeak) (get 4) (get 5) m s

/-- The boundary latches the readings of every meter whose task has committed, and those of the strips (R98). -/
def meterAll (s : State) : State :=
  let s := (meterPages s).foldl (fun s n =>
    if effGet s (0x800 + n) 0 < 3 ∧ Tbl.find s.frond.mark (0x800 + n) = some .committed then meterClose n s else s) s
  let strips := Tbl.mapV (fun _ m => meterLatch m) s.blk.stripMeter
  { s with blk := { s.blk with stripMeter := strips, meterFrame := s.sys.frameNo } }

/-! ### Signatures (R331) -/

/-- CRC-64 of R331 over words, the most significant bit first. -/
def crc64 (ws : List Nat) : Nat :=
  (crcMsb 64 0x42F0E1EBA9EA3693 (2 ^ 64 - 1) (ws.flatMap (be 4))) ^^^ (2 ^ 64 - 1)

def sapWords (s : State) : List Nat :=
  (s.port.port.filter fun e => e.2.outOn).flatMap fun e =>
    let x := Tbl.getD e.2.outRing ((s.sys.frameNo + 1) % 4) {}
    x.pos.flatMap (fun q => q.2.1) ++ [Fx.b2n x.valid]

def netWords (s : State) : List Nat :=
  s.net.tx.flatMap fun e => ((List.range e.2.cfg.channels).flatMap fun i =>
      (sinkSamples s (0x4000 + e.2.cfg.first + i)).map (Fx.toUnsigned 24)) ++ (if s.frond.invalid then [0xFFFFFFFF] else [])

def recWords (s : State) : List Nat :=
  s.peat.track.flatMap fun e => (sinkSamples s (0x7800 + e.1)).map (Fx.toUnsigned 24) ++
    (match e.2.gap with | some (_, _, _, c) => if c = 2 ∨ c = 3 then [0xFFFFFFFF] else [] | none => [])

/-- The three signatures of the frame in process (log entry 36). -/
def frameSignature (s : State) : Nat × Nat × Nat := (crc64 (sapWords s), crc64 (netWords s), crc64 (recWords s))

/-! ### Slack (R39 to R42) -/

/-- One frond's figures of the frame: frond, raw and base slack in 0.1 % (log entry 12). -/
def slackOne (feeds : Bool) (s : State) (e : Nat × Nat × Nat) : State :=
  if !(inService s).contains e.1 then s
  else
    let old := Tbl.getD s.frond.slack e.1 {}
    let x : SlackRec := { old with raw := min e.2.1 1000, base := min e.2.2 1000, low := min old.low (min e.2.2 1000) }
    let fr := { s.frond with slack := Tbl.put s.frond.slack e.1 x, intervalMin := if feeds then min s.frond.intervalMin x.base else s.frond.intervalMin }
    let s := { s with frond := fr }
    if x.base < 150 ∧ !s.frond.alarmNow then
      report e.1 K.slackAlarm 2 s.sys.frameNo 0 { s with frond := { s.frond with alarmNow := true } }
    else s

/-- Slack records of a boundary: a frond that finished no task, holding none, records 1,000. -/
def recordSlack (feeds : Bool) (slack : List (Nat × Nat × Nat)) (s : State) : State :=
  let idle := (inService s).filter fun f => !slack.any fun e => e.1 = f
  let s := (slack ++ idle.map fun f => (f, 1000, 1000)).foldl (slackOne feeds) s
  { s with frond := { s.frond with slackFrames := s.frond.slackFrames + 1 } }

/-! ### The close of the frame in process -/

/-- Every instance counts the frames that are processed (R160). -/
def bumpRuns (s : State) : State :=
  { s with frond := { s.frond with tasks := Tbl.mapV (fun _ (t : ExpertTask) =>
      if t.live then { t with runIndex := t.runIndex + 1, undo := [] } else t) s.frond.tasks } }

/-- Inputs that no lane has fetched are fetched once (R106, R119); then their flags roll over. -/
def closeInputs (s : State) : State :=
  let s := s.mix.inp.foldl (fun s e => fetchInput e.1 s) s
  let inp := Tbl.mapV (fun _ (i : MixInput) => { i with samples := [], flags := [], presPrev := i.presNow }) s.mix.inp
  { s with mix := { s.mix with inp := inp } }

/-- The frame in process ends: deadline, edge sinks, meters, slack; its capture frame is complete. `skip` counts are
skipped by an extension at this boundary; `time` and `count` are of the frame's first sample. -/
def closeFrame (time count skip : Nat) (feeds : Bool) (slack : List (Nat × Nat × Nat)) (late : List Nat) (s : State) : State :=
  let s := checkDeadline late s
  -- the moves that no task has waited for, those of tasks that have not run among them (R63)
  let s := moveSinks (s.route.sinks.map (·.1)) s
  let s := meterAll (writeTracks time count (writePackets skip (writeOutputs s)))
  let s := bumpRuns (recordSlack feeds slack (closeInputs s))
  if s.sys.pairEn then ownSignature s.sys.frameNo (frameSignature s) s.frond.invalid s else s

/-! ### Commits at the boundary (R129, R130, R140 to R149) -/

/-- Apply the changes of a unit and swap its pages. -/
def applyUnit (pages : List Nat) (cs : List Change) (s : State) : State :=
  noteChange pages cs (pages.foldl swapPage (applyChanges cs s))

/-- One unit that falls due; a list or scene action answers by SCENE_APPLIED. -/
def commitSet (s : State) (c : CommitSet) : State :=
  match c.action with
  | none => applyUnit c.pages c.changes s
  | some a => match Tbl.find s.scene.actions a with
    | none => s
    | some x =>
      if c.due.getD 0 < s.sys.frameNo ∧ judge s x.time x.always s.sys.frameNo = .expired then actionFails a St.expired 0 s
      else
        let (st, ns) := completion s x
        let s := applyUnit c.pages c.changes s
        postApplied a x st ns { s with scene := { s.scene with actions := Tbl.erase s.scene.actions a } }

/-- The pages that an action holds. -/
def actionPages (s : State) (a : Nat) : List Nat := pagesHeldBy s (.heldAction a)

/-- Actions at a boundary (R140 to R143): one for the next frame commits, and one that stands in the comparator commits
once the boundary nearest its time has come. While Mladir does not respond it is held, and judged for lateness after
that. An action that a transaction carries waits for its COMMIT. -/
def actionBoundary (s : State) (e : Nat × Action) : State :=
  let (a, x) := e
  let due := match x.state with | .handed => true | .loaded => x.time.isNone && x.txn.isNone | .loading => false
  if !due ∨ (s.commit.sets.any fun c => c.action = some a) then s
  else
    let early : Bool := match x.time with
      | some t => decide (s.sys.frameNo < nearestFrame s t)
      | none => false
    if early then s
    else if !s.sys.mladirUp then
      { s with scene := { s.scene with actions := Tbl.put s.scene.actions a { x with late := x.time.isSome } } }
    else if x.late ∧ judge s x.time x.always s.sys.frameNo = .expired then actionFails a St.expired 0 s
    else
      let (st, ns) := completion s x
      let s := applyUnit (actionPages s a) x.changes s
      postApplied a x st ns { s with scene := { s.scene with actions := Tbl.erase s.scene.actions a } }

/-- The pages that an assignment brings under an emergency input (R145, R148). -/
def assignedPages (s : State) : Change → List Nat
  | .emergAssign _ (some n) _ => match sceneRecords s n with
    | .ok rs => rs.map (·.page)
    | .error _ => []
  | _ => []

/-- Pages whose reader-side content can change at this boundary, with what it was. -/
def watchedPages (s : State) (f : Nat) : List Nat :=
  let dues := (dueSets s f).flatMap (·.pages)
  let acts := s.scene.actions.flatMap fun e => if e.2.state = .loading then [] else actionPages s e.1
  let em := s.scene.emerg.flatMap fun e => e.2.pages
  let inst := (dueSets s f).flatMap fun c => changePages c.changes
  let new := (dueSets s f).flatMap fun c => c.changes.flatMap (assignedPages s)
  (dues ++ acts ++ em ++ inst ++ new).eraseDups

/-- Emergency inputs at a boundary (R147 to R149): states, then the redirection of pages. -/
def emergBoundary (s : State) : State :=
  let em := Tbl.mapV (fun _ (e : Emerg) => e.boundary s.sys.frameNo) s.scene.emerg
  let freed := (em.filter fun e => e.2.latched && !(emergOf s e.1).latched).map (·.1)
  let s := { s with scene := { s.scene with emerg := em } }
  let s := { s with page := { s.page with redirect := redirection s } }
  freed.foldl (fun s n => postEvent Ev.emergReleased none 0 (u8 n) s) s

/-- The commits of a boundary. Graph changes bring a new placement with them (R31). -/
def commitBoundary (s : State) : State :=
  let f := s.sys.frameNo
  let old := (watchedPages s f).map fun p => (p, effRec s p)
  let sets := dueSets s f
  let red := s.page.redirect
  let acts := s.scene.actions.length
  let s0 := s
  let s := sets.foldl commitSet (takeSets f s)
  let s := s.scene.actions.foldl actionBoundary s
  let swapped := (old.map (·.1)).filter fun p =>
    decide (Tbl.find s0.page.status p ≠ some .reseeding ∧ Tbl.find s.page.status p = some .reseeding)
  let s := transitAll swapped old (emergBoundary s)
  if sets = [] ∧ s.page.redirect = red ∧ s.scene.actions.length = acts then s
  else settlePlacement (placeTasks s (tasksOf s [effView s])).1 s

/-! ### Sources of the next processing frame (R24, R25) -/

/-- A slot's samples of a capture frame: the mover takes bits [31:8] of its words (R61). -/
def slotSamples (s : State) (p slot : Nat) (f : Option Nat) : List Int :=
  match f.bind (inSection s p) with
  | some x => (List.range (sectionSize s p)).map fun k => Fx.toSigned 24 (x.word slot k / 256)
  | none => []

/-- The slots of one input port; those of a port at a foreign rate come from its ASRC, under one ramp (R93 to R95). -/
def loadPort (f : Option Nat) (s : State) (p : Nat) : State :=
  if atEngineRate s p then (slotsInUse s p false).foldl (fun s slot => putSource (p * 32 + slot) (slotSamples s p slot f) s) s
  else match asrcOf s p 0 with
    | none => s
    | some page =>
      let a := Tbl.getD s.blk.asrc page {}
      if a.silent then s
      else
        let slots := bridgedSlots s p false
        let a := a.feed (slots.map fun i => (i, slotSamples s p i f)) (figureOf s f p)
        let s := { s with blk := { s.blk with asrc := Tbl.put s.blk.asrc page (a.passed s.sys.b) } }
        slots.foldl (fun s slot => putSource (p * 32 + slot) ((List.range s.sys.b).map fun k => a.ramped k (a.converted slot k)) s) s

/-- The stage-0 sources of the frame that begins; the frame before stays at hand for reads of the previous frame (R27). -/
def loadSources (s : State) : State :=
  let s := { s with blk := { s.blk with prev := s.blk.cur, cur := [], sink := [] } }
  let f := captureOf s
  let s := (inputPorts s).foldl (loadPort f) s
  let s := s.net.rx.foldl (fun s e => (List.range e.2.cfg.channels).foldl (fun s i =>
    putSource (0x2000 + e.2.cfg.first + i) (match f with | some k => rxChannel s (e.2.cfg.first + i) k | none => []) s) s) s
  (s.peat.voice.filter fun e => decide (e.2.state ≠ 0)).foldl (fun s e =>
    let (xs, s) := voiceFrame e.1 s
    putSource (0x7600 + e.1) xs s) s

/-- Control flags in force. -/
def flagsOf (s : State) (i : Nat) : Bool := decide (effGet s 0x208 i = 1)

/-- A processing frame begins: marks, sources, lanes. `flags` are those of the end of the frame before (R119). -/
def startFrame (flags : Nat → Bool) (s : State) : State :=
  let s := loadSources s
  let marks := Tbl.mapV (fun _ (_ : Placed) => TaskMark.waiting) s.frond.placed
  let s := { s with frond := { s.frond with mark := marks, retried := [], invalid := false } }
  (activeLanes s).foldl (fun s l => startLane flags s l) s

end Sys2Proof.Machine
end

