-- ==== Sys2Proof/Machine/Operands.lean ====
section
/-!
DEFINITION. Operand forms of a frond core: the two moves of a parallel instruction (R198 to R201, R209) and the register
codes of LDI and MOVR (R191, R206).
-/
namespace Sys2Proof.Machine
open Sys2Proof

/-! ### Moves (R198 to R201, R209) -/

/-- What a move field asks is legal in its own bits (R201). -/
def moveLegal (m : Move) : Bool :=
  decide (m.kind < 7) && (decide (m.shift = 0) || decide (m.kind = 3) || decide (m.kind = 4))

/-- The addresses of a move: one, or two for a double access (R198); and the pointer after it. -/
def moveAddrs (m : Move) (b : Bank) : List Nat × W24 :=
  let p := b.p.getD m.ptr 0
  let md := b.m.getD m.ptr 0
  let p1 := postModify m.post p md
  if m.kind = 4 ∨ m.kind = 6 then ([p.toNat, p1.toNat], postModify m.post p1 md) else ([p.toNat], p1)

/-- The words a store move writes, with its addresses, and SS (R194, R195). -/
def moveStores (m : Move) (b : Bank) : List (Nat × W24) × Bool :=
  let (as_, _) := moveAddrs m b
  let a0 := as_.getD 0 0
  let a1 := as_.getD 1 0
  match m.kind with
  | 2 => ([(a0, b.dat m.reg)], false)
  | 3 => let (w, ss) := storeSingle b.truncates b.wraps (b.slow m.reg) m.shift; ([(a0, w)], ss)
  | 4 => let (h, l, ss) := storeDouble (b.slow m.reg) m.shift; ([(a0, h), (a1, l)], ss)
  | _ => ([], false)

/-- Rights and modifiers of one move hold (R166, R190). -/
def moveAllowed (m : Move) (t : ExpertTask) (bsz : Nat) (y : Bool) (b : Bank) : Bool :=
  moveLegal m && (decide (m.kind = 0) ||
    ((decide (m.post = 0) || modLegal (b.m.getD m.ptr 0)) &&
     (moveAddrs m b).1.all fun a =>
      if m.kind = 2 ∨ m.kind = 3 ∨ m.kind = 4 then mayWrite t bsz y a else mayRead t bsz y a))

/-- The register effect of a load move (R196). -/
def moveLoads (m : Move) (rd : Nat → W24) (b0 b : Bank) : Bank :=
  let (as_, _) := moveAddrs m b0
  let a0 := as_.getD 0 0
  let a1 := as_.getD 1 0
  match m.kind with
  | 1 => b.putData m.reg (rd a0)
  | 5 => b.putLoad m.reg (loadSingle (rd a0))
  | 6 => b.putLoad m.reg (loadDouble (rd a0) (rd a1))
  | _ => b

/-- Both moves beside an operation: `b0` the bank before the instruction, `b` after the operation field. Reads come
before writes; the Y move wins a shared word, a shared pointer and a register (R199, R208, R209). Answers the bank
and the words written: side Y, address, word. -/
def moves (rdx rdy : Nat → W24) (x y : Move) (b0 b : Bank) : Bank × List (Bool × Nat × W24) :=
  let (sx, ssx) := if x.kind = 0 then ([], false) else moveStores x b0
  let (sy, ssy) := if y.kind = 0 then ([], false) else moveStores y b0
  let b := if x.kind = 0 then b else moveLoads x rdx b0 b
  let b := if y.kind = 0 then b else moveLoads y rdy b0 b
  let px := (moveAddrs x b0).2
  let py := (moveAddrs y b0).2
  let ps := if x.kind = 0 then b.p else b.p.set x.ptr px
  let ps := if y.kind = 0 then ps
    else if x.kind ≠ 0 ∧ x.ptr = y.ptr then b.p.set y.ptr py else ps.set y.ptr py
  let b := { b with p := ps }
  let b := if ssx || ssy then b.swLater 0 0x10 else b
  (b, (sx.map fun w => (false, w.1, w.2)) ++ (sy.map fun w => (true, w.1, w.2)))

/-! ### Register codes (R191) -/

/-- Read a register by its code; `busy` is the occupancy of the frond's bulk port (R188). -/
def Core.readReg (c : Core) (busy : Nat) (b : Bank) (code : Nat) : Option W24 :=
  if code < 4 then some (b.dat code)
  else if code < 12 then some (b.p.getD (code - 4) 0)
  else if code < 20 then some (b.m.getD (code - 12) 0)
  else if code < 24 then some (b.l.getD (code - 20) 0)
  else if code = 24 then some (c.sw b)
  else if code = 25 then some (BitVec.ofNat 24 c.spos)
  else if code = 26 then some (BitVec.ofNat 24 (c.flags % 16 + 16 * busy))
  else none

/-- SW written whole by LDI or MOVR: RM, WM, SFE and CE at n + 1; Z, N, E, SS and AV at n + 2 (R207). RO fields are
unchanged (R189). -/
def Bank.putSw (b : Bank) (v : W24) : Bank :=
  let now : W24 := 0x003300
  ({ b with sw := (b.sw &&& ~~~now) ||| (v &&& now) }).swLater 0x37 (v &&& 0x37).toNat

/-- Write a register by its code, as LDI and MOVR do (R191, R206). -/
def Bank.writeReg (b : Bank) (code : Nat) (v : W24) : Option Bank :=
  if code < 4 then some (b.putData code v)
  else if code < 12 then some { b with p := b.p.set (code - 4) v }
  else if code < 20 then some { b with m := b.m.set (code - 12) v }
  else if code < 24 then some { b with l := b.l.set (code - 20) v }
  else if code = 24 then some (b.putSw v)
  else none

end Sys2Proof.Machine
end

