-- ==== Sys2Proof/Machine/FrondRun.lean ====
section
/-!
DEFINITION. Runs of expert tasks on a core (07, 08): entry (R159, R160), the issue of an instruction with its legality
(R166, R212, R214, R221), events and handlers (R169 to R171), bulk transfers (R173, R217, R218), END (R162) and a run that
is stopped (R165, R166).
-/
namespace Sys2Proof.Machine
open Sys2Proof

def coreOf (s : State) (f c : Nat) : Core := Tbl.getD s.frond.core (f * 4 + c) {}
def putCore (f c : Nat) (k : Core) (s : State) : State := { s with frond := { s.frond with core := Tbl.put s.frond.core (f * 4 + c) k } }

/-- The core has no task. -/
def coreFree (s : State) (f c : Nat) : Bool := decide (c < 4) && decide ((coreOf s f c).run = .idle)

/-! ### Events (R169 to R171) -/

/-- SW of the task's own stream, whichever bank is in use (R157, R169). -/
def Core.taskSw (k : Core) : W24 := if k.handler then k.shadow.sw else k.main.sw

/-- Swap the banks and enter a handler (R170). -/
def Core.enterHandler (k : Core) (h : Nat) : Core :=
  { k with main := { k.shadow with pc := h, slot := false, target := none }, shadow := k.main, handler := true }

/-- The word of END, its class and kind alone (R206). -/
def endWord : Nat := 0xC00000000000

/-- END stands at an address of a core's program memory. -/
def endsAt (fr : Fronds) (f c a : Nat) : Bool := decide ((fr.progWord f c a).toNat = endWord)

/-- Take a waiting event at an instruction boundary: bulk completion before the sub-frame tick; none inside a handler, in
a delay slot, while the core holds, or at the instruction time of END (R170, R171, R215). -/
def Core.takeEvents (t : ExpertTask) (atEnd : Bool) (k : Core) : Core :=
  let free := match k.run with | .task _ => !k.handler && !k.main.slot && !atEnd | _ => false
  if !free then k
  else match k.waitBulk, t.dmaHandler, k.waitTick, t.tickHandler with
    | true, some h, _, _ => { k with waitBulk := false }.enterHandler (t.codeLo + h)
    | _, _, true, some h => { k with waitTick := false }.enterHandler (t.codeLo + h)
    | _, _, _, _ => k

/-- A core goes on as k, at an instruction boundary. -/
def goOn (f c : Nat) (t : ExpertTask) (k : Core) (s : State) : State :=
  putCore f c (k.takeEvents t (endsAt s.frond f c k.main.pc)) s

/-! ### The bulk port (R173) -/

/-- The posted transfers of a frond's bulk port, its four queues together, and those that wait for an entry (R173). -/
def portQueue (s : State) (f : Nat) : List BulkXfer := (List.range 4).flatMap fun c => (coreOf s f c).queue
def portHeld (s : State) (f : Nat) : List (Nat × BulkXfer) := (List.range 4).filterMap fun c =>
  match (coreOf s f c).run, (coreOf s f c).sync with | .heldQueue _, some x => some (c, x) | _, _ => none

/-- Entries of the port's queue of four in use (R173, R188). -/
def portBusy (s : State) (f : Nat) : Nat := (portQueue s f).length

/-- The place of the transfer that comes next. -/
def portNext (s : State) (f : Nat) : Nat :=
  (portQueue s f ++ (portHeld s f).map (·.2)).foldl (fun n x => max n (x.order + 1)) 0

/-- An entry of the frond's bulk queue is free: the core that has waited longest for one enters its transfer and goes on
(R173). -/
def releaseHeld (f : Nat) (s : State) : State :=
  let first := (portHeld s f).foldl (fun (b : Option (Nat × BulkXfer)) e => match b with
    | some o => if e.2.order < o.2.order then some e else b
    | none => some e) none
  match if portBusy s f < 4 then first else none with
  | none => s
  | some (c, x) =>
    let k := coreOf s f c
    match k.run with
    | .heldQueue p => match Tbl.find s.frond.tasks p with
      | some t => goOn f c t { k with run := .task p, queue := k.queue ++ [x], sync := none } s
      | none => s
    | _ => s

/-- Entries of a frond's bulk queue are free: the cores that hold for one go on, as far as they go. -/
def freeEntries (f : Nat) (s : State) : State := releaseHeld f (releaseHeld f (releaseHeld f s))

/-- Stop a task's run: its transfers leave the port with it (R44, R168). -/
def dropRun (key : Nat) (s : State) : State := freeEntries (frondOf s key) (stopCores key s)

/-! ### Entry (R159, R160) -/

/-- The words of the context block (R160). -/
def contextWords (s : State) (t : ExpertTask) : List Nat :=
  [t.runIndex % 2 ^ 24, t.runIndex / 2 ^ 24 % 2 ^ 24, s.sys.b, s.sys.rate, t.inBase, t.outBase, t.bank,
   if t.copy then t.ppB else t.ppA, if t.copy then t.ppA else t.ppB, t.xBase, t.yBase, t.rings.length] ++
  t.rings.flatMap fun r => [if r.bulk then r.base / 4 else r.base, r.size, r.head]

/-- Write words of shared frond memory from an address on. -/
def writeShared (f a : Nat) (ws : List W24) (fr : Fronds) : Fronds :=
  ((List.range ws.length).zip ws).foldl (fun (fr : Fronds) e => fr.write f 0 false (a + e.1) e.2) fr

/-- The other tasks of a frond whose run is under way or waits for its second run, and those of them that hold a core. -/
def busyTasks (s : State) (p f : Nat) : List (ExpertTask × Bool) :=
  (s.frond.tasks.filter fun e => e.1 != p && decide (frondOf s e.1 = f)).filterMap fun e =>
    if s.frond.core.any fun c => decide (c.1 / 4 = f) && decide (c.2.run.page = some e.1) then some (e.2, true)
    else match Tbl.find s.frond.mark e.1 with | some (.flagged _) => some (e.2, false) | _ => none

/-- Where a run's n words stand: at `now` where no run of `used` is met, else at the lowest free run of the area, keeping
clear at least of the runs in `must`. -/
def runPlace (used must : List (Nat × Nat)) (lo top n now : Nat) : Nat :=
  let free := fun (rs : List (Nat × Nat)) => rs.all fun r => !(decide (r.1 < now + n) && decide (now < r.1 + r.2))
  if lo ≤ now ∧ free used then now
  else match lowestRun used lo top n with
    | some a => a
    | none => (lowestRun must lo top n).getD lo

/-- The context block and the staging words of a run that begins: they stand clear of every other run under way in the
frond (R155, R160, R161; log entry 19). -/
def placeRun (s : State) (p f : Nat) (t : ExpertTask) : ExpertTask :=
  let others := busyTasks s p f
  let on := (others.filter (·.2)).map (·.1)
  let all := others.map (·.1)
  let ctx := fun (o : ExpertTask) => (o.ctx, ctxWords o)
  let st := fun (o : ExpertTask) => (o.inBase, (o.ins.length + o.outs.length) * 32)
  let base := runPlace (all.map st) (on.map st) 0x104000 0x10C000 ((t.ins.length + t.outs.length) * 32) t.inBase
  { t with
    ctx := runPlace (all.map ctx) (on.map ctx) 0x100000 0x104000 (ctxWords t) t.ctx
    inBase := base, outBase := base + t.ins.length * 32 }

/-- A run begins on a core: inputs staged, output staging clear, context block, parameters of the bank in force, entry
registers; no event waits (R159 to R161, R168). -/
def enterRun (p f c : Nat) (second : Bool) (s : State) : State :=
  match Tbl.find s.frond.tasks p with
  | none => s
  | some t =>
    let t := placeRun s p f t
    let s := moveSinks t.ins { s with frond := { s.frond with tasks := Tbl.put s.frond.tasks p t } }
    let b := s.sys.b
    let stage := t.ins.flatMap fun i => (List.range b).map fun k => BitVec.ofInt 24 ((sinkSamples s i).getD k 0)
    let clear : List W24 := List.replicate (t.outs.length * b) 0
    let r := effRec s p
    let params := (List.range t.params).map fun i => BitVec.ofInt 24 ((Tbl.find r (rawBase + i)).getD 0)
    let fr := writeShared f t.ctx ((contextWords s t).map (BitVec.ofNat 24)) s.frond
    let fr := writeShared f t.bank params (writeShared f t.outBase clear (writeShared f t.inBase stage fr))
    let main : Bank := { p := (BitVec.ofNat 24 t.ctx) :: List.replicate 7 0, pc := t.codeLo + t.entry }
    let k : Core := { run := .task p, main := main, second := second, spos := framePos s }
    putCore f c k { s with frond := fr }

/-! ### A run that is stopped (R165, R166) -/

/-- Stop a run and handle its outputs as those of a failed second run (R165, R166). -/
def stopRun (f p kind : Nat) (s : State) : State := report f kind 3 (p % 65536) 0 (failTask p (dropRun p s))

/-- The run has gone past its declared counts (R165). -/
def pastLimit (s : State) (t : ExpertTask) (k : Core) : Bool :=
  decide (t.f + t.v * s.sys.b < k.instrs) || decide (t.fb + t.vb * s.sys.b < k.bulkWords)

/-- What an instruction on a core works with: a task that runs there within its counts. -/
def runningOn (s : State) (f c : Nat) : Option (Nat × ExpertTask × Core) :=
  let k := coreOf s f c
  match k.run with
  | .task p => match Tbl.find s.frond.tasks p with
    | some t => if pastLimit s t k then none else some (p, t, k)
    | none => none
  | _ => none

/-! ### A run that raises a retry flag (R36, R37, R153) -/

/-- The word of a frond's memories that a location of R38 names: its memory by the code m of R367, and its byte offset, at 8
bytes a program word and 4 a data word as in R437. -/
def wordOfLoc (loc : Nat) : Option (Nat × Nat) :=
  let m := loc / 2 ^ 24 % 16
  let w := loc % 2 ^ 24
  if loc / 2 ^ 28 ≠ 0 ∨ 12 < m then none else some (m, if m < 4 then 8 * w else 4 * w)

/-- Such a word in program memory or a constant area (R153). -/
def rewritable (loc : Nat) : Option (Nat × Nat) :=
  match wordOfLoc loc with
  | some (m, o) => if m < 4 ∨ (m < 12 ∧ 0x4000 ≤ o ∧ o < 0x10000) then some (m, o) else none
  | none => none

/-- Mladir rewrites a program or constant word that a task found uncorrectable from the image copy, and logs it (R153; log
entry 40): the core's own word gives way to the common one. -/
def rewriteWord (frond loc : Nat) (s : State) : State :=
  match rewritable loc with
  | some (m, offset) =>
    let own := if m < 4 then ownKey frond m 0 (offset / 8) else if m < 8 then ownKey frond (m - 4) 1 (offset / 4)
      else ownKey frond (m - 8) 2 (offset / 4)
    report frond K.frondRewrite 1 offset m { s with frond := { s.frond with own := Tbl.erase s.frond.own own } }
  | none => s

/-- A word that a run found correctable is corrected in place and logged as masked (R36, R153). -/
def correctedWord (frond : Nat) (s : State) (loc : Nat) : State :=
  match wordOfLoc loc with
  | some (m, offset) => report frond K.eccCe 1 offset m s
  | none => s

/-- A second flag, or a second run that cannot go on: TASK_LASTING and the outputs of a missed deadline (R37). -/
def taskLasts (key loc : Nat) (s : State) : State :=
  report (frondOf s key) K.taskLasting 3 (taskIndex key loc) 0 (failTask key (dropRun key s))

/-- Count a retry of a frond (R42). -/
def countRetry (f : Nat) (s : State) : State :=
  let x := Tbl.getD s.frond.slack f {}
  { s with frond := { s.frond with slack := Tbl.put s.frond.slack f { x with retries := x.retries + 1 }, retried := f :: s.frond.retried } }

/-- Count a retry of an expert task (R187). -/
def countTaskRetry (p : Nat) (s : State) : State :=
  match Tbl.find s.frond.tasks p with
  | some t => { s with frond := { s.frond with tasks := Tbl.put s.frond.tasks p { t with retries := t.retries + 1 } } }
  | none => s

/-- A run raises a flag at a location (R36, R37, R153): the first run is discarded and the task waits for a core; a flag of
the second run lasts. -/
def raiseFlag (key loc : Nat) (s : State) : State :=
  let s := rewriteWord (frondOf s key) loc s
  match Tbl.find s.frond.mark key with
  | some (.flagged _) => taskLasts key loc s
  | _ => setMark key (.flagged loc) (dropRun key s)

/-! ### Issue of an instruction -/

/-- The core after an instruction that counted `n` instruction times. -/
def Core.retire (k : Core) (b : Bank) (n : Nat) : Core := { k with main := b, instrs := k.instrs + n }

/-- The address an instruction stands at is inside the image's code, and its class may stand there (R166, R212, R214). -/
def mayIssue (t : ExpertTask) (b : Bank) (cls : Cls) (waits : Bool) : Bool := inRun b.pc t.codeLo t.codeLen && placeLegal b cls waits

/-- Issue an instruction that works on the core alone: illegal ones stop the run (R221). The function answers the core
afterwards, or none where the instruction is illegal. -/
def issue (f c : Nat) (cls : Cls) (waits : Bool) (go : ExpertTask → Core → Bank → Option Core) (s : State) : State :=
  match runningOn s f c with
  | none => s
  | some (p, t, k) =>
    let b := k.main.settle
    if !mayIssue t b cls waits then stopRun f p K.taskBounds s
    else match go t k b with
      | none => stopRun f p K.taskBounds s
      | some k => goOn f c t k s

/-- Write the words of a move, keeping what a discarded run must give back (R161, R168). -/
def writeWords (f c p : Nat) (ws : List (Bool × Nat × W24)) (s : State) : State :=
  ws.foldl (fun s (y, a, w) =>
    match Tbl.find s.frond.tasks p with
    | none => s
    | some t =>
      let t := if undoable t a then { t with undo := (a, s.frond.read f c y a) :: t.undo } else t
      let fr : Fronds := { s.frond with tasks := Tbl.put s.frond.tasks p t }
      { s with frond := fr.write f c y a w }) s

/-- A parallel instruction: the operation and both moves in one instruction time (R200, R209). -/
def parallel (f c : Nat) (x y : Move) (op : Bank → Option Bank) (s : State) : State :=
  match runningOn s f c with
  | none => s
  | some (p, t, k) =>
    let b0 := k.main.settle
    match op b0 with
    | none => stopRun f p K.taskBounds s
    | some b1 =>
      if !mayIssue t b0 .plain false || !moveAllowed x t s.sys.b false b0 || !moveAllowed y t s.sys.b true b0 then
        stopRun f p K.taskBounds s
      else
        let (b, ws) := moves (fun a => s.frond.read f c false a) (fun a => s.frond.read f c true a) x y b0 b1
        writeWords f c p ws (goOn f c t (k.retire b.advance 1) s)

/-- As an operand of an operation that writes Ad (R207). -/
def Bank.source (b : Bank) (ad as : Nat) : W56 := if as = ad then b.fast ad else b.slow as

/-! ### Bulk transfers (R173, R217, R218) -/

/-- A bulk word as the frond reads it, and its write (R173). -/
def readBulkWord (s : State) (i : Nat) : W24 := BitVec.ofNat 24 (s.mem.bulk.readLE (i * 4) 4 / 256)
def writeBulkWord (i : Nat) (w : W24) (m : Memory) : Memory := m.writeLE (i * 4) (w.toNat * 256) 4

/-- A bulk word that failed twice carries poison (R364). -/
def bulkPoisoned (s : State) (i : Nat) : Bool := s.mem.poison.contains (1, i)

/-- What becomes of the words of a bulk read: those whose first read fails, and whether the second does too; a poisoned word
fails both times (R174, R364). -/
def readFails (s : State) (r : Ring) (x : BulkXfer) : List (Nat × Bool) :=
  if x.toBulk then []
  else (List.range x.words).filterMap fun j =>
    if bulkPoisoned s (r.base + (x.offset + j) % r.size) then some (j, true) else x.fails.find? fun e => e.1 = j

/-- The record of a word that the second read brought (R174, R350): its logical bulk address and the bank that served it. -/
def bulkMasked (f : Nat) (r : Ring) (x : BulkXfer) (s : State) (j : Nat) : State :=
  let a := (r.base + (x.offset + j) % r.size) * 4
  report f K.bulkMasked 1 a (bankServing s a) s

/-- Carry out a transfer's words in order (R217, R218). -/
def bulkWords (f c p : Nat) (r : Ring) (x : BulkXfer) : Nat → State → State
  | 0, s => s
  | n + 1, s =>
    let j := x.words - (n + 1)
    let a := (List.range j).foldl (fun (v : W24) _ => moveByMod v x.modifier) (BitVec.ofNat 24 x.addr)
    let i := r.base + (x.offset + j) % r.size
    let s := if x.toBulk then
        match Tbl.find s.frond.tasks p with
        | none => s
        | some t =>
          let t := { t with undo := (2 ^ 40 + i, readBulkWord s i) :: t.undo }
          { s with
            frond := { s.frond with tasks := Tbl.put s.frond.tasks p t }
            mem := { s.mem with bulk := writeBulkWord i (s.frond.read f c x.yside a.toNat) s.mem.bulk } }
      else writeWords f c p [(x.yside, a.toNat, readBulkWord s i)] s
    bulkWords f c p r x n s

/-- Every frond-side word of a transfer lies within the run's rights (R166). -/
def xferAllowed (t : ExpertTask) (bsz : Nat) (x : BulkXfer) : Nat → W24 → Bool
  | 0, _ => true
  | n + 1, a => (if x.toBulk then mayRead t bsz x.yside a.toNat else mayWrite t bsz x.yside a.toNat) &&
      xferAllowed t bsz x n (moveByMod a x.modifier)

/-- A BMOV with a bulk side as a transfer of n words; none where it is illegal (R218, R221). -/
def bulkXfer (t : ExpertTask) (b : Bank) (m : BmovFields) (n : Nat) (posted : Bool) : Option (Ring × BulkXfer) :=
  let toBulk := decide (m.dstSpace = 2)
  let fp := if toBulk then m.srcPtr else m.dstPtr
  let bp := if toBulk then m.dstPtr else m.srcPtr
  let side := if toBulk then m.srcSpace else m.dstSpace
  match t.rings[m.ring]? with
  | some r =>
    if r.bulk ∧ side < 2 ∧ n ≤ 4096 ∧ 0 < r.size ∧ modLegal (b.m.getD fp 0) then
      some (r, { toBulk := toBulk, yside := decide (side = 1), addr := (b.p.getD fp 0).toNat, modifier := b.m.getD fp 0,
                 ring := m.ring, offset := (b.p.getD bp 0).toNat, words := n, flag := m.flag, posted := posted })
    else none
  | none => none

/-- Pointers after n words of a bulk transfer: the frond side by +Mn, the bulk side by 1 a word (R218). -/
def bulkPointers (b : Bank) (m : BmovFields) (n : Nat) : Bank :=
  let toBulk := decide (m.dstSpace = 2)
  let fp := if toBulk then m.srcPtr else m.dstPtr
  let bp := if toBulk then m.dstPtr else m.srcPtr
  let v := (List.range n).foldl (fun (v : W24) _ => moveByMod v (b.m.getD fp 0)) (b.p.getD fp 0)
  { b with p := (b.p.set fp v).set bp (b.p.getD bp 0 + BitVec.ofNat 24 n) }

/-! ### END (R162) -/

/-- Ring heads advance by Af + As × B words (R162). -/
def Ring.advance (b : Nat) (r : Ring) : Ring := { r with head := (r.head + r.af + r.as_ * b) % max 1 r.size }

/-- The run commits: outputs, ping-pong, rings, completion; a second run is classified (R37, R162). SS joins the clip
flag, that of the handlers' bank too (R72, R189). -/
def commitRun (f c p : Nat) (s : State) : State :=
  match Tbl.find s.frond.tasks p with
  | none => s
  | some t =>
    let k := coreOf s f c
    let b := s.sys.b
    let outs := (List.range t.outs.length).zip t.outs
    let s := outs.foldl (fun s e => putSource e.2 ((List.range b).map fun i => (s.frond.read f c false (t.outBase + e.1 * b + i)).toInt) s) s
    let t := { t with
      copy := !t.copy, rings := t.rings.map (Ring.advance b), undo := []
      maxInstr := max t.maxInstr k.instrs, maxBulk := max t.maxBulk k.bulkWords }
    let s := { s with frond := { s.frond with tasks := Tbl.put s.frond.tasks p t } }
    let s := noteClip p (k.main.lastSw.getLsbD 4 || k.shadow.lastSw.getLsbD 4) s
    let s := match Tbl.find s.frond.mark p with
      | some (.flagged loc) => if k.second then report f K.taskMasked 1 (taskIndex p loc) 0 s else s
      | _ => s
    putCore f c { spos := k.spos } (setMark p .committed s)

end Sys2Proof.Machine
end

