-- ==== Sys2Proof/Machine/PortCmds.lean ====
section
/-!
DEFINITION. The PORT commands (R246, R485) and the events of the serial audio ports (09): frame start edges (R229, R231,
R232, R242, R245), rate measurement and loss (R231), marking blocks (R238, R239), ASRC lock (R95), restarts (R244).
-/
namespace Sys2Proof.Machine
open Sys2Proof

/-! ### Configuration (R223 to R227, R244) -/

def portCmd (code : Nat) : Cmd := { code := code, reach := .shared, needs := some Fn.ports }

/-- The configurations of ports that changes on their way bring, the latest last (R53). -/
def comingPorts (s : State) : List (Nat × PortCfg) :=
  (s.commit.sets.flatMap (·.changes)).filterMap fun c => match c with | .port p c => some (p, c) | _ => none

/-- The configuration that a port comes to, with every change on its way (R226). -/
def portAhead (s : State) (p : Nat) : Option PortCfg :=
  match (comingPorts s).reverse.find? fun e => e.1 = p with
  | some e => some e.2
  | none => (portOf s p).next.or (portOf s p).cfg

/-- Master ports on a generator, beside one, in the configuration with every change on its way: their rate and frame length in
BCLK periods (R226). -/
def genUsers (s : State) (g but_ : Nat) : List (Nat × Nat) :=
  (((s.port.port.map (·.1)) ++ (comingPorts s).map (·.1)).eraseDups.filter fun p => p != but_).filterMap fun p =>
    match portAhead s p with
    | some c => if c.master ∧ c.gen = g then some (foreignRate c.rate, frameSlots c * c.width) else none
    | none => none

/-- The configuration that PORT.CONFIG asks for, with its clamps, or the refusal (R223 to R226). -/
def planPort (p : Nat) (f : PortFields) (s : State) : Except Reply (PortCfg × List Clamp) :=
  if 96 ≤ p then .error (refuse St.noResource)
  else if 2 < f.format ∨ !([16, 24, 32].contains f.width) ∨ 1 < f.role ∨ 15 < f.gen ∨ 6 < f.rate then .error (refuse St.conflict)
  else
    let top := if f.format = 2 then maxSlots (foreignRate f.rate) else 2
    let (n, cl) := clampField 3 0 2 top f.slots
    let c : PortCfg := {
      format := f.format, width := f.width, slots := n.toNat, master := decide (f.role = 1), gen := f.gen, rate := f.rate
      bclkInv := Fx.bit f.flags 0, fsyncInv := Fx.bit f.flags 1, noDelay := Fx.bit f.flags 2, hiZ := Fx.bit f.flags 3 }
    let mine := (foreignRate c.rate, frameSlots c * c.width)
    if c.master && (genUsers s c.gen p).any fun u => decide (u ≠ mine) then .error (refuse St.conflict)
    else .ok (c, cl)

/-- The graph is admitted with a port's configuration: a bridge is charged for the slots of the port frame (R93). -/
def portAdmitted (p : Nat) (c : PortCfg) (s : State) : Option Reply :=
  let s := putPort p { portOf s p with cfg := some c } s
  (weigh s (allViews s)).refusal

/-- PORT.CONFIG (R244). -/
def execPortConfig (r : Req) (port : Nat) (fields : PortFields) (s : State) : Host.Outcome State Fault Refusal :=
  serve (portCmd 0x0601) r (withFlags 4 fields.flags fun r s =>
    match planPort port fields s with
    | .error e => (s, e)
    | .ok (c, cl) => match portAdmitted port c s with
      | some e => (s, e)
      | none => changeAt r 0x0601 [.port port c] cl [] s) s

/-- PORT.ENABLE (R246): the generator that a master port would share must suit it (R226). -/
def execPortEnable (r : Req) (port dirs : Nat) (s : State) : Host.Outcome State Fault Refusal :=
  serve (portCmd 0x0602) r (withFlags 2 dirs fun r s =>
    if 96 ≤ port then (s, refuse St.noResource)
    else changeAt r 0x0602 [.enable port dirs] [] [] s) s

/-- PORT.MASK (R62): a slot mask and the slot count into the port page. -/
def execPortMask (r : Req) (list port dir mask count : Nat) (s : State) : Host.Outcome State Fault Refusal :=
  serve (portCmd 0x0603) r (fun r s =>
    pageWrite r 0x0603 list true (fun s =>
      if 96 ≤ port then .error (refuse St.noResource)
      else if 1 < dir then .error (refuse St.conflict)
      else
        let n := Fx.clamp 1 (frameSlots (portCfg s port)) count
        let pl : Plan := { st := s }
        .ok (((pl.clamp 7 0 count n).edit (0x600 + port) dir mask).edit (0x600 + port) 2 n)) s) s

/-! ### Reports and settings -/

/-- A value, or a free one where the manual states none (log entry 5). -/
def orFree (bits : Nat) (v : Option Nat) (s : State) : Nat × State :=
  match v with
  | some v => (v, s)
  | none => drawFree bits s

/-- Phase of a port (R230): φ0 of a slave, the phase offset of a master. -/
def portPhase (s : State) (p : Nat) : Option Nat :=
  let c := portCfg s p
  if c.master then some (Tbl.getD s.port.pcg c.gen {}).phase else (portOf s p).phi0

/-- One port of PORT.STATUS (R485). -/
def portStatus (p : Nat) (s : State) : List Byte × State :=
  let x := portOf s p
  let (phase, s) := orFree 8 (portPhase s p) s
  let (rate, s) := orFree 32 x.rateNow s
  let k := if x.outOn then x.outHold else x.inHold
  (u8 x.state ++ u8 k.code ++ u8 phase ++ u8 0 ++ u32 rate ++ u32 x.violations ++ u32 x.slips ++ u32 x.markErrors ++
    u32 x.parityErrors, s)

/-- PORT.STATUS. -/
def execPortStatus (r : Req) (first count : Nat) (s : State) : Host.Outcome State Fault Refusal :=
  serve { code := 0x0604 } r (fun _ s =>
    if 96 < first + count then (s, refuse St.noResource)
    else
      let (bs, s) := (List.range count).foldl (fun (acc : List Byte × State) i =>
        let (b, s) := portStatus (first + i) acc.2
        (acc.1 ++ b, s)) ([], s)
      (s, done [] bs)) s

/-- What a command that reads or sets a shared setting is (R467, R475). -/
def settingCmd (code op : Nat) (need : Option Nat) : Cmd :=
  { code := code, reach := if op = 1 then .shared else .read, needs := if op = 1 then need else none }

/-- PORT.RATE's report: figures not measured yet are free values (log entry 5). -/
def rateReport (p : Nat) (s : State) : List Byte × State :=
  let x := portOf s p
  let (now, s) := orFree 32 x.rateNow s
  let (ref, s) := orFree 32 x.rateRef s
  (u32 x.threshold ++ u32 now ++ u32 ref ++ u8 (if x.lost then 2 else if x.rateNow.isSome then 1 else 0), s)

/-- PORT.RATE (R231). -/
def execPortRate (r : Req) (op port threshold : Nat) (s : State) : Host.Outcome State Fault Refusal :=
  serve (settingCmd 0x0605 op (some Fn.ports)) r (fun r s =>
    if 96 ≤ port then (s, refuse St.noResource)
    else if op = 0 then
      let (bs, s) := rateReport port s
      (s, done [] bs)
    else sharedSetting r 0x0605 op (fun _ =>
      let (v, cl) := clampField 2 0 1 10000 threshold
      .ok ([.setting 0x0605 [port, v]], cl)) (fun s => (rateReport port s).1) s) s

/-- PORT.TIMESTAMPS (R232). -/
def execPortTimestamps (r : Req) (op port length : Nat) (s : State) : Host.Outcome State Fault Refusal :=
  serve (settingCmd 0x0606 op (some Fn.ports)) r (fun r s =>
    if 96 ≤ port then (s, refuse St.noResource)
    else
      let head := fun (s : State) => u16 (portOf s port).tsLen ++ u32 (portOf s port).tsLost ++ u8 (portOf s port).stamps.length
      let stamps := fun (s : State) => (portOf s port).stamps.reverse.flatMap fun e => u64 e.1 ++ u32 e.2.1 ++ u32 e.2.2
      if op = 0 then (s, done [] (head s) (stamps s))
      else sharedSetting r 0x0606 op (fun _ =>
        let (v, cl) := clampField 2 0 64 4096 length
        .ok ([.setting 0x0606 [port, v]], cl)) (fun s => head s ++ stamps s) s) s

/-- PORT.MCLK (R228): the largest multiplier that fits takes the place of one that does not. -/
def execPortMclk (r : Req) (output gen mult : Nat) (s : State) : Host.Outcome State Fault Refusal :=
  serve (portCmd 0x0607) r (fun r s =>
    if 3 < output then (s, refuse St.noResource)
    else if 15 < gen ∨ !mclkMultipliers.contains mult then (s, refuse St.conflict)
    else
      let v := fitMclk s (Tbl.getD s.port.pcg gen {}) mult
      let cl : List Clamp := if v = mult then [] else [{ field := 2, entry := 0, requested := mult, applied := v }]
      changeNow r 0x0607 [.setting 0x0607 [output, gen, v]] cl (fun _ => []) s) s

/-! ### Marking (R235 to R240) -/

/-- PORT.MARK (R235, R237): only 32-bit slots can be marked. -/
def execPortMark (r : Req) (port dir mask mode sender : Nat) (tags : List Nat) (s : State) : Host.Outcome State Fault Refusal :=
  serve (portCmd 0x0608) r (fun r s =>
    if 96 ≤ port then (s, refuse St.noResource)
    else if 1 < dir ∨ 2 < mode ∨ (mode ≠ 0 ∧ (portCfg s port).width ≠ 32) ∨ (bitsOf 32 mask).length < tags.length then
      (s, refuse St.conflict)
    else
      let v : List Int := ([port, dir, mask, mode, sender] ++ tags).map fun n => (n : Int)
      changeNow r 0x0608 [.setting 0x0608 v] [] (fun _ => []) s) s

/-- PORT.EXPECT (R239). -/
def execPortExpect (r : Req) (port slot : Nat) (fields : ExpectFields) (s : State) : Host.Outcome State Fault Refusal :=
  serve (portCmd 0x0609) r (fun r s =>
    if fields.flags / 16 % 8 ≠ 0 then badRequest s
    else if 96 ≤ port ∨ 32 ≤ slot then (s, refuse St.noResource)
    else
      let e : Expect := {
        anyId := Fx.bit fields.flags 0, anyPort := Fx.bit fields.flags 1, anySlot := Fx.bit fields.flags 2
        anyTag := Fx.bit fields.flags 3, sender := fields.sender, port := fields.port, slot := fields.slot, tag := fields.tag }
      changeNow r 0x0609 [.expect port slot (if Fx.bit fields.flags 7 then none else some e)] [] (fun _ => []) s) s

/-- PORT.MARK_RAW (R240). -/
def execPortMarkRaw (r : Req) (list port slot : Nat) (bytes : List Byte) (s : State) : Host.Outcome State Fault Refusal :=
  serve { code := 0x060C, reach := .shared, expert := true, needs := some Fn.ports } r (fun r s =>
    pageWrite r 0x060C list true (fun s =>
      if bytes.length ≠ 23 then .error (refuse St.badLen)
      else if 96 ≤ port ∨ 32 ≤ slot then .error (refuse St.noResource)
      else if (portCfg s port).width ≠ 32 then .error (refuse St.conflict)
      else .ok { st := s, changes := [.markRaw port slot bytes] }) s) s

/-- A slot of a proof exists and can be marked. -/
def provable (s : State) (output : Bool) (e : PortSlot) : Bool :=
  let x := portOf s e.port
  (if output then x.outOn else x.inOn) && decide ((portCfg s e.port).width = 32) && decide (e.slot < frameSlots (portCfg s e.port))

/-- The results of a proof's inputs: REPORTED to WRONG_PATH, or TIMEOUT (R485). -/
def proofResults (s : State) (ins : List (Nat × Nat)) : List Byte :=
  ins.flatMap fun (p, slot) =>
    let (code, off) := match Tbl.find (portOf s p).markRx slot with
      | some m => m.result.getD (5, 0)
      | none => (5, 0)
    u8 p ++ u8 slot ++ u8 code ++ leS 1 off

/-- PORT.PROOF (R239): marks the outputs and waits for the inputs. -/
def execPortProof (r : Req) (outs ins : List PortSlot) (s : State) : Host.Outcome State Fault Refusal :=
  serve (portCmd 0x060A) r (fun r s =>
    if (outs ++ ins).any fun e => decide (96 ≤ e.port) || decide (32 ≤ e.slot) then (s, refuse St.noResource)
    else if s.port.proof.isSome ∨ outs.any (fun e => !provable s true e) ∨ ins.any (fun e => !provable s false e) then
      (s, refuse St.conflict)
    else
      let pairs := fun (l : List PortSlot) => l.map fun e => (e.port, e.slot)
      let v : List Int := (outs.length : Int) :: (outs ++ ins).flatMap fun e => [(e.port : Int), (e.slot : Int)]
      let cs : List Change := [.setting 0x060A v]
      let s := if forwards s then forward r { changes := cs } [] cs none s else applyChanges cs s
      if ins = [] then (s, done [] [])
      else
        let p : Proof := { slot := r.slot, seq := r.seq, outs := pairs outs, ins := pairs ins, at_ := s.clk.raw }
        ({ s with port := { s.port with proof := some p } }, { later := true })) s

/-! ### Clock generators (R227) -/

/-- The rates of R225 in Hz. -/
def portRates : List Nat := [32000, 44100, 48000, 88200, 96000, 176400, 192000]

/-- The generator's fields are in range, give a rate of R225, and suit the ports that it clocks (R226, R227). -/
def genRefusal (s : State) (g : Nat) (f : GenFields) : Option Reply :=
  let hz := fsOf s.sys.rate * f.n / max 1 f.d
  if 15 < g then some (refuse St.noResource)
  else if f.n = 0 ∨ f.d = 0 ∨ f.len < 32 ∨ 1024 < f.len ∨ (15 < f.start ∧ f.start ≠ 0xFF) then some (refuse St.conflict)
  else if !(portRates.contains hz && decide (hz * f.d = fsOf s.sys.rate * f.n)) then some (refuse St.conflict)
  else if (genUsers s g 0xFFFF).any fun u => decide (u ≠ (hz, f.len)) then some (refuse St.conflict)
  else none

/-- PORT.CLKGEN. -/
def execPortClkgen (r : Req) (op gen : Nat) (fields : GenFields) (s : State) : Host.Outcome State Fault Refusal :=
  serve { settingCmd 0x060B op (some Fn.ports) with expert := true } r (fun r s =>
    if 15 < gen then (s, refuse St.noResource)
    else sharedSetting r 0x060B op (fun s =>
      match genRefusal s gen fields with
      | some e => .error e
      | none =>
        let old := Tbl.getD s.port.pcg gen {}
        .ok ([.clkgen gen { old with n := fields.n, d := fields.d, len := fields.len, phase := fields.phase, start := fields.start }], []))
      (fun s =>
        let g := Tbl.getD s.port.pcg gen {}
        u8 gen ++ u16 g.n ++ u16 g.d ++ u16 g.len ++ u8 g.phase ++ u8 g.start) s) s

/-! ### Frame start edges (R229, R231, R232, R242, R245) -/

/-- The sample period that an edge belongs to, the latency change of a slip, and the port after it (R229, R245). The
window is φ0 ± 96; a slip moves the assignment by one period as far as the ring can still be written (DEDUCED). -/
def assignEdge (x : Port) (j phase : Nat) : Int × Option Int × Port :=
  match x.phi0 with
  | none => (j, none, x)
  | some φ =>
    let e : Int := j * 256 + phase
    let d := (e - φ + 128) % 256 - 128
    let m := (e - φ - d) / 256 + x.slipAt
    if d.natAbs ≤ 96 then (m, none, x)
    else
      let m' := Fx.clamp ((j : Int) - 1) (j + 1) (m + (if 0 < d then 1 else -1))
      (m', some (m' - m), { x with phi0 := some phase, slipAt := m' - j, slips := x.slips + 1, slipNet := x.slipNet + (m' - m) })

/-- The audio of a captured word: the top bits of the slot width (R224). -/
def captured (width : Nat) (ws : List Nat) : List Nat := ws.map fun w => w / 2 ^ (32 - width) * 2 ^ (32 - width)

/-- The sample period of an edge, and the port after it: a slave at the engine's rate that is not bridged by its window, any
other port by the instant (R227, R229). A slip is logged, and ends with the next edge inside the window (R245). -/
def placeEdge (p phase : Nat) (s : State) : Int × State :=
  let x := portOf s p
  let j := s.clk.sampleJ
  if (portCfg s p).master || isBridged s p || !atEngineRate s p then (j, s)
  else
    let (m, slip, x) := assignEdge x j phase
    let s := putPort p x s
    (m, match slip with
      | some d => violationAt p 32 K.sapSampleSlip 2 0 (Fx.toUnsigned 15 d) s
      | none => violationEnds p 32 K.sapSampleSlip 2 s)

/-- Capture a port frame assigned to sample period m (R25, R229): a right one is written in the period after. A port at a foreign
rate fills the next position of its own ring, with a wrong frame as one that it could not capture (R225, R234). -/
def captureEdge (p : Nat) (m : Int) (good : Bool) (ws : List Nat) (s : State) : State :=
  if !atEngineRate s p then foreignPeriod p (if good then some ws else none) s
  else if good then
    let x := portOf s p
    putPort p { x with cap := Tbl.put x.cap (m + 1).toNat ws } s
  else s

/-- The rate measurement at an edge (R231). -/
def measureEdge (x : Port) (ns : Nat) : Port :=
  if x.state ≠ 2 then { x with measAt := none }
  else match x.measAt with
    | none => { x with measAt := some ns, measN := 0, measStep := false }
    | some t =>
      if x.measN + 1 = 1024 then
        { x with measDone := some ((ns + 2 ^ 32 - t) % 2 ^ 32, x.measStep), measAt := some ns, measN := 0, measStep := false }
      else { x with measN := x.measN + 1 }

/-- The block stamp at an edge, and the count of port frames (R232). -/
def stampEdge (x : Port) (ns wraps : Nat) : Port :=
  let x := if x.frames % max 1 x.tsLen = 0 then
      { x with stamps := ((x.frames, ns, wraps) :: x.stamps).take 16, tsLost := x.tsLost + Fx.b2n (decide (16 ≤ x.stamps.length)) }
    else x
  { x with frames := (x.frames + 1) % 2 ^ 48 }

/-- A slave locks on its first 16 port frames (R229). -/
def lockEdge (x : Port) (phase : Nat) : Port :=
  if x.state ≠ 1 then x
  else if x.lockCount + 1 < 16 then { x with lockCount := x.lockCount + 1 }
  else { x with state := 2, lockCount := 16, phi0 := some phase, slipAt := 0, proofLeft := max 8 x.proofLeft }

/-- A port frame of a wrong length or with a glitch (R245). -/
def wrongFrame (p kind : Nat) (s : State) : State :=
  let s := portViolation p kind 2 0 s
  let x := portOf s p
  let n := x.wrongRun + 1
  let s := putPort p { x with wrongRun := n, rightRun := 0, wrongLong := x.wrongLong || decide (16 ≤ n) } s
  if n = 16 ∧ !x.wrongLong then report (Src.sap p) kind 3 0 0 s else s

/-- A right port frame: a run of wrong ones ends, after 16 consecutive errors with the sixteenth right frame (R245). -/
def rightFrame (p : Nat) (s : State) : State :=
  let x := portOf s p
  let n := x.rightRun + 1
  let ends := if x.wrongLong then decide (16 ≤ n) else decide (0 < x.wrongRun)
  let s := putPort p { x with rightRun := min n 16, wrongRun := 0, wrongLong := x.wrongLong && decide (n < 16) } s
  if ends then portViolationEnds p K.sapFrameLength 2 (portViolationEnds p K.sapClockGlitch 2 s) else s

/-- The read-back of DOUT (R245): contention releases the pin; from a block start on, a block that reads back right ends it. -/
def readBack (p : Nat) (contention : Bool) (s : State) : State :=
  let x := portOf s p
  if contention ∧ x.sends then
    portViolation p K.sapContention 3 0 (putPort p { x with contended := true, matched := 0 } s)
  else if !x.contended ∨ (x.matched = 0 ∧ x.frames % 192 ≠ 0) then s
  else if x.matched + 1 < 192 then putPort p { x with matched := x.matched + 1 } s
  else portViolationEnds p K.sapContention 3 (putPort p { x with contended := false, matched := 0 } s)

/-- The outputs of a port at a foreign rate, at its own edge: the next position of the section in process, under the ramp of its
ASRC; a port without one is silent (R94, R95, R225). -/
def loadForeign (p : Nat) (s : State) : State :=
  let x := portOf s p
  let f := s.sys.frameNo
  let n := if x.taken.1 = f then x.taken.2 else 0
  let s := putPort p { x with taken := (f, n + 1) } s
  match if x.lost then none else outSection x f with
  | none => stageOut p false (silentSlots s p) s
  | some q => match asrcOf s p 1 with
    | none => stageOut p true (silentSlots s p) s
    | some page =>
      let a := Tbl.getD s.blk.asrc page {}
      if a.silent then stageOut p true (silentSlots s p) s
      else stageOut p true ((sectionAudio s p q n).map (a.ramped 0))
        { s with blk := { s.blk with asrc := Tbl.put s.blk.asrc page (a.passed 1) } }

/-- The clocks of a lost port return (R245). -/
def clocksReturn (p : Nat) (s : State) : State :=
  let x := portOf s p
  if x.lost then
    portViolationEnds p K.sapClockLoss 2 (putPort p { x with lost := false, lockCount := 0 } s)
  else s

/-- A master port of a standby checks the clock on the line against its own (R241). -/
def clockPhase (p : Nat) (off : Bool) (s : State) : State :=
  if !(portCfg s p).master ∨ (portOf s p).driving ∨ !s.sys.pairEn then s
  else if off then portViolation p K.sapClockPhase 2 0 s
  else portViolationEnds p K.sapClockPhase 2 s

/-- A port runs and can see an edge: enabled, its generator running if it is a master. -/
def seesEdges (s : State) (p : Nat) : Bool :=
  let x := portOf s p
  s.sys.running && (x.inOn || x.outOn) && decide (x.state ≠ 0) &&
    (!(portCfg s p).master || (Tbl.getD s.port.pcg (portCfg s p).gen {}).running)

/-- The phase of an edge: that of a master at the engine's rate is its generator's offset (R227). -/
def edgePhase (s : State) (p phase : Nat) : Nat :=
  let c := portCfg s p
  if c.master && atEngineRate s p then (Tbl.getD s.port.pcg c.gen {}).phase else phase

/-- A frame start edge: what ends with it (violations, capture, marking) and what begins with it (drivers, output words). -/
def portEdge (p phase : Nat) (words : List Nat) (violation : Nat) (contention off : Bool) (s : State) : State :=
  let phase := edgePhase s p phase
  let s := advanceToCount (gridCount s s.clk.sampleJ + (phase : Int) * 65536000000000 / (256 * fsNow s)) s
  let s := putPort p { portOf s p with driving := drivesNow s, lastEdge := some s.clk.raw, phase := phase } s
  let s := clockPhase p off (clocksReturn p s)
  let s := match violation with
    | 0 => rightFrame p s
    | 1 => wrongFrame p K.sapFrameLength s
    | _ => wrongFrame p K.sapClockGlitch s
  let (m, s) := placeEdge p phase s
  let good := decide (violation = 0) && !(portOf s p).wrongLong
  let ws := captured (portCfg s p).width words
  let s := if !(portOf s p).inOn then s
    else
      let s := captureEdge p m good ws s
      if good then markFrame p ws s else s
  let s := readBack p contention s
  let s := if (portOf s p).outOn then
      let s := shiftFrame p m s
      if atEngineRate s p then s else loadForeign p s
    else s
  let x := if good then lockEdge (portOf s p) phase else portOf s p
  putPort p (stampEdge (measureEdge x s.clk.ns) s.clk.ns s.clk.wraps) s

/-- PORT_FRAME_START_EDGE (R229): the edge's phase in the sample period in progress, in 1/256; the words that arrived since
the edge before; a violation (0 none, 1 wrong BCLK count, else a short phase); whether the read-back of DOUT failed, and
whether a standby's master finds the line's edge off its own (log entry 12). -/
def execPortFrameStartEdge (port phase : Nat) (words : List Nat) (violation : Nat) (contention clockOff : Bool) (s : State) :
    Host.Outcome State Fault Refusal :=
  .next (if seesEdges s port then portEdge port phase words violation contention clockOff s else s)

/-! ### Rates (R231) -/

/-- PORT_RATE with its interrupt (R231, R503). -/
def postRate (p status rate : Nat) (s : State) : State :=
  postEvent Ev.portRate none 0 (u8 p ++ u8 status ++ u32 rate) (if status = 2 then s else raiseInt 13 s)

/-- A rate differs from the reference by more than the threshold. -/
def rateOff (x : Port) (rate ref : Nat) : Bool :=
  decide (x.threshold * ref < (if rate < ref then ref - rate else rate - ref) * 1000000)

/-- A finished measurement (R231, R245). -/
def takeRate (p rate : Nat) (s : State) : State :=
  let x := portOf s p
  match x.rateRef, x.rateNow with
  | none, _ => putPort p { x with rateNow := some rate, rateRef := some rate } s
  | some _, none => postRate p 2 rate (putPort p { x with rateNow := some rate, rateRef := some rate } s)
  | some ref, some _ =>
    if rateOff x rate ref then
      let s := portViolation p K.sapRateChange 0 0 (putPort p { x with rateNow := some rate, rateRef := some rate } s)
      asrcUnlock p (postRate p 0 rate s)
    else portViolationEnds p K.sapRateChange 0 (putPort p { x with rateNow := some rate } s)

/-- RATE_MEASUREMENT_DONE: round(1.024 × 10^15 / Δt) in mHz; one that spans a time step is discarded. -/
def execRateMeasurementDone (port : Nat) (s : State) : Host.Outcome State Fault Refusal :=
  .next (match (portOf s port).measDone with
    | none => s
    | some (dt, spoiled) =>
      let s := putPort port { portOf s port with measDone := none } s
      if spoiled ∨ dt = 0 then s
      else
        let s := if s.time.sapPort = port ∧ !(portCfg s port).master then setCand 9 (fun c => { c with signal := true }) s else s
        takeRate port ((1024000000000000 + dt / 2) / dt) s)

/-- RATE_LOSS: no edge for 8 nominal port frame periods (R231, R245): DOUT, which held its last bit, drives low; a slave locks
afresh when the clocks return. The rate that the event carries is a free value (log
entry 5). -/
def execRateLoss (port : Nat) (s : State) : Host.Outcome State Fault Refusal :=
  let x := portOf s port
  .next (if !(x.inOn || x.outOn) ∨ x.lost ∨ x.state = 0 then s
    else
      let s := match x.lastEdge with
        | some t => advanceTo (t + 8 * 250000000 / max 1 (portHz s port)) s
        | none => s
      let s := putPort port { x with
        lost := true, state := if x.state = 2 ∧ !(portCfg s port).master then 1 else x.state, lockCount := 0, measAt := none, measDone := none
        rateNow := none, phi0 := none, slipAt := 0, wire := { x.wire with dout := [some false] } } s
      let s := if s.time.sapPort = port then setCand 9 (fun c => { c with signal := false }) s else s
      let (v, s) := drawFree 32 s
      asrcUnlock port (postRate port 1 v (portViolation port K.sapClockLoss 2 0 s)))

/-- HOLD_TIMEOUT (R233): a hold of H samples goes over to its ramp. -/
def execHoldTimeout (port : Nat) (output : Bool) (s : State) : Host.Outcome State Fault Refusal :=
  let x := portOf s port
  let h := holdSamples (portHz s port)
  let ramp := fun (k : HoldStage) => match k.phase with
    | .hold n => if h ≤ n then { k with phase := .down 0 } else k
    | _ => k
  .next (if output then putPort port { x with outHold := ramp x.outHold } s else putPort port { x with inHold := ramp x.inHold } s)

/-! ### Marking blocks (R238, R239) -/

/-- The result of a locked block against its expectation: code and slip offset (R239, R485). -/
def judgeBlock (e : Option Expect) (bs : List Byte) : Nat × Int :=
  match e with
  | none => (0, 0)
  | some e =>
    let slot := getLE bs 6 1
    if getLE bs 0 1 ≠ 0xC5 then (0, 0)
    else if (!e.anyId ∧ getLE bs 1 4 ≠ e.sender) ∨ (!e.anyPort ∧ getLE bs 5 1 ≠ e.port) then (2, 0)
    else if !e.anySlot ∧ slot ≠ e.slot then (3, (slot : Int) - e.slot)
    else if !e.anyTag ∧ getLE bs 7 2 ≠ e.tag then (4, 0)
    else (1, 0)

/-- The log kind of a result. -/
def resultKind : Nat → Option Nat
  | 2 => some K.sapPathWrong
  | 3 => some K.sapSlotSlip
  | 4 => some K.sapPathWrong
  | _ => none

/-- A kind's condition ends when no slot of the port has it any more. -/
def endResult (p kind : Nat) (s : State) : State :=
  let still := (portOf s p).markRx.any fun e => match e.2.result with | some (c, _) => decide (resultKind c = some kind) | none => false
  if !still && conditionStands s (Src.sap p) kind then endCondition (Src.sap p) kind 2 s else s

/-- A result: logged when it first appears and whenever it changes (R239). -/
def noteResult (p slot : Nat) (res : Nat × Int) (s : State) : State :=
  let x := portOf s p
  let m := Tbl.getD x.markRx slot ({} : MarkRx)
  if m.result = some res then s
  else
    let s := putPort p { x with markRx := Tbl.put x.markRx slot { m with result := some res } } s
    let s := match resultKind res.1 with
      | some k => report (Src.sap p) k 2 slot (Fx.toUnsigned 15 res.2) s
      | none => s
    match m.result.bind fun o => resultKind o.1 with
    | some k => endResult p k s
    | none => s

/-- A gathered block is checked and judged (R238, R239). -/
def markBlockEnd (p slot : Nat) (m : MarkRx) (bs : List Byte) (inSeq : Bool) (s : State) : State :=
  let crcOk := decide (blockCrc bs = bs.getD 23 0)
  let jump : Bool := match m.last with
    | some l => decide (getLE bs 10 6 ≠ (getLE l 10 6 + 192) % 2 ^ 48)
    | none => false
  let broken := !inSeq || (crcOk && jump)
  let fail := !crcOk || broken
  let bad := if fail then m.bad + 1 else 0
  let good := if fail then 0 else m.good + 1
  let m' : MarkRx := { m with
    full := none, good := min good 2, bad := min bad 2, sync := m.sync + Fx.b2n broken, crc := m.crc + Fx.b2n (!crcOk)
    locked := if fail then m.locked && decide (bad < 2) else m.locked || decide (2 ≤ good)
    last := if crcOk then some bs else m.last, unknownFormat := if crcOk then decide (getLE bs 0 1 ≠ 0xC5) else m.unknownFormat }
  let x := portOf s p
  let s := putPort p { x with markRx := Tbl.put x.markRx slot m', markErrors := x.markErrors + Fx.b2n fail } s
  let s := if crcOk then violationEnds p slot K.sapMarkCrc 1 s else violationAt p slot K.sapMarkCrc 1 slot 0 s
  let s := if broken then violationAt p slot K.sapMarkSync 1 slot 0 s else violationEnds p slot K.sapMarkSync 1 s
  if m'.locked ∧ !fail then noteResult p slot (judgeBlock (Tbl.find (portOf s p).expect slot) bs) s else s

/-- MARK_BLOCK (R238). -/
def execMarkBlock (port slot : Nat) (s : State) : Host.Outcome State Fault Refusal :=
  .next (match Tbl.find (portOf s port).markRx slot with
    | none => s
    | some m => match m.full with
      | none => s
      | some (bs, inSeq) => markBlockEnd port slot m bs inSeq s)

/-! ### ASRC lock and restarts (R95, R244) -/

/-- The measured rate of a port lies within ±1,000 ppm of an ASRC's nominal foreign rate (R95). -/
def withinNominal (s : State) (p code : Nat) : Bool :=
  match (portOf s p).rateNow with
  | some v =>
    let f := foreignRate code
    decide (f * 999 ≤ v) && decide (v ≤ f * 1001)
  | none => false

/-- ASRC_LOCKED (R95): the slots ramp from zero over 64 samples. -/
def execAsrcLocked (page : Nat) (s : State) : Host.Outcome State Fault Refusal :=
  .next (match Tbl.find s.blk.inst page with
    | none => s
    | some i =>
      let a := Tbl.getD s.blk.asrc page {}
      if i.kind = .asrc ∧ i.live ∧ !a.locked ∧ withinNominal s (effGet s page 0).toNat (effGet s page 2).toNat then
        { s with blk := { s.blk with asrc := Tbl.put s.blk.asrc page { a with locked := true, ramp := a.ramp.retarget gainOne 64 } } }
      else s)

/-- PORT_RESTART_DONE (R244): the slots are present again once a slave has locked, or at once for a master. -/
def execPortRestartDone (port : Nat) (s : State) : Host.Outcome State Fault Refusal :=
  let x := portOf s port
  .next (if x.away ∧ x.state = 2 then putPort port { x with away := false } s else s)

end Sys2Proof.Machine
end

