-- ==== Sys2Proof/Machine/SceneCmds.lean ====
section
/-!
DEFINITION. The SCENE commands (R483, R484), the life of an action (R138 to R143), the end of a re-seed (R128) and the
emergency pins (R146 to R150).
-/
namespace Sys2Proof.Machine
open Sys2Proof

/-! ### Times of requests (R470, R286) -/

/-- Seconds 0xFFFF_FFFF_FFFF_FFFF with ns 0 mean the next frame (R470). -/
def isNextFrame (t : NetTime) : Bool := decide (t.sec = 2 ^ 64 - 1) && decide (t.ns = 0)

/-- A network time of a request that is not in the form of R470. -/
def malformedTime (t : NetTime) : Bool := !isNextFrame t && (decide (2 ^ 48 ≤ t.sec) || decide (1000000000 ≤ t.ns))

/-- The time in ns; none for the next frame. -/
def timeValue (t : NetTime) : Option Nat := if isNextFrame t then none else some (t.sec * 1000000000 + t.ns)

/-- Run a body that takes a network time: a malformed one is answered BAD_CMD, and while time is UNSET one that names a
time is refused (R286). -/
def withTime (t : NetTime) (b : Option Nat → Body) : Body := fun r s =>
  if malformedTime t then badRequest s
  else if s.clk.unset && !isNextFrame t then (s, refuse St.notReady (reason 0x09 Fn.time))
  else b (timeValue t) r s

/-! ### Storing scenes (R133 to R137) -/

/-- Commands that change the scene store or an assignment. -/
def sceneCmd (code : Nat) : Cmd := { code := code, reach := .shared }

/-- Commands that create an action: they commit pages that the router's readiness brings into use (R19, R463). -/
def actionCmd (code : Nat) (expert : Bool) : Cmd := { code := code, reach := .shared, expert := expert, needs := some Fn.router }

/-- SCENE.STORE opens a scene body (R133, R135, R476). -/
def execSceneStore (r : Req) (total number flags : Nat) (name : List Byte) (s : State) : Host.Outcome State Fault Refusal :=
  serve (sceneCmd 0x0501) r (withFlags 1 flags fun r s =>
    if !nameOk name then badRequest s
    else if 1023 < number ∨ 33554432 < total then (s, refuse St.noResource)
    else openObject r (.scene number flags (padTo 32 name)) total s) s

/-- What a load of records over the present active content clamps, or why it is refused (R133, R472). -/
def sceneClamps (s : State) (rs : List PageRecord) : Except Reply (List Clamp) :=
  let base : State := { s with page := { s.page with status := [], shadow := s.page.active } }
  match takeRecords s true rs with
  | .error e => .error e
  | .ok (rs, _) => match planRecords rs { st := base } with
    | .error e => .error e
    | .ok pl => .ok pl.clamps

/-- The home of a body that the directory would hold: only in Peat, which is not ready (R134). -/
def homeMissing (s : State) (n flags : Nat) : Bool := !Fx.bit flags 0 && !isPersistent s n && (!isReady s Fn.peat || (systemCopies s).isEmpty)

/-- Put a body into the directory under a new version, when its homes hold it (R134, R135). -/
def storeBody (r : Req) (code n flags : Nat) (name body : List Byte) (clamps : List Clamp) (s : State) : State × Reply :=
  if 33554432 < body.length ∨ !areasFit (putScene n flags name body s) then (s, refuse St.noResource)
  else if homeMissing s n flags then (s, refuse St.faulted)
  else if isReady s Fn.peat && !objectRoom s then (s, refuse St.noResource)
  else changeNow r code [.sceneStore n flags name body] clamps (fun s => u32 (storedVersion s 2 n)) s

/-- The COMMIT of a scene body (R135, R484): its header agrees with the request that opened it. -/
def commitScene (r : Req) (code n flags : Nat) (name bs : List Byte) (s : State) : State × Reply :=
  match parseScene bs with
  | .error e => (s, e)
  | .ok rs =>
    if getLE bs 48 2 ≠ n ∨ getLE bs 50 1 ≠ flags ∨ (bs.drop 16).take 32 ≠ name then (s, refuse St.conflict)
    else match sceneClamps s rs with
      | .error e => (s, e)
      | .ok cl => storeBody r code n flags name bs cl s

/-- The page ranges of R126 in row order: the classes of SCENE.CAPTURE. -/
def classRanges : List (Nat × Nat) :=
  [(0, 0x1FF), (0x200, 0x207), (0x208, 0x208), (0x400, 0x5FF), (0x600, 0x65F), (0x700, 0x7FF), (0x800, 0x8FF),
   (0x1000, 0x8FFF), (0x9000, 0x9FFF), (0xA000, 0xBFFF), (0xC000, 0xFFFF)]

/-- The pages of a range that name something. -/
def pageRange (s : State) (first last : Nat) : List Nat :=
  ((List.range (last + 1 - first)).map (first + ·)).filter (pageExists s)

/-- The page set of SCENE.CAPTURE (R137). -/
def captureSet (s : State) (selector first last : Nat) : Except Reply (List Nat) :=
  match selector with
  | 0 =>
    if 2 ^ 11 ≤ first then .error (refuse St.noResource)
    else .ok (((List.range 11).zip classRanges).flatMap fun c => if Fx.bit first c.1 then pageRange s c.2.1 c.2.2 else [])
  | 1 => if last < first then .error (refuse St.conflict) else .ok (pageRange s first last)
  | 2 =>
    if Tbl.has s.scene.lists first then .ok ((pagesHeldBy s (.heldList first)).filter (pageExists s))
    else .error (refuse St.noResource)
  | _ => .error (refuse St.conflict)

/-- SCENE.CAPTURE (R137): whole records of the active content. -/
def execSceneCapture (r : Req) (number flags : Nat) (name : List Byte) (selector first last : Nat) (s : State) :
    Host.Outcome State Fault Refusal :=
  serve (sceneCmd 0x0502) r (withFlags 1 flags fun r s =>
    if !nameOk name then badRequest s
    else if 1023 < number then (s, refuse St.noResource)
    else match captureSet s selector first last with
      | .error e => (s, e)
      | .ok ps =>
        let name := padTo 32 name
        storeBody r 0x0502 number flags name (sceneBody number flags name (ps.map (captureRecord s))) [] s) s

/-- SCENE.DELETE (R151). -/
def execSceneDelete (r : Req) (number : Nat) (s : State) : Host.Outcome State Fault Refusal :=
  serve (sceneCmd 0x0503) r (fun r s =>
    if 1023 < number ∨ !Tbl.has s.scene.dir number then (s, refuse St.noResource)
    else if isPersistent s number ∨ (s.scene.actions.any fun e => !e.2.isList && decide (e.2.number = number)) then
      (s, refuse St.conflict)
    else changeNow r 0x0503 [.sceneDrop number] [] (fun _ => []) s) s

/-- One entry of SCENE.DIRECTORY (R483). -/
def dirEntry (n : Nat) (e : SceneEntry) : List Byte :=
  u16 n ++ u8 (homeOf e) ++ u8 (Fx.b2n e.resident) ++ u32 e.version ++ u32 e.body.length ++ u32 e.crc ++ padTo 32 e.name

/-- SCENE.DIRECTORY (R151). -/
def execSceneDirectory (r : Req) (first : Nat) (s : State) : Host.Outcome State Fault Refusal :=
  serve { code := 0x0504 } r (fun _ s =>
    if 1023 < first then (s, refuse St.noResource)
    else
      let es := s.scene.dir.filter fun e => decide (first ≤ e.1)
      (s, done [] (u16 es.length) (es.flatMap fun e => dirEntry e.1 e.2))) s

/-! ### Actions (R138 to R143) -/

/-- The plan of a scene's load with how many pages and items it leaves out (R131, R133, R137). -/
def planScene (n : Nat) (skip : Bool) (s : State) : Except Reply (Plan × Nat) :=
  match sceneRecords s n with
  | .error e => .error e
  | .ok rs => match takeRecords s skip rs with
    | .error e => .error e
    | .ok (rs, left) => match planRecords rs { st := s } with
      | .error e => .error e
      | .ok pl => match admitPlan pl with
        | some e => .error e
        | none => .ok (pl, left)

/-- SCENE_CORRUPT, where no copy of a body passes its check (R136). -/
def noteCorrupt (n : Nat) (s : State) : State :=
  if (readScene s n).isSome then s else report Src.scene K.sceneCorrupt 3 n 0 s

/-- The next action number that is free. -/
def freeAction (s : State) : Nat :=
  (((List.range 65).map fun i => (s.scene.nextAction - 1 + i) % 65535 + 1).find? fun a => !Tbl.has s.scene.actions a).getD 1

/-- Put an action. -/
def putAction (a : Nat) (x : Action) (s : State) : State :=
  { s with scene := { s.scene with actions := Tbl.put s.scene.actions a x } }

/-- ACCEPTED with the action's number (R456); the pages and items that SKIP_ABSENT leaves out are counted in the detail's
index (R137; log entry 77). -/
def acceptedAction (a left : Nat) : Reply := { status := St.accepted, detail := reason 0 left, data := u16 a }

/-- An action whose time has come near goes to the comparator (R141), judged for lateness (R142). In a pair the active
engine assigns its frame and sends it. -/
def handOver (a : Nat) (s : State) : State :=
  match Tbl.find s.scene.actions a with
  | none => s
  | some x => match x.time with
    | none => s
    | some t =>
      if x.state ≠ .loaded ∨ !s.sys.mladirUp ∨ s.clk.full + 2000000000 < t then s
      else
        let go := fun (f : Nat) (late : Bool) =>
          let s := putAction a { x with state := .handed, frame := some f, late := late } s
          match x.txn with
          | some id => if forwards s then assignFrame id f s else s
          | none => s
        match judge s x.time x.always (commitFrame s) with
        | .expired => actionFails a St.expired 0 s
        | .onTime f => go (if s.sys.pairEn then max f (commitFrame s) else f) false
        | .late f _ => go f true

/-- An action stands loaded (R139): alone it is armed at once; in a pair its words go to the partner first. -/
def armAction (a : Nat) (x : Action) (pages : List Nat) (edits : List Edit) (changes : List Change) (s : State) : State :=
  if forwards s then
    let s := putAction a { x with txn := some s.pair.nextTxn } s
    forward { slot := x.slot, seq := x.seq, crc := 0 } { pages := pages, changes := changes, action := some a } edits
      (.arm a x.isList x.number x.time x.always x.skipAbsent :: changes) (some a) s
  else
    let x : Action := { x with state := .loaded }
    handOver a (postArmed a x (putAction a x s))

/-- Hold pages for an action; a page that is still pending or re-seeding is held when the load reaches it (R131). -/
def holdFor (a : Nat) (ps : List Nat) (s : State) : State :=
  holdPages (.heldAction a) (ps.filter fun p => !isPending s p && !isReseeding s p) s

/-- Create an action on a scene (R137, R138, R142). -/
def createScene (r : Req) (code n flags : Nat) (time : Option Nat) (s : State) : State × Reply :=
  if 1023 < n ∨ !Tbl.has s.scene.dir n then (s, refuse St.noResource)
  else if needsPeat s n then (s, refuse St.notReady (reason 0x09 Fn.peat))
  else if 64 ≤ s.scene.actions.length then (s, refuse St.noResource)
  else match planScene n (Fx.bit flags 1) s with
    | .error e => (noteCorrupt n s, e)
    | .ok (pl, left) =>
      let ps := pagesOf pl.edits
      match ps.find? (isHeld s) with
      | some p => (s, refuse St.conflict (reason 0x02 p))
      | none =>
        if judge s time (Fx.bit flags 0) (commitFrame s) = .expired then (s, refuse St.expired)
        else
          let a := freeAction s
          let x : Action := {
            number := n, time := time, always := Fx.bit flags 0, skipAbsent := Fx.bit flags 1, slot := r.slot, seq := r.seq
            code := code, since := s.clk.raw, pages := ps, skipped := left }
          let s := holdFor a ps (putAction a x s)
          ({ s with scene := { s.scene with nextAction := a % 65535 + 1 } }, acceptedAction a left)

/-- SCENE.RECALL (R138). -/
def execSceneRecall (r : Req) (number flags : Nat) (s : State) : Host.Outcome State Fault Refusal :=
  serve (actionCmd 0x0505 false) r (withFlags 2 flags fun r s => createScene r 0x0505 number flags none s) s

/-- SCENE.ARM (R138). -/
def execSceneArm (r : Req) (number flags : Nat) (time : NetTime) (s : State) : Host.Outcome State Fault Refusal :=
  serve (actionCmd 0x0506 false) r (withFlags 2 flags (withTime time fun t r s => createScene r 0x0506 number flags t s)) s

/-- SCENE.DISARM (R138): refused at or after the hand-over. -/
def execSceneDisarm (r : Req) (action : Nat) (s : State) : Host.Outcome State Fault Refusal :=
  serve (sceneCmd 0x0507) r (fun r s =>
    match Tbl.find s.scene.actions action with
    | none => (s, refuse St.conflict)
    | some x =>
      if x.state = .handed ∨ x.frame.isSome then (s, refuse St.conflict)
      else changeNow r 0x0507 [.disarm action] [] (fun _ => []) s) s

/-- An action in SCENE.STATUS; the progress of a load under way is a free value (log entry 5). -/
def actionStatus (a : Nat) (x : Action) (s : State) : List Byte × State :=
  let (p, s) := if x.state = .loading then drawFree 16 s else (1000, s)
  let st := match x.state with
    | .loading => 0
    | .loaded => 1
    | .handed => 2
  (u16 a ++ u16 x.number ++ u8 (Fx.b2n x.isList) ++ u8 st ++ u16 (min p 1000), s)

/-- A mask of the emergency inputs with a property. -/
def emergBits (s : State) (f : Emerg → Bool) : Nat := s.scene.emerg.foldl (fun m e => if f e.2 then m + 2 ^ e.1 else m) 0

/-- SCENE.STATUS (R151). -/
def execSceneStatus (r : Req) (s : State) : Host.Outcome State Fault Refusal :=
  serve { code := 0x0508 } r (fun _ s =>
    let held := (s.page.status.filter fun e => isHeld s e.1).length
    let head := u8 s.scene.actions.length ++ u8 s.scene.lists.length ++ u16 held ++
      u8 (emergBits s (·.asserted)) ++ u8 (emergBits s (·.latched))
    let (bs, s) := s.scene.actions.foldl (fun (acc : List Byte × State) e =>
      let (b, s) := actionStatus e.1 e.2 acc.2
      (acc.1 ++ b, s)) ([], s)
    (s, done [] (head ++ bs))) s

/-- SCENE.LATE_WINDOW (R142). -/
def execSceneLateWindow (r : Req) (op window : Nat) (s : State) : Host.Outcome State Fault Refusal :=
  serve { code := 0x0509, reach := if op = 1 then .shared else .read } r (fun r s =>
    sharedSetting r 0x0509 op (fun _ =>
      let (v, cl) := clampField 1 0 0 2000 window
      .ok ([.setting 0x0509 [v]], cl)) (fun s => u32 s.scene.lateMs) s) s

/-- SCENE.AREA (R134): the size, or a scene marked or no longer marked resident. -/
def planArea (op size n : Nat) (s : State) : Except Reply (List Change × List Clamp) :=
  let (v, cl) := if op = 1 then clampField 1 0 512 4096 size else (0, [])
  let vals : List Int := [op, v, n]
  let after := setSceneArea vals s
  if op = 0 ∨ 3 < op then .error (refuse St.noResource)
  else if op ≠ 1 ∧ !Tbl.has s.scene.dir n then .error (refuse St.noResource)
  else if op = 2 ∧ needsPeat s n then .error (refuse St.notReady (reason 0x09 Fn.peat))
  else if !areasFit after then .error (refuse St.noResource)
  else .ok ([.setting 0x050A vals], cl)

def execSceneArea (r : Req) (op size number : Nat) (s : State) : Host.Outcome State Fault Refusal :=
  serve { code := 0x050A, reach := if op = 0 then .read else .shared } r (fun r s =>
    let report := fun (s : State) => u32 s.scene.areaKiB ++ u32 (residentKiB s)
    if op = 0 then (s, done [] (report s))
    else match planArea op size number s with
      | .error e => (s, e)
      | .ok (cs, cl) => changeNow r 0x050A cs cl report s) s

/-! ### Emergency assignment (R145, R149) -/

/-- Why an assignment is refused: an absent page, a body that cannot be read, an area or an admission limit (R134, R137,
R145). -/
def assignRefusal (input n : Nat) (latch : Bool) (s : State) : Option Reply :=
  if needsPeat s n then some (refuse St.faulted)
  else match sceneRecords s n with
    | .error e => some e
    | .ok rs => match takeRecords s false rs with
      | .error e => some e
      | .ok (rs, _) => match imagesOf s rs with
        | .error e => some e
        | .ok _ =>
          let s := applyEmerg input (some n) latch s
          if !areasFit s || !imagesFit s then some (refuse St.noResource)
          else match (weigh s (allViews s)).refusal with
            | some e => some e
            | none => if delayFits s (allViews s) then none else some (refuse St.noResource (reason 0x06 0))

/-- SCENE.EMERG_ASSIGN (R145). -/
def execSceneEmergAssign (r : Req) (input number release : Nat) (s : State) : Host.Outcome State Fault Refusal :=
  serve (sceneCmd 0x050B) r (fun r s =>
    if 3 < input then (s, refuse St.noResource)
    else if 1 < release then (s, refuse St.conflict)
    else if number = 0xFFFF then changeAt r 0x050B [.emergAssign input none false] [] [] s
    else match assignRefusal input number (decide (release = 1)) s with
      | some e => (if e.status = St.faulted then noteCorrupt number s else s, e)
      | none => changeAt r 0x050B [.emergAssign input (some number) (decide (release = 1))] [] [] s) s

/-- SCENE.EMERG_CLEAR (R149): refused while the input is asserted. -/
def execSceneEmergClear (r : Req) (input : Nat) (s : State) : Host.Outcome State Fault Refusal :=
  serve (sceneCmd 0x050C) r (fun r s =>
    if 3 < input ∨ (emergOf s input).asserted then (s, refuse St.conflict)
    else changeAt r 0x050C [.emergClear input] [] [] s) s

/-! ### Commit lists (R132) -/

/-- SCENE.LIST_OPEN: the lowest free number of 1 to 16. -/
def execSceneListOpen (r : Req) (s : State) : Host.Outcome State Fault Refusal :=
  serve { code := 0x050D, reach := .shared, expert := true } r (fun r s =>
    match ((List.range 16).map (· + 1)).find? fun n => !Tbl.has s.scene.lists n with
    | none => (s, refuse St.noResource)
    | some n =>
      let l : CommitList := { slot := r.slot }
      ({ s with scene := { s.scene with lists := Tbl.put s.scene.lists n l } }, done [] (u8 n))) s

/-- SCENE.LIST_COMMIT (R132, R138): an empty list ends with nothing done. -/
def commitList (r : Req) (n flags : Nat) (time : Option Nat) (s : State) : State × Reply :=
  match Tbl.find s.scene.lists n with
  | none => (s, refuse St.conflict)
  | some l =>
    let ps := pagesHeldBy s (.heldList n)
    let closed : State := { s with scene := { s.scene with lists := Tbl.erase s.scene.lists n } }
    if ps = [] ∧ l.changes = [] then (closed, done [] (u16 0))
    else if 64 ≤ s.scene.actions.length then (s, refuse St.noResource)
    else if judge s time (Fx.bit flags 0) (commitFrame s) = .expired then (discardList n s, refuse St.expired)
    else
      let a := freeAction s
      let x : Action := {
        isList := true, number := n, time := time, always := Fx.bit flags 0, skipAbsent := Fx.bit flags 1, slot := r.slot
        seq := r.seq, code := 0x050E, since := s.clk.raw, pages := ps, edits := l.edits, changes := l.changes }
      let s := holdPages (.heldAction a) ps { closed with scene := { closed.scene with nextAction := a % 65535 + 1 } }
      (armAction a x ps l.edits l.changes (putAction a x s), acceptedAction a 0)

def execSceneListCommit (r : Req) (list flags : Nat) (time : NetTime) (s : State) : Host.Outcome State Fault Refusal :=
  serve (actionCmd 0x050E true) r (withFlags 2 flags (withTime time fun t r s => commitList r list flags t s)) s

/-- SCENE.LIST_DISCARD (R132). -/
def execSceneListDiscard (r : Req) (list : Nat) (s : State) : Host.Outcome State Fault Refusal :=
  serve { code := 0x050F, reach := .shared, expert := true } r (fun _ s =>
    if Tbl.has s.scene.lists list then (discardList list s, done [] []) else (s, refuse St.conflict)) s

/-! ### Events (R128, R136, R139, R141, R146 to R150) -/

/-- ACTION_HANDOVER (R141): at most 2.0 s before its time. -/
def execActionHandover (action : Nat) (s : State) : Host.Outcome State Fault Refusal := .next (handOver action s)

/-- The load of an action's scene (R131, R139, R142). -/
def loadAction (a : Nat) (x : Action) (s : State) : State :=
  match planScene x.number x.skipAbsent s with
  | .error e => actionFails a e.status e.detail s
  | .ok (pl, left) =>
    let ps := pagesOf pl.edits
    match ps.find? (heldByOther s (.heldAction a)) with
    | some p => actionFails a St.conflict (reason 0x02 p) s
    | none =>
      let s := holdPages (.heldAction a) ps pl.st
      armAction a { x with pages := ps, edits := pl.edits, changes := pl.changes, skipped := left } ps pl.edits pl.changes s

/-- The end of an action whose load fails (R131, R136): nothing of it is applied. -/
def loadFails (a kind index : Nat) (s : State) : State := actionFails a St.faulted 0 (report Src.scene kind 3 index 0 s)

/-- SCENE_LOAD_DONE (R139): the load waits for pending and re-seeding pages (R131). `bad`: every copy of the body fails its
check (R136); `ecc`: a page whose bank memory shows an uncorrectable error (R131). -/
def execSceneLoadDone (action : Nat) (bad : Bool) (ecc : Option Nat) (s : State) : Host.Outcome State Fault Refusal :=
  .next (match Tbl.find s.scene.actions action with
    | none => s
    | some x =>
      let waits := x.pages.any fun p => isPending s p || isReseeding s p
      if x.isList ∨ x.state ≠ .loading ∨ x.txn.isSome ∨ waits ∨ !s.sys.mladirUp then s
      else if bad then loadFails action K.sceneCorrupt x.number s
      else match ecc with
        | some p => if x.pages.contains p then loadFails action K.pageLasting p s else loadAction action x s
        | none => loadAction action x s)

/-- RESEED_DONE (R128): the page is free and waiting writes go on. `bad`: the bank memory shows an uncorrectable error; the
writes and loads that wait for it are refused and what they hold is released (R131). -/
def execReseedDone (page : Nat) (bad : Bool) (s : State) : Host.Outcome State Fault Refusal :=
  .next (if Tbl.find s.page.status page ≠ some .reseeding then s
    else
      let s := finishReseed page s
      if !bad then resumeWaits s
      else
        let hit := s.commit.waits.filter fun w => (pagesOf w.edits).contains page
        let loads := s.scene.actions.filter fun e => e.2.state = .loading && e.2.pages.contains page
        let s := report Src.scene K.pageLasting 3 page 0 s
        let s := { s with commit := { s.commit with waits := s.commit.waits.filter fun w => !(pagesOf w.edits).contains page } }
        let s := loads.foldl (fun s e => actionFails e.1 St.faulted 0 s) s
        resumeWaits (hit.foldl (fun s w => refuseWait w (refuse St.faulted) s) s))

/-- A change of a debounced emergency pin (R146, R147, R150). -/
def emergPin (n : Nat) (low : Bool) (s : State) : State :=
  if 3 < n ∨ (emergOf s n).pin = low then s
  else
    let s := putEmerg n { emergOf s n with pin := low } s
    if pinsDecide s then followPins (emergFrame s) s else s

/-- EMERG_ASSERT: 100 consecutive low samples (R146). -/
def execEmergAssert (input : Nat) (s : State) : Host.Outcome State Fault Refusal := .next (emergPin input true s)

/-- EMERG_RELEASE: 100 consecutive high samples (R146, R149). -/
def execEmergRelease (input : Nat) (s : State) : Host.Outcome State Fault Refusal := .next (emergPin input false s)

/-- EMERG_MISMATCH (R150): a standby's pin differs from the active engine's state. -/
def execEmergMismatch (input : Nat) (s : State) : Host.Outcome State Fault Refusal :=
  .next (if input ≤ 3 ∧ isStandby s ∧ (emergOf s input).pin ≠ Fx.bit s.pair.partnerEmerg input then
      report Src.scene K.emergMismatch 2 input 0 s
    else s)

end Sys2Proof.Machine
end

