-- ==== Sys2Proof/Machine/Sdp.lean ====
section
/-!
DEFINITION. SDP descriptions of streams (R276): the text that STREAM.SDP returns and the one that STREAM.RX accepts,
after RFC 8866, RFC 7104 and RFC 7273 (log entry 14).
-/
namespace Sys2Proof.Machine
open Sys2Proof

/-- The bytes of a text. -/
def text (s : String) : List Byte := s.toList.map fun c => BitVec.ofNat 8 c.toNat

/-- A number in decimal. -/
def decText (n : Nat) : List Byte := (Nat.toDigits 10 n).map fun c => BitVec.ofNat 8 c.toNat

/-- An IPv4 address. -/
def ipText (a : Nat) : List Byte :=
  decText (a / 2 ^ 24) ++ text "." ++ decText (a / 65536 % 256) ++ text "." ++ decText (a / 256 % 256) ++ text "." ++ decText (a % 256)

/-- A number in n hexadecimal digits, capitals. -/
def hexText : Nat → Nat → List Byte
  | 0, _ => []
  | n + 1, v => hexText n (v / 16) ++ [BitVec.ofNat 8 (if v % 16 < 10 then 48 + v % 16 else 55 + v % 16)]

/-- A clock identity: eight pairs of digits with dashes (RFC 7273). -/
def clockText (v : Nat) : List Byte :=
  (List.range 8).flatMap fun i => (if i = 0 then [] else text "-") ++ hexText 2 (v / 256 ^ (7 - i) % 256)

/-- Packet time in µs, to the nearest. -/
def packetUs (s : State) (ptime : Nat) : Nat :=
  (Fx.roundAway (packetSamples (fam s) ptime * 1000000) (fsNow s)).toNat

/-- A packet time in ms, with three decimals where needed. -/
def ptimeText (us : Nat) : List Byte :=
  decText (us / 1000) ++
    (if us % 1000 = 0 then []
     else text "." ++ decText (us / 100 % 10) ++ decText (us / 10 % 10) ++ decText (us % 10))

def line (bs : List Byte) : List Byte := bs ++ text "\x0d\n"

/-- The grandmaster that the engine follows over PTP, if it does. -/
def followedGm (s : State) : Option Nat :=
  match s.time.sel with
  | some c => if c < 5 then (Tbl.find s.time.ptp c).bind (·.gm) else none
  | none => none

/-- One media description of a transmit stream. -/
def mediaText (s : State) (c : StreamCfg) (p : PathCfg) (mid : Option String) : List Byte :=
  let src := (mediaAddr s p.port).2
  let enc := if c.enc = 0 then "L16" else "L24"
  line (text "m=audio " ++ decText p.udp ++ text " RTP/AVP " ++ decText c.ptype) ++
  line (text "c=IN IP4 " ++ ipText p.dst ++ (if isMulticast p.dst then text "/" ++ decText (netOf s p.port).cfg.ttl else [])) ++
  line (text "a=source-filter: incl IN IP4 " ++ ipText p.dst ++ text " " ++ ipText src) ++
  line (text "a=rtpmap:" ++ decText c.ptype ++ text " " ++ text enc ++ text "/" ++ decText (fsNow s).toNat ++ text "/" ++ decText c.channels) ++
  line (text "a=ptime:" ++ ptimeText (packetUs s c.ptime)) ++
  line (match followedGm s with
    | some g => text "a=ts-refclk:ptp=IEEE1588-2008:" ++ clockText g ++ text ":" ++ decText s.time.ptpCfg.domain
    | none => text "a=ts-refclk:local") ++
  line (text "a=mediaclk:direct=" ++ decText c.offset) ++
  (match mid with | some m => line (text "a=mid:" ++ text m) | none => [])

/-- The description of a transmit stream, at most 4 KiB. -/
def sdpText (s : State) (id : Nat) (c : StreamCfg) : List Byte :=
  let two := decide (c.paths.length = 2)
  let from_ := match c.paths.head? with | some p => (mediaAddr s p.port).2 | none => 0
  let head :=
    line (text "v=0") ++
    line (text "o=- " ++ decText (Config.sdpSession id) ++ text " " ++ decText (Config.sdpVersion id) ++ text " IN IP4 " ++ ipText from_) ++
    line (text "s=" ++ (Config.sdpName id).take 64) ++ line (text "t=0 0") ++
    (if two then line (text "a=group:DUP A B") else [])
  let media := (c.paths.zip ["A", "B"]).flatMap fun p => mediaText s c p.1 (if two then some p.2 else none)
  (head ++ media).take 4096

/-! ### Reading a description -/

/-- Split a text at a byte. -/
def splitAt (b : Byte) : List Byte → List (List Byte)
  | [] => [[]]
  | x :: xs =>
    match splitAt b xs with
    | [] => [[x]]
    | l :: ls => if x = b then [] :: l :: ls else (x :: l) :: ls

/-- A decimal number; none where a byte is no digit. -/
def decIn (bs : List Byte) : Option Nat :=
  if bs = [] then none
  else bs.foldl (fun a b => match a with
    | some v => if 48 ≤ b.toNat ∧ b.toNat ≤ 57 then some (v * 10 + (b.toNat - 48)) else none
    | none => none) (some 0)

/-- An IPv4 address, with what may follow a slash ignored. -/
def ipOf (bs : List Byte) : Option Nat :=
  match (splitAt 46 ((splitAt 47 bs).headD [])).map decIn with
  | [some a, some b, some c, some d] =>
    if a < 256 ∧ b < 256 ∧ c < 256 ∧ d < 256 then some (((a * 256 + b) * 256 + c) * 256 + d) else none
  | _ => none

/-- A number of ms with up to three decimals, in µs. -/
def usOf (bs : List Byte) : Option Nat :=
  match splitAt 46 bs with
  | [a] => (decIn a).map (· * 1000)
  | [a, b] =>
    match decIn a, decIn ((b ++ text "000").take 3) with
    | some x, some y => some (x * 1000 + y)
    | _, _ => none
  | _ => none

/-- What one media description says. -/
structure SdpMedia where
  port : Option Nat := none
  ptype : Nat := 0
  dst : Option Nat := none
  /-- Encoding 0 L16, 1 L24, 2 another; rate; channels. -/
  map : Option (Nat × Nat × Nat) := none
  ptimeUs : Option Nat := none
  src : Nat := 0
  offset : Nat := 0
  deriving DecidableEq, Repr

/-- The value of a line or attribute, if the text begins with its name. -/
def after (name : String) (bs : List Byte) : Option (List Byte) :=
  let n := text name
  if bs.take n.length = n then some (bs.drop n.length) else none

/-- Encoding, rate and channels of a=rtpmap. -/
def mapOf (bs : List Byte) : Option (Nat × Nat × Nat) :=
  match splitAt 32 bs with
  | [_, f] =>
    match splitAt 47 f with
    | e :: r :: rest =>
      let enc := if e = text "L16" then 0 else if e = text "L24" then 1 else 2
      let ch := match rest with | c :: _ => (decIn c).getD 0 | [] => 1
      (decIn r).map fun r => (enc, r, ch)
    | _ => none
  | _ => none

/-- A line's effect on the description in hand; attributes that are not known are ignored. -/
def SdpMedia.line (m : SdpMedia) (l : List Byte) : SdpMedia :=
  match after "c=IN IP4 " l with
  | some v => { m with dst := ipOf v }
  | none => match after "a=rtpmap:" l with
    | some v => { m with map := mapOf v }
    | none => match after "a=ptime:" l with
      | some v => { m with ptimeUs := usOf v }
      | none => match after "a=mediaclk:direct=" l with
        | some v => { m with offset := (decIn ((splitAt 32 v).headD [])).getD 0 % 2 ^ 32 }
        | none => match after "a=source-filter: incl IN IP4 " l with
          | some v => { m with src := match splitAt 32 v with | _ :: a :: _ => (ipOf a).getD 0 | _ => 0 }
          | none => m

/-- Session level and media descriptions, the latest first: a media description starts from the session's lines. -/
def sdpLine (acc : SdpMedia × List SdpMedia) (l : List Byte) : SdpMedia × List SdpMedia :=
  match after "m=audio " l with
  | some v =>
    let f := splitAt 32 v
    let new : SdpMedia := { acc.1 with
      port := decIn ((splitAt 47 (f.headD [])).headD []), ptype := ((f[2]?).bind decIn).getD 0 }
    (acc.1, new :: acc.2)
  | none => match acc.2 with
    | m :: ms => (acc.1, m.line l :: ms)
    | [] => (acc.1.line l, [])

/-- The media descriptions of a text, in order. -/
def sdpMedia (bs : List Byte) : List SdpMedia :=
  let lines := (splitAt 10 bs).map fun l => if l.getLast? = some 13 then l.dropLast else l
  (lines.foldl sdpLine ({}, [])).2.reverse

/-- The packet time code of a packet time in µs (R262). -/
def ptimeOf (s : State) (us : Nat) : Option Nat := [0, 1, 2, 3, 4].find? fun c => decide (packetUs s c = us)

/-- A receive stream from a description (R276), or none where it lacks c=, m= or a=rtpmap or names a format outside R262
and R263. `base` holds what the request gives beside it; its paths name the engine's ports, else path i takes port i (log
entry 38). -/
def streamFromSdp (s : State) (base : StreamCfg) (bs : List Byte) : Option StreamCfg :=
  match sdpMedia bs with
  | [] => none
  | m :: ms =>
    match m.map with
    | none => none
    | some (enc, rate, ch) =>
      let all := m :: ms
      let same := all.all fun x => decide (x.map = m.map) && decide (x.ptype = m.ptype) && decide (x.ptimeUs = m.ptimeUs)
      let paths := (all.zip (List.range all.length)).filterMap fun (x, i) =>
        match x.dst, x.port with
        | some d, some u => some ({ port := ((base.paths[i]?).map (·.port)).getD i, udp := u, dst := d, src := x.src } : PathCfg)
        | _, _ => none
      let pt := match m.ptimeUs with | some us => ptimeOf s us | none => some base.ptime
      match pt with
      | none => none
      | some pt =>
        if !same ∨ paths.length ≠ all.length ∨ 2 < all.length ∨ 1 < enc ∨ (rate : Int) ≠ fsNow s then none
        else some { base with enc := enc, channels := ch, ptime := pt, ptype := m.ptype, offset := m.offset, paths := paths }

end Sys2Proof.Machine
end

