-- ==== Sys2Proof/Machine/NetCmds.lean ====
section
/-!
DEFINITION. The NET and STREAM commands (R281, R486) and the events of the media network (10): frames received (R249,
R253, R259 to R261), links (R248, R279), gates (R255), preemption (R258), control protocols (R250, R275, R280), path
liveness (R272), packet release (R268), identities (R278) and reconcile points (R274).
-/
namespace Sys2Proof.Machine
open Sys2Proof

/-! ### Commands -/

def netCmd (code : Nat) (expert : Bool) : Cmd := { code := code, reach := .shared, expert := expert, needs := some Fn.network }

/-- A stream change on the definitions alone, for the check of another. -/
def foreseeStream (drops : Bool) (s : State) (c : Change) : State :=
  match c with
  | .stream true id c => { s with net := { s.net with rx := Tbl.put s.net.rx id { cfg := c }, table := enterPaths id c.paths s.net.table } }
  | .stream false id c => { s with net := { s.net with tx := Tbl.put s.net.tx id { cfg := c } } }
  | .dropStream true id =>
    if drops then
      { s with net := { s.net with
          rx := Tbl.erase s.net.rx id, table := Tbl.keep (fun _ e => !e.valid || e.stream != id) s.net.table } }
    else s
  | .dropStream false id => if drops then { s with net := { s.net with tx := Tbl.erase s.net.tx id } } else s
  | _ => s

/-- The streams as they will stand with what is pending, what other lists hold, and this list's own changes. -/
def foreseeStreams (list : Nat) (s : State) : State :=
  let s1 := s.commit.sets.foldl (fun t c => c.changes.foldl (foreseeStream true) t) s
  s.scene.lists.foldl (fun t l => l.2.changes.foldl (foreseeStream (decide (l.1 = list))) t) s1

/-- The configuration that NET.CONFIG asks for, with its clamps, or the refusal (R247, R253, R264, R265, R268, R464). -/
def planNet (n : Nat) (f : NetFields) (s : State) : Except Reply (NetCfg × List Clamp) :=
  if 5 ≤ n then .error (refuse St.noResource)
  else if (if n < 4 then 1 < f.speed else f.speed < 2 ∨ 5 < f.speed) then .error (refuse St.conflict)
  else if 1 < f.fec ∨ (f.fec = 1 ∧ f.speed ≠ 1) then .error (refuse St.conflict)
  else
    let (pl, c1) := clampField 8 0 0 32 f.prefixLen
    let (vl, c2) := clampField 13 0 0 4094 f.vlan
    let (tt, c3) := clampField 15 0 1 255 f.ttl
    let (sp, c4) := clampField 16 0 1024 65535 f.seril
    let c : NetCfg := {
      speed := f.speed, fec := f.fec, stepDown := Fx.bit f.flags 0, ip := f.ip, prefixLen := pl.toNat
      gateway := f.gateway, vlan := vl.toNat, ttl := tt.toNat, serilPort := sp.toNat }
    let s' := putNet n { netOf s n with cfg := c } s
    let x := netOf s' n
    let top := portChannels (fam s) x
    let v := foreseeStreams 0 s
    if top < channelsOn (txCfgs v) n ∨ top < channelsOn (rxCfgs v) n then .error (refuse St.noResource)
    else match loadFigure s' (txCfgs v) n x.gates with
      | some v => .error (figureRefused v)
      | none => .ok (c, c1 ++ c2 ++ c3 ++ c4)

/-- NET.CONFIG (R250, R281): local to this engine (R325). -/
def execNetConfig (r : Req) (port : Nat) (fields : NetFields) (s : State) : Host.Outcome State Fault Refusal :=
  serve { code := 0x0701, reach := .here, needs := some Fn.network } r (withFlags 1 fields.flags fun _ s =>
    match planNet port fields s with
    | .error e => (s, e)
    | .ok (c, cl) =>
      let x := netOf s port
      -- defence ends with the address that was in conflict
      let conf := if x.cfg.ip = c.ip then x.conflicts else Tbl.erase x.conflicts x.cfg.ip
      (putNet port { x with cfg := c, conflicts := conf } s, done cl [])) s

/-- The speed code of a port now: NET4's negotiated speed while its link is up. -/
def speedCode (n : Nat) (x : NetPort) : Nat :=
  if n = 4 ∧ x.up then (if x.rate = 1000 then 3 else if x.rate = 100 then 4 else 5) else x.cfg.speed

/-- Identities that the engine holds: [0] red, [1] blue (R251, R277). -/
def heldIdentities (s : State) : Nat :=
  let held := fun (blue : Bool) => [0, 1, 2, 3].any fun n => isBlue n == blue && sendsOn s n
  Fx.b2n (held false) + 2 * Fx.b2n (held true)

/-- NET.STATUS (R281): the load in kb/s is rounded up. -/
def execNetStatus (r : Req) (port : Nat) (s : State) : Host.Outcome State Fault Refusal :=
  serve { code := 0x0702 } r (fun _ s =>
    if 5 ≤ port then (s, refuse St.noResource)
    else
      let x := netOf s port
      (s, done [] (u8 (Fx.b2n x.up) ++ u8 (speedCode port x) ++ u8 (heldIdentities s) ++ u8 x.preState ++
        u32 (Fx.ceilDiv (txLoad (fsNow s) (fam s) (txCfgs s) port) 1000) ++ u16 (channelsOn (rxCfgs s) port) ++
        u16 (channelsOn (txCfgs s) port) ++ x.counters.flatMap u32))) s

/-! #### Streams (R262 to R265, R269, R281) -/

def pathOf (rx : Bool) (p : StreamPath) : PathCfg := { port := p.port, udp := p.udp, dst := p.dst, src := if rx then p.src else 0 }

/-- A stream definition as a plan (R53, R281). -/
def planStream (rx : Bool) (list id : Nat) (c : StreamCfg) (cl : List Clamp) (s : State) : Except Reply Plan :=
  match streamRefused (foreseeStreams list s) rx id c with
  | some e => .error e
  | none => .ok { st := s, changes := [.stream rx id c], clamps := cl }

/-- STREAM.TX (R263, R267). -/
def execStreamTx (r : Req) (list stream : Nat) (fields : StreamFields) (offset ssrc : Nat) (paths : List StreamPath) (s : State) :
    Host.Outcome State Fault Refusal :=
  serve (netCmd 0x0703 false) r (fun r s =>
    let c : StreamCfg := {
      first := fields.first, channels := fields.channels, enc := fields.enc, ptime := fields.ptime, ptype := fields.ptype
      offset := offset, ssrc := ssrc, paths := paths.map (pathOf false) }
    pageWrite r 0x0703 list true (planStream false list stream c []) s) s

/-- STREAM.RX (R269, R272, R276): from its fields, or from the SDP text at the data reference. -/
def execStreamRx (r : Req) (list stream : Nat) (fields : StreamFields) (linkUs lossMs flags : Nat) (paths : List StreamPath)
    (text : List Byte) (s : State) : Host.Outcome State Fault Refusal :=
  serve (netCmd 0x0704 false) r (withFlags 1 flags fun r s =>
    let (lk, c1) := clampField 9 0 125 20000 linkUs
    let (lo, c2) := clampField 13 0 1 1000 lossMs
    let c : StreamCfg := {
      first := fields.first, channels := fields.channels, enc := fields.enc, ptime := fields.ptime, ptype := fields.ptype
      paths := paths.map (pathOf true), linkUs := lk.toNat, lossMs := lo.toNat }
    match (if Fx.bit flags 0 then streamFromSdp s c text else some c) with
    | none => (s, refuse St.conflict)
    | some c => pageWrite r 0x0704 list true (planStream true list stream c (c1 ++ c2)) s) s

/-- STREAM.DELETE (R281): direction 0 receive, 1 transmit. -/
def execStreamDelete (r : Req) (list stream dir : Nat) (s : State) : Host.Outcome State Fault Refusal :=
  serve (netCmd 0x0705 false) r (fun r s =>
    if 1 < dir then (s, refuse St.conflict)
    else pageWrite r 0x0705 list true (fun s =>
      let v := foreseeStreams list s
      if (if dir = 0 then Tbl.has v.net.rx stream else Tbl.has v.net.tx stream) then
        .ok { st := s, changes := [.dropStream (decide (dir = 0)) stream] }
      else .error (refuse St.noResource)) s) s

/-- Counters of a receive path (R486). -/
def PathState.bytes (p : PathState) : List Byte :=
  u32 p.packets ++ u32 p.duplicate ++ u32 p.late ++ u32 p.early ++ u32 p.merged ++ u32 p.mismatch

/-- STREAM.STATUS (R266, R270 to R273): counters of the stream's paths; a transmit path counts its packets and is up while
its port's link is up and this engine sends on it (log entry 37). -/
def execStreamStatus (r : Req) (stream dir : Nat) (s : State) : Host.Outcome State Fault Refusal :=
  serve { code := 0x0706 } r (fun _ s =>
    if 1 < dir then (s, refuse St.conflict)
    else if dir = 0 then
      match Tbl.find s.net.rx stream with
      | none => (s, refuse St.noResource)
      | some x =>
        let st := fun i => if i < x.cfg.paths.length then Fx.b2n (x.st.getD i {}).up else 0
        (s, done [] (u8 (streamLevel s.sys.rate x.cfg) ++ u8 (st 0) ++ u8 (st 1) ++ u8 0 ++
          ((List.range x.cfg.paths.length).flatMap fun i => (x.st.getD i {}).bytes) ++ u32 x.concealed ++ u32 (bufferBytes s x.cfg)))
    else
      match Tbl.find s.net.tx stream with
      | none => (s, refuse St.noResource)
      | some x =>
        let st := fun i => match x.cfg.paths[i]? with
          | some p => Fx.b2n ((netOf s p.port).up && sendsOn s p.port)
          | none => 0
        (s, done [] (u8 (streamLevel s.sys.rate x.cfg) ++ u8 (st 0) ++ u8 (st 1) ++ u8 0 ++
          ((List.range x.cfg.paths.length).flatMap fun i => u32 (x.packets.getD i 0) ++ List.replicate 20 0) ++ u32 0 ++ u32 0))) s

/-- STREAM.SDP (R276). -/
def execStreamSdp (r : Req) (stream : Nat) (s : State) : Host.Outcome State Fault Refusal :=
  serve { code := 0x0707 } r (fun _ s =>
    match Tbl.find s.net.tx stream with
    | none => (s, refuse St.noResource)
    | some x =>
      let t := sdpText s stream x.cfg
      (s, done [] (u32 t.length) t)) s

/-! #### Expert settings -/

/-- NET.CLASSES (R252). -/
def execNetClasses (r : Req) (op : Nat) (classes : List ClassFields) (queue : Nat) (s : State) : Host.Outcome State Fault Refusal :=
  serve { code := 0x0708, expert := true } r (fun r s =>
    match (if op = 1 then gate (some Fn.network) s else none) with
    | some e => (s, e)
    | none =>
      sharedSetting r 0x0708 op (fun _ =>
        if classes.length ≠ 4 then .error (refuse St.badLen)
        else if 5 < queue then .error (refuse St.conflict)
        else
          let cl := ((classes.zip [1, 3, 5, 7]).map fun (c, off) =>
            let (p, a) := clampField off 0 0 7 c.pcp
            let (d, b) := clampField (off + 1) 0 0 63 c.dscp
            ([p, d], a ++ b))
          .ok ([.setting 0x0708 (cl.flatMap (·.1) ++ [(queue : Int)])], cl.flatMap (·.2)))
        (fun s => ((s.net.pcp.zip s.net.dscp).flatMap fun c => u8 c.1 ++ u8 c.2) ++ u8 s.net.ctrlQueue) s) s

/-- The base time of NET.GATES: the next frame's boundary where the request names the next frame. -/
def baseTime (s : State) : Option Nat → Nat
  | some t => t
  | none => ((s.clk.full16 + (gridCount s (s.clk.boundaryJ + s.sys.b) - s.clk.count)) / 65536).toNat

/-- The list that NET.GATES writes, or the refusal (R254, R255, R257). -/
def planGates (n cycle : Nat) (es : List GateFields) (base : Nat) (s : State) : Except Reply GateList :=
  if es.length = 0 ∨ 512 < es.length then .error (refuse St.badLen)
  else match (es.zip (List.range es.length)).find? fun e => decide (2 < e.1.op ∨ e.1.interval < 16 ∨ 1000000000 < e.1.interval) with
    | some e => .error (refuse St.conflict (reason 0x01 e.2))
    | none =>
      if cycle < 1000 ∨ 1000000000 < cycle ∨ cycle < es.foldl (fun a e => a + e.interval) 0 then .error (refuse St.conflict)
      else
        let g : GateList := { cycle := cycle, start := listStart s.clk.full base cycle
                              entries := es.map fun e => { op := e.op, states := e.states, interval := e.interval } }
        match loadFigure s (txCfgs (foreseeStreams 0 s)) n (some g) with
        | some v => .error (figureRefused v)
        | none => .ok g

/-- A network time of a response (R470). -/
def ntNs (ns : Nat) : List Byte := ntB (ns / 1000000000) (ns % 1000000000)

/-- The start time of the list in force, else of the one accepted; no list reads zero. -/
def gatesStart (n : Nat) (s : State) : Nat :=
  let x := netOf s n
  match x.gates.or x.nextGates with | some g => g.start | none => 0

def gateBytes (g : GateList) : List Byte := g.entries.flatMap fun e => u8 e.op ++ u8 e.states ++ u16 0 ++ u32 e.interval

/-- NET.GATES (R254 to R257): 0 reads, 1 writes, 2 removes. -/
def execNetGates (r : Req) (port op : Nat) (base : NetTime) (cycle : Nat) (entries : List GateFields) (s : State) :
    Host.Outcome State Fault Refusal :=
  serve { code := 0x0709, expert := true } r (fun r s =>
    if 5 ≤ port then (s, refuse St.noResource)
    else if 2 < op then (s, refuse St.conflict)
    else if op = 0 then
      (s, done [] (ntNs (gatesStart port s)) (match (netOf s port).gates.or (netOf s port).nextGates with | some g => gateBytes g | none => []))
    else match gate (some Fn.network) s with
      | some e => (s, e)
      | none =>
        if port = 4 then (s, refuse St.conflict)
        else if op = 2 then
          match loadFigure s (txCfgs (foreseeStreams 0 s)) port none with
          | some v => (s, figureRefused v)
          | none => changeNow r 0x0709 [.gates port 0 0 none] [] (fun s => ntNs (gatesStart port s)) s
        else withTime base (fun t r s =>
          match planGates port cycle entries (baseTime s t) s with
          | .error e => (s, e)
          | .ok g => changeNow r 0x0709 [.gates port g.start g.cycle (some g.entries)] [] (fun _ => ntNs g.start) s) r s) s

/-- NET.PREEMPT (R258). -/
def execNetPreempt (r : Req) (op port enable verify verifyMs frag : Nat) (s : State) : Host.Outcome State Fault Refusal :=
  serve { code := 0x070A, expert := true } r (fun r s =>
    match (if op = 1 then gate (some Fn.network) s else none) with
    | some e => (s, e)
    | none =>
      if 5 ≤ port then (s, refuse St.noResource)
      else
        sharedSetting r 0x070A op (fun _ =>
          if port = 4 ∨ 1 < enable ∨ 1 < verify then .error (refuse St.conflict)
          else
            let (ms, a) := clampField 4 0 1 128 verifyMs
            let (fr, b) := clampField 5 0 0 3 frag
            .ok ([.setting 0x070A [port, enable, verify, ms, fr]], a ++ b))
          (fun s =>
            let x := netOf s port
            u8 port ++ u8 (Fx.b2n x.preempt) ++ u8 (Fx.b2n x.verify) ++ u8 x.verifyMs ++ u8 x.fragSize ++ u8 x.preState) s) s

/-- An entry of NET.STREAM_TABLE as bytes (R486). -/
def TableEntry.bytes (e : TableEntry) : List Byte :=
  u8 (Fx.b2n e.valid) ++ u8 e.port ++ u16 e.udp ++ u32 e.dst ++ u32 e.src ++ u16 e.stream ++ u8 e.path ++ u8 0 ++ u32 e.hits ++ u32 e.last

/-- Two entries have the same key (R260). -/
def sameKey (a b : TableEntry) : Bool :=
  decide (a.port = b.port) && decide (a.dst = b.dst) && decide (a.udp = b.udp) && decide (a.src = b.src)

/-- The first entry of a table that breaks R260: a field out of range, a stream that does not exist, a path or a key held
twice. -/
def tableFault (s : State) (t : Tbl TableEntry) (i : Nat) : Bool :=
  match Tbl.find t i with
  | none => false
  | some e =>
    e.valid && (decide (5 ≤ e.port ∨ e.udp = 0 ∨ 2 ≤ e.path) || !Tbl.has s.net.rx e.stream ||
      t.any fun o => decide (o.1 ≠ i) && o.2.valid && (sameKey o.2 e || (decide (o.2.stream = e.stream) && decide (o.2.path = e.path))))

/-- NET.STREAM_TABLE (R260): 0 reads, 1 writes. -/
def execNetStreamTable (r : Req) (op first count : Nat) (entries : List EntryFields) (s : State) : Host.Outcome State Fault Refusal :=
  serve { code := 0x070B, expert := true } r (fun r s =>
    if 1 < op then (s, refuse St.conflict)
    else if 2048 < first + count then (s, refuse St.noResource)
    else if op = 0 then
      (s, done [] [] ((List.range count).flatMap fun i => (Tbl.getD s.net.table (first + i) {}).bytes))
    else match gate (some Fn.network) s with
      | some e => (s, e)
      | none =>
        if entries.length ≠ count ∨ count = 0 then (s, refuse St.badLen)
        else if entries.any fun e => decide (1 < e.valid) then (s, refuse St.conflict)
        else
          let vals : List Int := (first : Int) :: entries.flatMap fun (e : EntryFields) =>
            ([e.valid, e.port, e.udp, e.dst, e.src, e.stream, e.path].map fun (v : Nat) => (v : Int))
          let t := setTable first (vals.drop 1) s.net.table
          match (List.range count).find? fun i => tableFault s t (first + i) with
          | some i => (s, refuse St.conflict (reason 0x01 i))
          | none => changeNow r 0x070B [.setting 0x070B vals] [] (fun _ => []) s) s

/-- Groups whose hash bins are set on a port (R259): those of the stream table, all hosts for IGMP queries, and PTP's
where the port has an instance (R298). -/
def portGroups (s : State) (n : Nat) : List Nat :=
  ((wantedGroups s n).map (·.1)) ++ [0xE0000001] ++ (if Fx.bit s.time.ptpCfg.ports n then [0xE0000181] else [])

/-- NET.HASH_READ (R259). -/
def execNetHashRead (r : Req) (port : Nat) (s : State) : Host.Outcome State Fault Refusal :=
  serve { code := 0x070C, expert := true } r (fun _ s =>
    if 5 ≤ port then (s, refuse St.noResource)
    else
      let bins := (portGroups s port).map fun g => hashBin (groupMac g)
      (s, done [] [] ((List.range 512).map fun i =>
        BitVec.ofNat 8 ((List.range 8).foldl (fun a b => a + Fx.b2n (bins.contains (8 * i + b)) * 2 ^ b) 0)))) s

/-! ### Received frames (R249, R253, R258 to R261, R280) -/

/-- A frame that a port drops: counted, and logged at its start and then at most once per second (R280). -/
def dropFrame (n counter kind sev : Nat) (s : State) : State := reportLimited (Src.net n) kind sev 0 0 (countNet n counter s)

/-- The table entry that a packet matches: an exact source before any source (R260). -/
def matchEntry (t : Tbl TableEntry) (n : Nat) (u : UdpIn) : Option (Nat × TableEntry) :=
  let hit := fun (src : Nat) => t.find? fun (e : Nat × TableEntry) =>
    e.2.valid && decide (e.2.port = n) && decide (e.2.dst = u.dst) && decide (e.2.udp = u.dport) && decide (e.2.src = src)
  (if u.src = 0 then none else hit u.src).or (hit 0)

/-- A matched packet: counted in its entry, checked, then received (R260, R261). -/
def matchedPacket (n i : Nat) (e : TableEntry) (u : UdpIn) (s : State) : State :=
  let s := { s with net := { s.net with table := Tbl.put s.net.table i { e with hits := (e.hits + 1) % 2 ^ 32, last := s.clk.ns } } }
  if !u.ok then dropFrame n 4 K.netRxIp 0 s
  else match Tbl.find s.net.rx e.stream with
    | none => s
    | some x =>
      let p := rtpIn u.body
      if p.version ≠ 2 ∨ p.ptype ≠ x.cfg.ptype then dropFrame n 5 K.netRxRtp 1 s
      else
        let row := x.cfg.channels * (2 + x.cfg.enc)
        let len := p.payload.length
        if len = 0 ∨ len % row ≠ 0 ∨ packetSamples (fam s) x.cfg.ptime < len / row then dropFrame n 6 K.netRxLength 1 s
        else receiveMedia e.stream e.path n p s

/-- The packet goes to control handling: PTP, and on NET4 the engine's Seril port (R260, R464). -/
def isControlPort (s : State) (n dport : Nat) : Bool :=
  decide (dport = 319 ∨ dport = 320) || (decide (n = 4) && decide (dport = (netOf s 4).cfg.serilPort))

/-- A frame past the MAC (R260): ARP, ICMP, IGMP and PTP go to control handling, whose commands bring them decoded (log
entry 12). -/
def classify (n : Nat) (f : List Byte) (s : State) : State :=
  match udpIn f with
  | some u =>
    match matchEntry s.net.table n u with
    | some (i, e) => matchedPacket n i e u s
    | none =>
      if getBE f 20 2 % 16384 ≠ 0 then dropFrame n 4 K.netRxIp 0 s
      else if isControlPort s n u.dport then s
      else countNet n 7 s
  | none =>
    let control := decide (getBE f 12 2 = 0x0806) || (decide (getBE f 12 2 = 0x0800) && [1, 2].contains (getBE f 23 1))
    if control then s else countNet n 7 s

/-- The MAC accepts a destination (R259). -/
def macAccepts (n : Nat) (f : List Byte) (s : State) : Bool :=
  let d := getBE f 0 6
  if d = 0xFFFFFFFFFFFF then decide (getBE f 12 2 = 0x0806)
  else if d / 2 ^ 40 % 2 = 1 then (portGroups s n).any fun g => decide (hashBin (groupMac g) = hashBin d)
  else (heldAddrs s n).any fun a => decide (a.1 = d)

/-- A whole frame at a port, FCS included (R249, R253). -/
def frameIn (n : Nat) (bs : List Byte) (s : State) : State :=
  let len := bs.length
  if len < 64 ∨ 1522 < len ∨ getLE bs (len - 4) 4 ≠ crc32 (bs.take (len - 4)) then dropFrame n 0 K.netRxFrame 0 s
  else
    let (vid, f) := untag (bs.take (len - 4))
    if getBE f 12 2 = 0x8808 then dropFrame n 2 K.netRxPause 0 s
    else if vid ≠ 0 ∧ vid ≠ (netOf s n).cfg.vlan then dropFrame n 3 K.netRxVlan 0 s
    else if macAccepts n f s then classify n f s
    else s

/-- MAC_FRAME_RECEIVED (R249, R258): kind 0 a frame, 1 a fragment sequence with a bad mCRC or out of order, 2 a response
to a verify frame, 3 a verify frame. -/
def execMacFrameReceived (net kind : Nat) (frame : List Byte) (s : State) : Host.Outcome State Fault Refusal :=
  let x := netOf s net
  .next (
    if !x.up then s
    else if kind = 0 then frameIn net frame s
    else if net = 4 then dropFrame net 0 K.netRxFrame 0 s
    else if kind = 1 then dropFrame net (if x.preempt then 1 else 0) K.netRxFrame 0 s
    else if kind = 2 then (if x.preState = 1 then putNet net { x with preState := 2 } s else s)
    else { s with out := s.out ++ [.mergeFrame net true] })

/-! ### Links (R248, R279, R280) -/

/-- The network function follows its media links once the time function is ready (R19, R248). -/
def networkReady (s : State) : State :=
  if s.sys.tested.contains Fn.network then setReady Fn.network (isReady s Fn.time && [0, 1, 2, 3].any fun n => (netOf s n).up) s else s

/-- A link goes up: its preemption handshake is tried (R258). -/
def linkUp (n : Nat) (s : State) : State :=
  if (netOf s n).up then s
  else
    let s := putNet n { netOf s n with up := true } s
    networkReady (if n < 4 then startVerify n s else s)

/-- A link goes down: more than 10 losses in 60 s are logged (R280). -/
def linkLost (n : Nat) (s : State) : State :=
  let x := netOf s n
  if !x.up then s
  else
    let flaps := s.clk.raw :: x.flaps.filter fun t => decide (s.clk.raw < t + msTicks 60000)
    let s := networkReady (putNet n { x with up := false, preState := 0, verifySent := 0, held := false, flaps := flaps } s)
    if 10 < flaps.length then reportLimited (Src.net n) K.netLinkFlap 2 0 0 s else s

/-- MEDIA_LINK_UP (R248): 10 ms of block lock with no fault; a media port runs at the speed of its configuration. -/
def execMediaLinkUp (net mbps : Nat) (s : State) : Host.Outcome State Fault Refusal :=
  .next (if net < 4 ∧ mbps = portMbps (netOf s net) then linkUp net s else s)

/-- MEDIA_LINK_DOWN (R248). -/
def execMediaLinkDown (net : Nat) (s : State) : Host.Outcome State Fault Refusal :=
  .next (if net < 4 then linkLost net s else s)

/-- NET4_LINK_CHANGE (R248, R279): the negotiated speed; a step in progress is complete, and a step up that waited for a
step down begins. -/
def execNet4LinkChange (up : Bool) (mbps : Nat) (s : State) : Host.Outcome State Fault Refusal :=
  .next (
    let x := netOf s 4
    if up then
      let s := putNet 4 { x with rate := mbps, stepping := none, lastUp := if x.stepping = some 1000 then some s.clk.raw else x.lastUp } s
      if x.upNext then putNet 4 { netOf s 4 with stepping := some 1000, upNext := false, up := false } s else linkUp 4 s
    else linkLost 4 { s with net := { s.net with port := Tbl.put s.net.port 4 { x with rate := 0 } } })

/-- NET4_STEP_DOWN (R279): its use has been below 1 % for 10 minutes; the other conditions are the engine's own. -/
def execNet4StepDown (s : State) : Host.Outcome State Fault Refusal :=
  let x := netOf s 4
  let used := (txCfgs s ++ rxCfgs s).any fun c => c.paths.any fun p => decide (p.port = 4)
  let rested : Bool := match x.lastUp with | some t => decide (t + msTicks 600000 ≤ s.clk.raw) | none => true
  .next (if x.cfg.stepDown && x.up && decide (x.rate = 1000) && !used && rested then putNet 4 { x with stepping := some 100, up := false } s else s)

/-- NET4_STEP_UP (R279): its queues held more than 32 KiB for 100 ms. -/
def execNet4StepUp (s : State) : Host.Outcome State Fault Refusal := .next (stepUp s)

/-! ### Gates (R255) and preemption (R258) -/

/-- RAW reaches a time in ns of the full time. -/
def advanceToTime (ns : Nat) (s : State) : State := advanceTo (rawAtTime s ns) s

/-- The port enters an entry of its list: its states apply, and it holds or releases the MAC while preemption is active
(R254). -/
def enterEntry (n : Nat) (g : GateList) (i t : Nat) (s : State) : State :=
  let x := netOf s n
  let held : Bool := match g.entries[i]? with
    | some e => if x.preState ≠ 2 ∨ e.op = 0 then x.held else decide (e.op = 1)
    | none => x.held
  flushPort n (putNet n { x with gateIndex := i, gateEnd := entryEnd g i t, held := held } s)

/-- GATE_INTERVAL_END: the next entry's states apply; a new list due earlier starts first. -/
def execGateIntervalEnd (net : Nat) (s : State) : Host.Outcome State Fault Refusal :=
  let x := netOf s net
  .next (match x.gates with
    | none => s
    | some g =>
      if (match x.nextGates with | some n => decide (n.start ≤ x.gateEnd) | none => false) then s
      else
        let i := if x.gateIndex + 1 < g.entries.length then x.gateIndex + 1 else 0
        let s := advanceToTime x.gateEnd s
        enterEntry net g i x.gateEnd s)

/-- GATE_LIST_START: the cycle in progress ends at once. -/
def execGateListStart (net : Nat) (s : State) : Host.Outcome State Fault Refusal :=
  let x := netOf s net
  .next (match x.nextGates with
    | none => s
    | some g =>
      let s := advanceToTime g.start s
      enterEntry net g 0 g.start (putNet net { netOf s net with gates := some g, nextGates := none } s))

/-- VERIFY_TIMEOUT (R258): up to three verify frames; then FAILED and its log. -/
def execVerifyTimeout (net : Nat) (s : State) : Host.Outcome State Fault Refusal :=
  let x := netOf s net
  .next (
    if x.preState ≠ 1 ∨ !x.up then s
    else if x.verifySent < 3 then
      let s := putNet net { x with verifySent := x.verifySent + 1 } s
      { s with out := s.out ++ [.mergeFrame net false] }
    else report (Src.net net) K.netPreemptVerify 1 0 0 (putNet net { x with preState := 3 } s))

/-! ### Control protocols (R250, R275, R280) -/

/-- A control packet within 10,000 of the second (R280): the excess is dropped. -/
def controlAdmits (n : Nat) (s : State) : Bool × State :=
  let x := netOf s n
  let sec := s.clk.raw / msTicks 1000
  let c := if x.ctrlAt = sec then x.ctrlN + 1 else 1
  let s := putNet n { x with ctrlAt := sec, ctrlN := c } s
  if 10000 < c then (false, dropFrame n 9 K.netCtrlFlood 2 s) else (true, s)

/-- Handle a control packet of a port whose link is up. -/
def control (n : Nat) (f : State → State) (s : State) : State :=
  if !(netOf s n).up then s
  else
    let (ok, s) := controlAdmits n s
    if ok then f s else s

/-- IGMP_QUERY (R275): general, group, or group and source; an older querier sets the compatibility mode. -/
def execIgmpQuery (net version group : Nat) (sources : List Nat) (s : State) : Host.Outcome State Fault Refusal :=
  .next (control net (fun s =>
    let x := netOf s net
    let s := if version = 1 ∨ version = 2 then putNet net { x with igmpVer := min version (igmpVersion s x), igmpAt := s.clk.raw } s else s
    if group = 0 then (netOf s net).groups.foldl (fun s g => reportPresent net g.1 [] s) s
    else reportPresent net group sources s) s)

/-- IGMP_REPORT_REPEAT (R275): the second report of a join or leave. -/
def execIgmpReportRepeat (net group : Nat) (s : State) : Host.Outcome State Fault Refusal :=
  .next (match Tbl.find (netOf s net).repeats group with
    | none => s
    | some (old, new) =>
      reportChange net group old new (putNet net { netOf s net with repeats := Tbl.erase (netOf s net).repeats group } s))

/-- ARP_REQUEST (R250, R280): another host's use of a held address is a conflict, defended at most once per 10 s; a
request for a held address is answered. -/
def execArpRequest (net mac sender target : Nat) (s : State) : Host.Outcome State Fault Refusal :=
  .next (control net (fun s =>
    let held := heldAddrs s net
    let mine := held.any fun a => decide (a.1 = mac)
    match (if mine ∨ sender = 0 then none else held.find? fun a => decide (a.2 = sender)) with
    | some a =>
      let x := netOf s net
      let due : Bool := match Tbl.find x.conflicts sender with | some t => decide (t + msTicks 10000 ≤ s.clk.raw) | none => true
      let s := reportLimited (Src.net net) K.netAddrConflict 3 0 (sender % 2 ^ 32) s
      if due then gratuitousArp net a (putNet net { netOf s net with conflicts := Tbl.put x.conflicts sender s.clk.raw } s) else s
    | none => match held.find? fun a => decide (a.2 = target ∧ target ≠ 0) with
      | some a => if mine then s else sendControl net mac a.1 0x0806 (arpPacket 2 a.1 a.2 mac sender) s
      | none => s) s)

/-- ICMP_ECHO (R250). -/
def execIcmpEcho (net mac src dst ident seq : Nat) (payload : List Byte) (s : State) : Host.Outcome State Fault Refusal :=
  .next (control net (fun s =>
    match (heldAddrs s net).find? fun a => decide (a.2 = dst) with
    | some a =>
      sendControl net mac a.1 0x0800
        (ipPacket dst src 1 (classDscp s 2) (netOf s net).cfg.ttl [] (echoReply ident seq payload)) s
    | none => s) s)

/-- ADDRESS_DEFENCE (R280): 10 s after the latest gratuitous ARP for an address in conflict. -/
def execAddressDefence (net addr : Nat) (s : State) : Host.Outcome State Fault Refusal :=
  .next (match Tbl.find (netOf s net).conflicts addr, (heldAddrs s net).find? fun a => decide (a.2 = addr) with
    | some t, some a =>
      let s := advanceTo (t + msTicks 10000) s
      gratuitousArp net a (putNet net { netOf s net with conflicts := Tbl.put (netOf s net).conflicts addr s.clk.raw } s)
    | _, _ => s)

/-! ### Liveness, release, identity, reconciliation (R268, R272, R274, R278) -/

/-- The port of a receive path, as the stream table or the definition names it. -/
def pathPort (s : State) (id path : Nat) (x : RxStream) : Nat :=
  match s.net.table.find? fun e => e.2.valid && decide (e.2.stream = id) && decide (e.2.path = path) with
  | some e => e.2.port
  | none => match x.cfg.paths[path]? with | some p => p.port | none => 0

/-- The update of one path. -/
def updatePath (id path : Nat) (s : State) : State :=
  match Tbl.find s.net.rx id with
  | none => s
  | some x =>
    let k := x.st.getD path {}
    if !(netOf s (pathPort s id path x)).up then pathDown id path (putRx id { x with st := x.st.set path { k with arrived := false, timer := 0 } } s)
    else if k.arrived then putRx id { x with st := x.st.set path { k with arrived := false, timer := 0 } } s
    else
      let t := if k.up then k.timer + 1 else 0
      let s := putRx id { x with st := x.st.set path { k with timer := t } } s
      if k.up ∧ x.cfg.lossMs * 8 ≤ t then pathDown id path s else s

/-- Count of the next multiple of a period in ns of the system counter. -/
def nextMultiple (s : State) (ns : Nat) : Int := (s.clk.count / (ns * 65536 : Nat) + 1) * (ns * 65536 : Nat)

/-- PATH_UPDATE (R272): every 125 µs of the system counter. -/
def execPathUpdate (s : State) : Host.Outcome State Fault Refusal :=
  let s := advanceToCount (nextMultiple s 125000) s
  .next (s.net.rx.foldl (fun s e => updatePath e.1 1 (updatePath e.1 0 s)) s)

/-- RAW reaches a media clock count (R267), less a number of ns. -/
def advanceToMedia (m early : Nat) (s : State) : State :=
  let t16 := Fx.ceilDiv (m * 65536000000000) (fsNow s).toNat
  advanceToCount (s.clk.count + ((t16 : Int) - (early * 65536 : Nat) - s.clk.full16)) s

/-- The stream whose oldest built packet leaves first: at its output instant, in ascending stream number (R268). -/
def nextRelease (s : State) : Option (Nat × Nat) :=
  s.net.tx.foldl (fun best e => match e.2.built with
    | [] => best
    | k :: _ =>
      let at_ := k.count + packetSamples (fam s) e.2.cfg.ptime
      match best with
      | some (_, t) => if at_ < t then some (e.1, at_) else best
      | none => some (e.1, at_)) none

/-- PACKET_RELEASE (R268). -/
def execPacketRelease (s : State) : Host.Outcome State Fault Refusal :=
  .next (match nextRelease s with
    | none => s
    | some (id, at_) => releasePacket id (advanceToMedia at_ 0 s))

/-- IDENTITY_CLAIM (R278). -/
def execIdentityClaim (s : State) : Host.Outcome State Fault Refusal :=
  .next (match s.net.aloneSince with
    | none => s
    | some t =>
      if s.sys.pairEn && s.pair.activeOut && !s.pair.link.up && !s.pair.partnerIn then claimIdentity (advanceTo (t + msTicks 1000) s) else s)

/-- Both sides of an arrival are known (R274, R328): a copy that only the partner has, or a standby's differing one, is
fetched. -/
def agreeArrival (own peer : Arrival) (s : State) : State :=
  let fetch := peer.here && (!own.here || (decide (own.crc ≠ peer.crc) && !s.pair.activeOut))
  if fetch then
    sendLink (.fetch own.item) (setPair (fun p => { p with fetching := own.item :: p.fetching }) s)
  else s

/-- State an arrival at its reconcile point: it goes to the partner and waits for the partner's (R274, R328). -/
def stateArrival (a : Arrival) (s : State) : State :=
  let s := sendLink (.pktRecon [a]) s
  match s.net.reconPeer.find? fun p => decide (p.item = a.item) with
  | some p => agreeArrival a p { s with net := { s.net with reconPeer := s.net.reconPeer.erase p } }
  | none => { s with net := { s.net with reconOwn := (a :: s.net.reconOwn).take 4096 } }

/-- The partner's arrival: compared once this engine's own is stated. -/
def peerArrival (a : Arrival) (s : State) : State :=
  match s.net.reconOwn.find? fun p => decide (p.item = a.item) with
  | some p => agreeArrival p a { s with net := { s.net with reconOwn := s.net.reconOwn.erase p } }
  | none => { s with net := { s.net with reconPeer := (a :: s.net.reconPeer).take 4096 } }

/-- RECONCILE_POINT (R274): the packet of a stream whose first sample has a media clock count; 250 µs before its
deadline. -/
def execReconcilePoint (stream count : Nat) (s : State) : Host.Outcome State Fault Refusal :=
  .next (match Tbl.find s.net.rx stream with
    | none => s
    | some x =>
      if !inCopyOrStep s then s
      else
        let s := advanceToMedia (count + linkSamples s x.cfg) 250000 s
        let p := x.placed.find? fun p => decide (p.count = count)
        stateArrival { item := .packet stream count, here := p.isSome, crc := (p.map (·.crc)).getD 0 } s)

end Sys2Proof.Machine
end

