-- ==== Sys2Proof/Machine/Ptp.lean ====
section
/-!
DEFINITION. PTP instances (11: R298 to R301, R316): the BMCA, messages received and sent, the delay exchange; and what a
measurement does to the servo (R292, R293, R314).
-/
namespace Sys2Proof.Machine
open Sys2Proof

/-- The header of what the engine itself asks for: no client waits for it. -/
def ownReq : Req := { slot := 255, seq := 0, crc := 0 }

/-- A change that the engine makes of itself (R312, R314): forwarded to a partner, else at once, or at the next boundary. -/
def ownChange (boundary : Bool) (c : Change) (s : State) : State :=
  if forwards s then forward ownReq { changes := [c] } [] [c] none s
  else if boundary then
    { s with commit := { s.commit with sets := s.commit.sets ++ [{ changes := [c], due := some (commitFrame s) }] } }
  else applyChange c s

/-! ### Measurements (R292 to R296, R314) -/

/-- Realign to the media clock or to a time (R290, R312): Mladir's own request. -/
def ownRealign (target : Option Nat) (s : State) : State :=
  if isStandby s then s else ownChange true (.realign (extensionFor s (commitFrame s) target)) s

/-- A step is on its way to both engines. -/
def stepWaits (s : State) : Bool :=
  s.commit.sets.any fun c => c.changes.any fun x => match x with | .timeStep _ _ => true | _ => false

/-- The first entry to LOCKED realigns the grid, when ALIGN_AT_LOCK is on (R290). -/
def lockRealign (was : Nat) (s : State) : State :=
  if s.time.state = 2 ∧ was ≠ 2 ∧ !s.clk.realigned then
    let s := { s with clk := { s.clk with realigned := true } }
    if s.clk.alignAtLock then ownRealign none s else s
  else s

/-- A measurement of the selected reference (R293): a source that gives the time ends UNSET (R286). In MANUAL it reaches
neither rate nor OFFSET (R296). -/
def servoMeasure (kind : Nat) (e : Int) (s : State) : State :=
  let was := s.time.state
  if was = 4 then { s with time := { s.time with offset := e } }
  else
    let sets := decide (kind = 0 ∨ kind = 3)
    match measured s kind e with
    | .step d =>
      let waits := stepWaits s
      let s := trackLock kind e s
      if waits then s else ownChange false (.timeStep d sets) s
    | .slew =>
      let s := if sets then { s with clk := { s.clk with unset := false } } else s
      lockRealign was (trackLock kind e (servoSlew kind e s))

/-! ### Identities and datasets (R298, R300) -/

/-- clockIdentity of a port: its MAC address with FFFE inside (R300). -/
def clockId (n : Nat) : Nat := portMac n / 2 ^ 24 * 2 ^ 40 + 0xFFFE * 2 ^ 24 + portMac n % 2 ^ 24
/-- Port identity: port number 1. -/
def portId (n : Nat) : Nat := clockId n * 65536 + 1

/-- clockClass (R300). -/
def clockClass (s : State) : Nat :=
  if !s.time.ptpCfg.traceable then 248
  else if s.time.state = 2 then 6
  else if s.time.state = 3 then
    if s.time.ptpCfg.holdoverLimit * 250000000 < s.clk.raw - s.time.hold.since then 52 else 7
  else 248

/-- The instance may lead (R300). -/
def mayLead (s : State) : Bool := s.time.ptpCfg.leaderCapable && (!s.sys.pairEn || s.pair.activeOut)

def ownRank (s : State) : List Nat :=
  [s.time.ptpCfg.priority1, clockClass s, Config.clockAccuracy, Config.clockVariance, s.time.ptpCfg.priority2]

/-- Lists of numbers in order, the first difference deciding. -/
def before : List Nat → List Nat → Bool
  | a :: as, b :: bs => if a = b then before as bs else decide (a < b)
  | _, _ => false

/-- One leader is better than another (BMCA): by dataset, then grandmaster; the same grandmaster by steps, then sender. -/
def Foreign.better (a b : Foreign) : Bool :=
  if a.gm = b.gm then before [a.steps, a.src] [b.steps, b.src] else before (a.rank ++ [a.gm]) (b.rank ++ [b.gm])

/-- An announce interval in RAW ticks. -/
def announceTicks (s : State) : Nat :=
  let l := s.time.ptpCfg.logAnnounce
  if 0 ≤ l then 250000000 * 2 ^ l.toNat else 250000000 / 2 ^ (-l).toNat

/-- A leader counts once two of its announces came within four intervals (BMCA). -/
def Foreign.counts (s : State) (f : Foreign) : Bool :=
  match f.prev with
  | some p => decide (f.last ≤ p + 4 * announceTicks s) && decide (s.clk.raw ≤ f.last + 4 * announceTicks s)
  | none => false

def bestForeign (s : State) (x : Ptp) : Option Foreign :=
  (x.foreign.filter (Foreign.counts s)).foldl (fun b f => match b with
    | none => some f
    | some g => if f.better g then some f else some g) none

def ptpOf (s : State) (n : Nat) : Ptp := Tbl.getD s.time.ptp n {}
def putPtp (n : Nat) (x : Ptp) (s : State) : State := { s with time := { s.time with ptp := Tbl.put s.time.ptp n x } }

/-- The instance leaves SLAVE state: its candidate disqualifies (R303). -/
def leaveSlave (n : Nat) (s : State) : State :=
  setCand n (fun c => { c with signal := false }) (putPtp n { ptpOf s n with slave := false } s)

/-- The role that the BMCA decides (R298, R300): a leader that becomes another, or none, ends the exchanges in hand. -/
def decideRole (n : Nat) (timeout : Bool) (s : State) : State :=
  let x := ptpOf s n
  let best := bestForeign s x
  let own : Foreign := { src := portId n, gm := clockId n, rank := ownRank s, steps := 0 }
  let role := match best with
    | none => if mayLead s ∧ (timeout ∨ x.role = 2) then 2 else if x.role = 1 ∧ !timeout then 1 else 0
    | some b =>
      if !mayLead s then 1
      else if own.better b then 2
      else if clockClass s ≤ 127 then 3
      else 1
  let leader := if role = 1 then (best.map (·.src)).or x.leader else none
  let gm := if role = 1 then (best.map (·.gm)).or x.gm else none
  if role = x.role ∧ leader = x.leader then putPtp n { x with gm := gm } s
  else
    let s := putPtp n { x with role := role, leader := leader, gm := gm, await := none, ms := none, sm := none, req := none, resp := none, delays := [] } s
    if x.slave then leaveSlave n s else s

/-! ### Messages as bytes (Annex C, log entry 14) -/

/-- A message: type, flags, correction, sequence number, control, log interval, body. -/
def ptpBytes (s : State) (n type flags : Nat) (corr : Int) (seq control : Nat) (logInt : Int) (body : List Byte) : List Byte :=
  be 1 type ++ be 1 0x12 ++ be 2 (34 + body.length) ++ be 1 s.time.ptpCfg.domain ++ be 1 0 ++ be 2 flags ++
    be 8 (Fx.toUnsigned 64 corr) ++ be 4 0 ++ be 10 (portId n) ++ be 2 seq ++ be 1 control ++ be 1 (Fx.toUnsigned 8 logInt) ++ body

/-- A PTP time stamp of a time in ns. -/
def stampBytes (ns : Nat) : List Byte := be 6 (ns / 1000000000) ++ be 4 (ns % 1000000000)

/-- Send a message over UDP: event port 319 or general port 320, multicast or to one address (R298). -/
def sendPtp (n : Nat) (event : Bool) (to_ : Nat) (bs : List Byte) (s : State) : State :=
  let x := netOf s n
  let p := if event then 319 else 320
  let mac := if isMulticast to_ then groupMac to_ else Config.neighbourMac to_
  sendQueued n 7 (etherFrame mac (portMac n) x.cfg.vlan (classPcp s 0) 0x0800
    (ipPacket x.cfg.ip to_ 17 (classDscp s 0) (if isMulticast to_ then 1 else x.cfg.ttl) [] (udpPacket x.cfg.ip to_ p p bs))) s

/-- The PTP group (R298). -/
def ptpGroup : Nat := 0xE0000181

/-- The time of a stamp: the time reading with 1 ns resolution (R301), in 2^−16 ns. -/
def stampNow (s : State) : Int := (s.clk.full : Int) * 65536

/-! ### Exchanges (R301, R316) -/

/-- The path asymmetry of a port, in 2^−16 ns. -/
def asymOf (s : State) (n : Nat) : Int := s.time.ptpCfg.asym.getD n 0 * 65536

/-- A usable exchange: the instance is in SLAVE state, and its candidate, when selected, is measured. Three jumps beyond
the step threshold within 60 s disqualify it (R316). -/
def usable (n : Nat) (e : Int) (s : State) : State :=
  let x := ptpOf s n
  let s := putPtp n { x with slave := true } s
  let s := setCand n (fun c => { c with signal := true }) s
  let s := if conditionStands s (Src.ptp n) K.refLoss then endCondition (Src.ptp n) K.refLoss 2 s else s
  if s.time.sel ≠ some n then s
  else
    let e := e - s.time.bias * 65536
    let jump := decide (s.time.stepThr ≠ 0 ∧ (s.time.stepThr : Int) * 65536 < (e.natAbs : Int))
    let x := ptpOf s n
    let jumps := if jump then s.clk.raw :: x.jumps.filter fun t => decide (s.clk.raw < t + msTicks 60000) else x.jumps
    let s := servoMeasure 0 e (putPtp n { x with jumps := if 3 ≤ jumps.length then [] else jumps } s)
    if jump ∧ 3 ≤ jumps.length then
      setCand n (fun c => { c with signal := false }) (reportLimited (Src.ptp n) K.ptpUnstable 2 0 0 s)
    else s

/-- An exchange is complete: t2 − t1 and the path delay give the offset (R301). -/
def exchange (n : Nat) (s : State) : State :=
  let x := ptpOf s n
  match x.ms, x.delays with
  | some ms, d :: _ =>
    let least := x.delays.foldl min d
    -- an exchange whose delay exceeds the minimum by more than 1 µs is discarded
    if least + 65536000 < d then putPtp n { x with ms := none } s
    else usable n (ms - asymOf s n - least) (putPtp n { x with ms := none } s)
  | _, _ => s

/-- A path delay joins the last 16 (R301). -/
def noteDelay (n : Nat) (d : Int) (s : State) : State := putPtp n { ptpOf s n with delays := (d :: (ptpOf s n).delays).take 16 } s

/-- t2 − t1 of a Sync: with the latest t4 − t3 it gives the end-to-end path delay. -/
def syncTimes (n : Nat) (ms : Int) (s : State) : State :=
  let x := ptpOf s n
  let s := putPtp n { x with ms := some ms, await := none } s
  match s.time.ptpCfg.p2p, x.sm with
  | false, some sm => exchange n (noteDelay n ((ms - asymOf s n + sm) / 2) s)
  | true, _ => exchange n s
  | false, none => s

/-- An announce (R298, R316): the leader is heard; a grandmaster that changes is logged; UTC offset and leap flags are
learnt from the leader followed (R286). -/
def announceIn (n : Nat) (f : Foreign) (s : State) : State :=
  let x := ptpOf s n
  let prev := (x.foreign.find? fun g => g.src = f.src).map (·.last)
  let f := { f with last := s.clk.raw, prev := prev }
  let changed : Bool := x.role = 1 && decide (x.leader = some f.src) && (match x.gm with | some g => decide (g ≠ f.gm) | none => false)
  let s := putPtp n { x with foreign := f :: (x.foreign.filter fun g => g.src ≠ f.src).take 7 } s
  let s := if changed then reportLimited (Src.ptp n) K.ptpGmChange 1 0 0 s else s
  let s := decideRole n false s
  if (ptpOf s n).role = 1 ∧ (ptpOf s n).leader = some f.src ∧ (s.time.sel = some n ∨ s.time.sel = none) then
    { s with clk := { s.clk with utcOffset := f.utcOffset, leap59 := f.leap59, leap61 := f.leap61 } }
  else s

/-- A dataset of a management answer (R298): what is a setting here, then fields that the manual leaves open. -/
def datasetOf (s : State) (n target : Nat) : Option (List Byte) :=
  if target = 0x2000 then
    some (be 1 0x01 ++ be 1 0 ++ be 2 1 ++ be 1 s.time.ptpCfg.priority1 ++ be 1 (clockClass s) ++ be 1 Config.clockAccuracy ++
      be 2 Config.clockVariance ++ be 1 s.time.ptpCfg.priority2 ++ be 8 (clockId n) ++ be 1 s.time.ptpCfg.domain ++ be 1 0)
  else if target = 0x2001 ∨ target = 0x2002 ∨ target = 0x2003 then some (Config.ptpDataset target)
  else none

/-- A management message (R298): GET of the four datasets is answered, all else NOT_SUPPORTED. -/
def managementIn (n src seq action target : Nat) (s : State) : State :=
  let head := be 10 src ++ be 1 0 ++ be 1 0 ++ be 1 2 ++ be 1 0
  let tlv := match (if action = 0 then datasetOf s n target else none) with
    | some d => be 2 1 ++ be 2 (2 + d.length) ++ be 2 target ++ d
    | none => be 2 2 ++ be 2 8 ++ be 2 6 ++ be 2 target ++ be 4 0
  sendPtp n false ptpGroup (ptpBytes s n 13 0 0 seq 4 127 (head ++ tlv)) s

/-- Answer a delay request as leader (R298), and a peer delay request in two steps. -/
def delayReqIn (n src seq : Nat) (s : State) : State :=
  if (ptpOf s n).role = 2 ∧ !s.time.ptpCfg.p2p then
    sendPtp n false ptpGroup (ptpBytes s n 9 0 0 seq 3 s.time.ptpCfg.logDelayReq (stampBytes s.clk.full ++ be 10 src)) s
  else s

def pdelayReqIn (n src seq : Nat) (s : State) : State :=
  if s.time.ptpCfg.p2p then
    let s := sendPtp n true ptpGroup (ptpBytes s n 3 0x0200 0 seq 5 127 (stampBytes s.clk.full ++ be 10 src)) s
    sendPtp n false ptpGroup (ptpBytes s n 10 0 0 seq 5 127 (stampBytes s.clk.full ++ be 10 src)) s
  else s

/-- The request in hand is the one that an answer names. -/
def answersReq (n seq requester : Nat) (s : State) : Option Int :=
  match (ptpOf s n).req with
  | some (q, t) => if q = seq ∧ requester = portId n then some t else none
  | none => none

/-- A peer delay: half of t4 − t1 less the peer's turnaround. -/
def peerDelay (n : Nat) (t1 t4 turn corr : Int) (s : State) : State :=
  noteDelay n ((t4 - t1 - turn - corr) / 2) (putPtp n { ptpOf s n with req := none, resp := none } s)

/-- A message of the leader followed. -/
def fromLeader (n src : Nat) (s : State) : Bool := decide ((ptpOf s n).role = 1) && decide ((ptpOf s n).leader = some src)

/-- A Sync interval in 2^−16 ns. -/
def syncInterval (s : State) : Int :=
  let l := s.time.ptpCfg.logSync
  if 0 ≤ l then 65536000000000 * 2 ^ l.toNat else 65536000000000 / 2 ^ (-l).toNat

/-- A two-step Sync that no Follow_Up has met within one Sync interval, or until the next Sync: its exchange is discarded
(R316). -/
def dropAwait (n : Nat) (again : Bool) (s : State) : State :=
  match (ptpOf s n).await with
  | some (_, t2, _) =>
    if again || decide (syncInterval s < stampNow s - t2) then
      reportLimited (Src.ptp n) K.ptpFollowup 0 0 0 (putPtp n { ptpOf s n with await := none } s)
    else s
  | none => s

/-- PTP messages (R298, R301, R316). -/
def ptpIn (n : Nat) (m : PtpMsg) (s : State) : State :=
  let s := dropAwait n false s
  let x := ptpOf s n
  let now := stampNow s
  match m with
  | .bad => reportLimited (Src.ptp n) K.ptpRxBad 0 0 0 s
  | .announce src gm p1 cls acc var p2 steps utc l59 l61 =>
    announceIn n { src := src, gm := gm, rank := [p1, cls, acc, var, p2], steps := steps, utcOffset := utc, leap59 := l59, leap61 := l61 } s
  | .syncMsg src seq two t1 corr =>
    if !fromLeader n src s then s
    else
      let s := dropAwait n true s
      if two then putPtp n { ptpOf s n with await := some (seq, now, corr) } s
      else syncTimes n (now - t1 * 65536 - corr) s
  | .followUp src seq t1 corr =>
    match x.await with
    | some (q, t2, c) => if fromLeader n src s ∧ q = seq then syncTimes n (t2 - t1 * 65536 - c - corr) s else s
    | none => s
  | .delayReq src seq => delayReqIn n src seq s
  | .delayResp src seq q t4 corr =>
    match answersReq n seq q s with
    | some t3 => if fromLeader n src s then putPtp n { x with req := none, sm := some (t4 * 65536 - t3 - corr) } s else s
    | none => s
  | .pdelayReq src seq => pdelayReqIn n src seq s
  | .pdelayResp _ seq q two t2 corr =>
    match answersReq n seq q s with
    | some t1 =>
      if two then putPtp n { x with resp := some (seq, t2 * 65536, corr, now) } s
      else peerDelay n t1 now 0 corr s
    | none => s
  | .pdelayFollowUp _ seq q t3 corr =>
    match answersReq n seq q s, x.resp with
    | some t1, some (q2, t2, c, t4) => if q2 = seq then peerDelay n t1 t4 (t3 * 65536 - t2) (c + corr) s else s
    | _, _ => s
  | .management src seq action target => managementIn n src seq action target s

/-! ### Sending (R299, R300) -/

/-- Announce of a leader, with the ST 2059-2 metadata under that profile. -/
def sendAnnounce (n : Nat) (s : State) : State :=
  let x := ptpOf s n
  let c := s.time.ptpCfg
  let trace := decide (clockClass s = 6 ∨ clockClass s = 7)
  let flags := Fx.b2n s.clk.leap61 + 2 * Fx.b2n s.clk.leap59 + 8 * Fx.b2n (!s.clk.unset) + 16 * Fx.b2n trace + 32 * Fx.b2n trace
  let body := stampBytes s.clk.full ++ be 2 (Fx.toUnsigned 16 s.clk.utcOffset) ++ be 1 0 ++ be 1 c.priority1 ++ be 1 (clockClass s) ++
    be 1 Config.clockAccuracy ++ be 2 Config.clockVariance ++ be 1 c.priority2 ++ be 8 (clockId n) ++ be 2 0 ++ be 1 Config.timeSource
  let s := sendPtp n false ptpGroup (ptpBytes s n 11 flags 0 x.seqAnn 5 c.logAnnounce body) s
  let s := if c.profile = 1 then
      sendPtp n false ptpGroup (ptpBytes s n 13 0 0 x.seqAnn 4 127
        (be 10 (2 ^ 80 - 1) ++ be 1 0 ++ be 1 0 ++ be 1 5 ++ be 1 0 ++ Config.smTlv s.clk.full)) s
    else s
  putPtp n { x with seqAnn := (x.seqAnn + 1) % 65536 } s

/-- Sync and its Follow_Up: two-step only as leader (R298). -/
def sendSync (n : Nat) (s : State) : State :=
  let x := ptpOf s n
  let l := s.time.ptpCfg.logSync
  let t := s.clk.full
  let s := sendPtp n true ptpGroup (ptpBytes s n 0 0x0200 0 x.seqSync 0 l (stampBytes 0)) s
  let s := sendPtp n false ptpGroup (ptpBytes s n 8 0 0 x.seqSync 2 l (stampBytes t)) s
  putPtp n { x with seqSync := (x.seqSync + 1) % 65536 } s

/-- The IPv4 address of the leader followed: unicast Delay_Req goes there; the manual resolves it by no rule (log entry
5). -/
def leaderAddr (x : Ptp) : Nat := Config.freeBits (x.leader.getD 0) % 2 ^ 32

/-- Delay_Req of a follower, multicast or unicast, or Pdelay_Req under peer-to-peer. -/
def sendDelayReq (n : Nat) (s : State) : State :=
  let x := ptpOf s n
  let t := stampNow s
  let c := s.time.ptpCfg
  let s := if c.p2p then sendPtp n true ptpGroup (ptpBytes s n 2 0 0 x.seqReq 5 127 (stampBytes 0 ++ List.replicate 10 0)) s
    else sendPtp n true (if c.unicast then leaderAddr x else ptpGroup)
      (ptpBytes s n 1 (if c.unicast then 0x0400 else 0) (-(asymOf s n)) x.seqReq 1 127 (stampBytes 0)) s
  putPtp n { x with seqReq := (x.seqReq + 1) % 65536, req := some (x.seqReq, t) } s

/-- An interval expires: 0 Sync and 1 Announce of a leader, 2 the delay request (R299). -/
def ptpInterval (n kind : Nat) (s : State) : State :=
  let s := dropAwait n false s
  let x := ptpOf s n
  if kind = 0 then (if x.role = 2 then sendSync n s else s)
  else if kind = 1 then (if x.role = 2 then sendAnnounce n s else s)
  else if kind = 2 then (if s.time.ptpCfg.p2p ∨ x.role = 1 then sendDelayReq n s else s)
  else s

end Sys2Proof.Machine
end

