-- ==== Sys2Proof/Machine/TimeCmds.lean ====
section
/-!
DEFINITION. The TIME and CLOCK commands (R317, R487) and the events of time (11): references and their qualification (R303
to R305), measurements (R292), holdover (R306 to R308), the oscillator (R282), wraps (R285), triggers (R311 to R313).
-/
namespace Sys2Proof.Machine
open Sys2Proof

def timeCmd (code : Nat) (expert : Bool) : Cmd := { code := code, reach := .shared, expert := expert, needs := some Fn.time }

/-! ### Reading -/

/-- Estimated time error in ns in HOLDOVER: a free value of the time since entry (R309; log entry 5); 0 otherwise. -/
def timeErrorEst (s : State) : Nat :=
  if s.time.state = 3 then Config.holdoverError ((s.clk.raw - s.time.hold.since) / 250000000) % 2 ^ 32 else 0

def candBytes (s : State) (c : Nat) : List Byte :=
  u8 (candState s c) ++ u8 (candOf s c).priority ++ u16 0 ++ u32 (candLeft s (candOf s c))

/-- TIME.STATUS (R317): the offset is OFFSET, in the units of TIME.DIRECT (log entry 39). -/
def execTimeStatus (r : Req) (s : State) : Host.Outcome State Fault Refusal :=
  serve { code := 0x0801 } r (fun _ s =>
    (s, done [] (u8 s.time.state ++ u8 (Fx.b2n s.clk.unset + 2 * Fx.b2n s.clk.aligned) ++ u8 (s.time.sel.getD 0xFF) ++ u8 0 ++
      u64 s.clk.offset ++ s64 s.clk.rate ++ s64 s.time.bias ++ s32 s.clk.alignErr ++ u32 (timeErrorEst s) ++ u32 s.time.steps ++
      (List.range 11).flatMap (candBytes s)))) s

/-- TIME.NOW (R317). -/
def execTimeNow (r : Req) (s : State) : Host.Outcome State Fault Refusal :=
  serve { code := 0x0802 } r (fun _ s =>
    (s, done [] (ntNs s.clk.full ++ u32 s.clk.ns ++ u32 s.clk.wraps ++ fnB s.sys.frameNo ++ u32 s.clk.boundaryNs))) s

/-! ### Setting the time (R295 to R297) -/

/-- A PTP follower or the partner is the selected reference (R295). -/
def timeHeld (s : State) : Bool := match s.time.sel with | some c => decide (c < 5 ∨ c = 10) | none => false

/-- TIME.SET (R295): the full time as a step. -/
def execTimeSet (r : Req) (at_ : NetTime) (s : State) : Host.Outcome State Fault Refusal :=
  serve (timeCmd 0x0803 false) r (fun r s =>
    if malformedTime at_ || isNextFrame at_ then badRequest s
    else if timeHeld s then (s, refuse St.conflict)
    else
      let d : Int := ((at_.sec * 1000000000 + at_.ns : Nat) : Int) * 65536 - s.clk.full16
      changeNow r 0x0803 [.timeStep d true] [] (fun _ => []) s) s

/-- Clamp a field wider than 32 bits: two records (R472). -/
def clampWide (field entry : Nat) (lo hi v : Int) : Int × List Clamp :=
  let a := Fx.clamp lo hi v
  if a = v then (a, [])
  else
    let low := fun (x : Int) => Fx.toSigned 32 (x % 2 ^ 32).toNat
    let high := fun (x : Int) => Fx.toSigned 32 (x / 2 ^ 32 % 2 ^ 32).toNat
    (a, [{ field := field, entry := entry, requested := low v, applied := low a },
         { field := field + 4, entry := entry, requested := high v, applied := high a }])

/-- TIME.DIRECT (R296): 0 RELEASE, 1 rate, 2 OFFSET, 3 both. A write of OFFSET is a step by the written difference, and
sets the time (R286). -/
def execTimeDirect (r : Req) (op : Nat) (rate : Int) (offset : Nat) (s : State) : Host.Outcome State Fault Refusal :=
  serve (timeCmd 0x080B true) r (fun r s =>
    if 3 < op then (s, refuse St.conflict)
    else if op = 0 then changeNow r 0x080B [.manual false] [] (fun _ => []) s
    else if 2 ≤ op ∧ 2 ^ 48 ≤ offset then badRequest s
    else
      let (v, cl) := if op = 2 then (0, []) else clampWide 1 0 (-549755813888) 549755813887 rate
      let cs : List Change := [.manual true] ++ (if op = 2 then [] else [.timeRate v]) ++
        (if op = 1 then [] else [.timeStep ((offset : Int) - s.clk.offset) true])
      changeNow r 0x080B cs cl (fun _ => []) s) s

/-- CLOCK.PHASE_STEP (R297): 0 SLEW, 1 IMMEDIATE, 2 RESET. -/
def execClockPhaseStep (r : Req) (mode : Nat) (amount : Int) (s : State) : Host.Outcome State Fault Refusal :=
  serve (timeCmd 0x080C true) r (fun r s =>
    if 2 < mode then (s, refuse St.conflict)
    else
      let (v, cl) := if mode = 2 then (0, []) else clampField 1 0 (-1000000000) 1000000000 amount
      let bias := if mode = 2 then 0 else s.time.bias + v
      let cs : List Change := [.bias bias] ++ (if mode = 1 then [.timeStep (v * 65536) false] else [])
      changeNow r 0x080C cs cl (fun s => s64 s.time.bias) s) s

/-! ### References, PTP, servo (R294, R299, R303) -/

/-- TIME.REFERENCES (R303). -/
def execTimeReferences (r : Req) (op : Nat) (cands : List RefFields) (port : Nat) (s : State) : Host.Outcome State Fault Refusal :=
  serve { code := 0x0804 } r (fun r s =>
    match (if op = 1 then gate (some Fn.time) s else none) with
    | some e => (s, e)
    | none =>
      sharedSetting r 0x0804 op (fun _ =>
        if cands.length ≠ 11 then .error (refuse St.badLen)
        else if 96 ≤ port then .error (refuse St.conflict)
        else
          let xs := (cands.zip (List.range 11)).map fun (c, i) =>
            let (p, a) := clampField (1 + 6 * i) i 0 16 c.priority
            let (w, b) := clampField (3 + 6 * i) i 1 600 c.window
            let (t, d) := clampField (5 + 6 * i) i 10 3600 c.restore
            ((p.toNat, w.toNat, t.toNat), a ++ b ++ d)
          .ok ([.refs (xs.map (·.1)) port], xs.flatMap (·.2)))
        (fun s => ((List.range 11).flatMap fun i =>
          let c := candOf s i
          u8 c.priority ++ u8 0 ++ u16 c.window ++ u16 c.restore) ++ u8 s.time.sapPort) s) s

/-- The PTP settings that a request asks for, with their clamps (R299, R301). -/
def planPtp (f : PtpFields) : PtpCfg × List Clamp :=
  let (dom, c1) := clampField 3 0 0 127 f.domain
  let (ls, c2) := clampField 4 0 (-7) 1 f.logSync
  let (la, c3) := clampField 5 0 (-3) 4 f.logAnnounce
  let (to_, c4) := clampField 6 0 2 10 f.announceTimeout
  let (ld, c5) := clampField 7 0 (-7) 5 f.logDelayReq
  let asym := (f.asym.zip (List.range 5)).map fun (v, i) => clampField (17 + 4 * i) i (-100000) 100000 v
  ({ ports := f.ports, profile := f.profile, domain := dom.toNat, logSync := ls, logAnnounce := la, announceTimeout := to_.toNat
     logDelayReq := ld, priority1 := f.priority1, priority2 := f.priority2, p2p := decide (f.mechanism = 1)
     leaderCapable := decide (f.role = 1), unicast := Fx.bit f.flags 0, traceable := Fx.bit f.flags 1
     holdoverLimit := f.holdoverLimit, asym := asym.map (·.1) },
   c1 ++ c2 ++ c3 ++ c4 ++ c5 ++ asym.flatMap (·.2))

/-- PTP settings as bytes (R487). -/
def ptpCfgBytes (c : PtpCfg) : List Byte :=
  u8 c.ports ++ u8 c.profile ++ u8 c.domain ++ s8 c.logSync ++ s8 c.logAnnounce ++ u8 c.announceTimeout ++ s8 c.logDelayReq ++
    u8 c.priority1 ++ u8 c.priority2 ++ u8 (Fx.b2n c.p2p) ++ u8 (Fx.b2n c.leaderCapable) ++
    u8 (Fx.b2n c.unicast + 2 * Fx.b2n c.traceable) ++ u32 c.holdoverLimit ++ c.asym.flatMap s32

/-- TIME.PTP (R299). -/
def execTimePtp (r : Req) (op : Nat) (fields : PtpFields) (s : State) : Host.Outcome State Fault Refusal :=
  serve { code := 0x0805 } r (fun r s =>
    match (if op = 1 then gate (some Fn.time) s else none) with
    | some e => (s, e)
    | none =>
      if op = 1 ∧ 4 ≤ fields.flags then badRequest s
      else
        sharedSetting r 0x0805 op (fun _ =>
          if 32 ≤ fields.ports ∨ 1 < fields.profile ∨ 1 < fields.mechanism ∨ 1 < fields.role then .error (refuse St.conflict)
          else
            let (c, cl) := planPtp fields
            .ok ([.ptp c], cl)) (fun s => ptpCfgBytes s.time.ptpCfg) s) s

/-- TIME.SERVO (R294): a step threshold of 0 never steps; raw gains of 0 are derived. -/
def execTimeServo (r : Req) (op : Nat) (fields : ServoFields) (s : State) : Host.Outcome State Fault Refusal :=
  serve { code := 0x080A, expert := true } r (fun r s =>
    match (if op = 1 then gate (some Fn.time) s else none) with
    | some e => (s, e)
    | none =>
      sharedSetting r 0x080A op (fun _ =>
        let (th, c1) := if fields.stepThr = 0 then (0, []) else clampField 1 0 1000 1000000000 fields.stepThr
        let (sl, c2) := clampField 5 0 10 10000 fields.slope
        let bw := (fields.bw.zip (List.range 4)).map fun (v, i) => clampField (9 + 4 * i) i 1 10000 v
        let (dm, c3) := clampField 25 0 50 200 fields.damping
        let (al, c4) := clampField 61 0 100 10000 fields.alignTol
        let (av, c5) := clampField 65 0 60 86400 fields.avgWindow
        let gains : List Int := fields.gains.flatMap fun g => [(g.1 : Int), (g.2 : Int)]
        .ok ([.setting 0x080A ([th, sl] ++ bw.map (·.1) ++ [dm] ++ gains ++ [al, av])],
             c1 ++ c2 ++ bw.flatMap (·.2) ++ c3 ++ c4 ++ c5))
        (fun s => u32 s.time.stepThr ++ u32 s.time.slope ++ s.time.bw.flatMap u32 ++ s32 s.time.damping ++
          (s.time.raw.flatMap fun g => u32 g.1 ++ u32 g.2) ++ u32 s.time.alignTol ++ u32 s.time.avgWindow) s) s

/-! ### Triggers (R310) -/

/-- The trigger that TIME.TRIGGER asks for, with its clamps, or the refusal. -/
def planTrigger (n : Nat) (f : TriggerFields) (time : Nat) (s : State) : Except Reply (TrigCfg × List Clamp) :=
  let pulse := decide (f.action = 0)
  let taken := s.time.trig.any fun e => decide (e.1 ≠ n) &&
    (match e.2.cfg.or e.2.waiting with | some c => decide (c.action = 0) && decide (c.pin = f.pin) | none => false)
  if 3 < f.action ∨ 1 < f.polarity ∨ (pulse ∧ (7 < f.pin ∨ taken)) then .error (refuse St.conflict)
  else
    let (per, c1) := if f.period = 0 then (0, []) else clampWide 18 0 1000 3600000000000 f.period
    let top := if per = 0 then 1000000000 else min 1000000000 ((per - 8) / 4 * 4)
    let (wd, c2) := if pulse then clampStep 26 0 8 top 4 f.width else (1000, [])
    .ok ({ time := time, period := per.toNat, action := f.action, pin := f.pin, low := decide (f.polarity = 1), width := wd.toNat }, c1 ++ c2)

/-- TIME.TRIGGER (R310, R313): 0 cancels, 1 arms or rewrites. -/
def execTimeTrigger (r : Req) (trigger op : Nat) (fields : TriggerFields) (s : State) : Host.Outcome State Fault Refusal :=
  serve (timeCmd 0x0806 false) r (fun r s =>
    if 16 ≤ trigger then (s, refuse St.noResource)
    else if 1 < op then (s, refuse St.conflict)
    else if op = 0 then changeNow r 0x0806 [.trigger trigger none] [] (fun _ => u8 0) s
    else withTime fields.time (fun t r s =>
      match planTrigger trigger fields (baseTime s t) s with
      | .error e => (s, e)
      | .ok (c, cl) => changeNow r 0x0806 [.trigger trigger (some c)] cl (fun _ => u8 1) s) r s) s

/-! ### Holdover models, outputs, realignment (R290, R291, R308) -/

/-- TIME.HOLDOVER (R308): 0 reads; at the expert level 1 writes, 2 clears. Models are local (R325). -/
def execTimeHoldover (r : Req) (op : Nat) (coeffs : List Int) (s : State) : Host.Outcome State Fault Refusal :=
  serve { code := 0x0807, reach := .here } r (fun r s =>
    let report := fun (s : State) =>
      let h := s.time.hold
      let days := match h.epoch with | some e => (modelSec s - e) / 86400 | none => 0
      [h.c1, h.c2, h.c3, h.a, h.b].flatMap s64 ++ u8 h.state ++ u32 days ++ u8 h.sensor
    if 2 < op then (s, refuse St.conflict)
    else if op = 0 then (s, done [] (report s))
    else if !Fx.bit (slotOf s r.slot).rights 1 then (s, refuse St.denied)
    else if !isReady s Fn.time then (s, refuse St.notReady (reason 0x09 Fn.time))
    else
      let h := s.time.hold
      let h := if op = 2 then { h with c1 := 0, c2 := 0, c3 := 0, a := 0, b := 0, state := 0, epoch := none, recs := [] }
        else
          { h with
            c1 := coeffs.getD 0 0, c2 := coeffs.getD 1 0, c3 := coeffs.getD 2 0, a := coeffs.getD 3 0, b := coeffs.getD 4 0, state := 3
            epoch := some (h.epoch.getD (modelSec s)) }
      let s := { s with time := { s.time with hold := h } }
      (s, done [] (report s))) s

/-- CLOCK.OUTPUTS (R291). -/
def execClockOutputs (r : Req) (op w0 w1 pps width : Nat) (s : State) : Host.Outcome State Fault Refusal :=
  serve { code := 0x0809 } r (fun r s =>
    match (if op = 1 then gate (some Fn.time) s else none) with
    | some e => (s, e)
    | none =>
      sharedSetting r 0x0809 op (fun _ =>
        if 2 < w0 ∨ 2 < w1 ∨ 1 < pps then .error (refuse St.conflict)
        else
          let (us, cl) := clampField 4 0 1 500000 width
          .ok ([.setting 0x0809 [w0, w1, pps, us]], cl))
        (fun s => u8 s.time.wclk0 ++ u8 s.time.wclk1 ++ u8 (Fx.b2n s.time.pps) ++ u32 s.time.ppsUs) s) s

/-- CLOCK.REALIGN (R290): 0 realigns at the boundary; 1 and 2 set ALIGN_AT_LOCK, and their response gives zeros. -/
def execClockRealign (r : Req) (op : Nat) (s : State) : Host.Outcome State Fault Refusal :=
  serve (timeCmd 0x0808 false) r (fun r s =>
    if 2 < op then (s, refuse St.conflict)
    else if op ≠ 0 then changeNow r 0x0808 [.setting 0x0808 [(op : Int) - 1]] [] (fun _ => u32 0 ++ u16 0 ++ fnB 0) s
    else
      let f := commitFrame s
      let ns := extensionFor s f none
      let data := u32 ns ++ u16 (skippedCounts s ns)
      if forwards s then
        let a : Answer := { code := 0x0808, slot := r.slot, seq := r.seq, fnLast := true, data := data }
        (forward r { changes := [.realign ns], answer := some a } [] [.realign ns] none s, { later := true })
      else
        ({ s with commit := { s.commit with sets := s.commit.sets ++ [{ changes := [.realign ns], due := some f }] } },
         done [] (data ++ fnB f))) s

/-! ### Events: measurements (R292, R301, R316) -/

/-- PTP_EVENT_MESSAGE. -/
def execPtpEventMessage (net : Nat) (msg : PtpMsg) (s : State) : Host.Outcome State Fault Refusal :=
  .next (if Tbl.has s.time.ptp net && (netOf s net).up then ptpIn net msg s else s)

/-- PTP_MESSAGE_INTERVAL (R299). -/
def execPtpMessageInterval (net kind : Nat) (s : State) : Host.Outcome State Fault Refusal :=
  .next (if Tbl.has s.time.ptp net && (netOf s net).up then ptpInterval net kind s else s)

/-- e of a second phase, within ±0.5 s (R292). -/
def secondPhase (v : Int) : Int :=
  let p : Int := 65536000000000
  let r := v % p
  if p < 2 * r then r - p else r

/-- PPS_IN_PULSE (R292, R303, R316): a pulse 1 s ± 1 ms after the last; one missing pulse between is not yet a loss. -/
def execPpsInPulse (s : State) : Host.Outcome State Fault Refusal :=
  let good : Bool := match s.time.ppsAt with
    | none => true
    | some t =>
      let d := s.clk.raw - t
      [1, 2].any fun k => decide (k * 250000000 ≤ d + 250000) && decide (d ≤ k * 250000000 + 250000)
  .next (
    if !good then reportLimited Src.clock K.refPps 1 5 0 s
    else
      let first := s.time.ppsAt.isNone
      let s := { s with time := { s.time with ppsAt := some s.clk.raw } }
      let s := if first then s else setCand 5 (fun c => { c with signal := true }) s
      if s.time.sel = some 5 then servoMeasure 1 (secondPhase (s.clk.full16 - s.time.bias * 65536)) s else s)

/-- e of a sample phase, within half a sample period (R292). -/
def samplePhase (s : State) (v : Int) : Int :=
  let p : Int := 65536000000000 / fsNow s
  let r := v % p
  if p < 2 * r then r - p else r

/-- PHASE_AVERAGE_INTERVAL (R292): the average phase of a reference's edges over 1/16 s, in 2^−16 ns; edges that were
missing or out of shape are ignored and logged (R316). -/
def execPhaseAverageInterval (cand : Nat) (phase : Int) (missing : Bool) (s : State) : Host.Outcome State Fault Refusal :=
  .next (
    if cand < 6 ∨ 9 < cand then s
    else
      let s := advanceToCount (nextMultiple s 62500000) s
      let s := if missing then reportLimited Src.clock K.refLoss 2 cand 0 s else s
      if s.time.sel = some cand then servoMeasure 2 (samplePhase s (phase - s.time.bias * 65536)) s else s)

/-! ### Events: candidates (R303, R304) -/

/-- REFERENCE_TIMEOUT (R303, R316): of a PTP instance the announce timeout, or 8 Sync intervals without a usable
exchange; of another candidate, missing edges or pulses. -/
def execReferenceTimeout (cand : Nat) (announce : Bool) (s : State) : Host.Outcome State Fault Refusal :=
  .next (
    if 9 < cand then s
    else if cand < 5 then
      if !Tbl.has s.time.ptp cand then s
      else
        let s := if (candOf s cand).valid then reportLimited (Src.ptp cand) K.refLoss 2 0 0 s else s
        if announce then
          let x := ptpOf s cand
          decideRole cand true (putPtp cand { x with foreign := [], leader := none, gm := none } s)
        else leaveSlave cand s
    else
      let s := if (candOf s cand).valid ∧ 6 ≤ cand then reportLimited Src.clock K.refLoss 2 cand 0 s else s
      let s := if cand = 5 then { s with time := { s.time with ppsAt := none } } else s
      setCand cand (fun c => { c with signal := false }) s)

/-- FREQUENCY_MONITOR (R303, R304, R316): a candidate's signal against XO_IN. A PTP instance's validity is its SLAVE
state; pulses make candidate 5. -/
def execFrequencyMonitor (cand : Nat) (present inRange : Bool) (s : State) : Host.Outcome State Fault Refusal :=
  .next (
    if 9 < cand then s
    else
      let x := candOf s cand
      let s := if !inRange ∧ !x.outOfRange then report Src.clock K.refFreq 2 cand 0 s else s
      setCand cand (fun c => { c with outOfRange := !inRange, signal := if 6 ≤ cand then present else c.signal }) s)

/-- QUALIFICATION_EXPIRY (R304): a candidate that had disqualified now waits to restore. -/
def execQualificationExpiry (cand : Nat) (s : State) : Host.Outcome State Fault Refusal :=
  let x := candOf s cand
  .next (
    if 9 < cand ∨ !x.valid ∨ x.qualified then s
    else
      let s := advanceTo (x.since + x.window * 250000000) s
      let s := putCand cand { x with
        qualified := true, waiting := x.dropped, qualAt := s.clk.raw, since := if x.dropped then s.clk.raw else x.since } s
      selectRefs s)

/-- REF_WAIT_TO_RESTORE_EXPIRY (R304). -/
def execRefWaitToRestoreExpiry (cand : Nat) (s : State) : Host.Outcome State Fault Refusal :=
  let x := candOf s cand
  .next (if 9 < cand ∨ !x.waiting then s
    else selectRefs (putCand cand { x with waiting := false } (advanceTo (x.since + x.restore * 250000000) s)))

/-! ### Events: holdover (R306 to R308) -/

/-- HOLDOVER_SECOND (R306). -/
def execHoldoverSecond (s : State) : Host.Outcome State Fault Refusal :=
  .next (
    if s.time.state ≠ 3 then s
    else
      let s := advanceTo ((rawSec s + 1) * 250000000) s
      if s.time.hold.keep then s else setRate (holdoverRate s) s)

/-- TEMPERATURE_READ (R307): source 0 the on-chip sensor in 0.01 °C, 1 the I²C sensor in 1/256 °C, 2 the I²C sensor does
not acknowledge and the value is the on-chip sensor's. While LOCKED, the rate history takes the second (R306). -/
def execTemperatureRead (source : Nat) (value : Int) (s : State) : Host.Outcome State Fault Refusal :=
  let h := s.time.hold
  let fails := if source = 2 then h.fails + 1 else 0
  let h := if source = 1 then { h with temp := Fx.roundAway (value * 100) 256, sensor := 1, fails := 0 }
    else if source = 2 ∧ fails < 3 then { h with fails := fails }
    else { h with temp := value, sensor := 0, fails := fails }
  let h := if s.time.state = 2 then
      { h with hist := (h.hist ++ [(⟨rawSec s, h.temp, s.clk.rate⟩ : HoldRec)]).drop (h.hist.length - 86409) }
    else h
  let s := { s with time := { s.time with hold := h } }
  .next (if source = 2 ∧ fails = 3 then report Src.clock K.timeSensor 1 0 0 s else s)

/-- A record joins those of the last 365 days, and the models are fitted again; a written model is kept (R308). -/
def Holdover.record (h : Holdover) (r : HoldRec) : Holdover :=
  let old := h.recs.filter fun x => decide (r.sec - 365 * 86400 ≤ x.sec)
  let h : Holdover := { h with epoch := some (h.epoch.getD r.sec), recs := old ++ [r] }
  if h.state = 3 then h else fitAge (fitTemp { h with state := if h.state = 0 then 1 else h.state })

/-- MODEL_RECORD (R308): every 60 s while LOCKED to a candidate qualified for at least 1 h. -/
def execModelRecord (s : State) : Host.Outcome State Fault Refusal :=
  .next (match s.time.sel with
    | none => s
    | some c =>
      if s.time.state ≠ 2 ∨ s.clk.raw < (candOf s c).qualAt + msTicks 3600000 then s
      else
        let s := advanceTo ((s.clk.raw / msTicks 60000 + 1) * msTicks 60000) s
        { s with time := { s.time with hold := s.time.hold.record ⟨modelSec s, s.time.hold.temp, s.clk.rate⟩ } })

/-- The coefficients, epoch and rate into the boot flash (R308). -/
def storeModel (s : State) : State :=
  let h := s.time.hold
  match h.epoch with
  | none => s
  | some e => { s with time := { s.time with hold := { h with stored := some ([h.c1, h.c2, h.c3, h.a, h.b], e, s.clk.rate) } } }

/-- MODEL_STORE (R308). -/
def execModelStore (s : State) : Host.Outcome State Fault Refusal := .next (storeModel s)

/-! ### Events: the oscillator and the counter (R282, R285) -/

/-- The accepted frequencies of XO_IN in Hz, within ±100 ppm (R282). -/
def acceptedXo (hz : Nat) : Option Nat :=
  [10000000, 12288000, 24576000, 49152000].find? fun f => decide (f * 9999 ≤ hz * 10000) && decide (hz * 10000 ≤ f * 10001)

/-- The model stored in the boot flash comes into force at bring-up: rate takes its value (R293, R308). -/
def loadModel (s : State) : State :=
  match s.time.hold.stored with
  | none => s
  | some (k, e, _) =>
    let h := { s.time.hold with
      c1 := k.getD 0 0, c2 := k.getD 1 0, c3 := k.getD 2 0, a := k.getD 3 0, b := k.getD 4 0, epoch := some e
      state := if s.time.hold.state = 0 then 2 else s.time.hold.state }
    setRate (-(rateOf15 (yTemp h h.temp + yAge h (modelSec s)))) { s with time := { s.time with hold := h } }

/-- TIME_WRAP (R285): RAW reaches the first tick at which TIME_NS has passed to 0. -/
def execTimeWrap (s : State) : Host.Outcome State Fault Refusal :=
  .next (advanceToCount (s.clk.count + (2 ^ 48 - s.clk.reading : Nat)) s)

/-! ### Events: triggers (R311 to R313) -/

/-- What a firing does beside its report (R312): in a pair only the active engine's acts. -/
def trigAction (n : Nat) (c : TrigCfg) (at_ : Nat) (s : State) : State :=
  if s.sys.pairEn && !s.pair.activeOut then s
  else if c.action = 1 then ownChange false (.startPorts n) s
  else if c.action = 2 then ownRealign (some at_) s
  else s

/-- A trigger fires. -/
def fire (n : Nat) (s : State) : State :=
  match (trigOf s n).cfg with
  | none => s
  | some c => trigAction n c (trigOf s n).time (fireTrigger n s)

/-- TRIGGER_HANDOVER (R287, R311): at most 2.0 s ahead; a single firing that is past fires at once. -/
def execTriggerHandover (trigger : Nat) (s : State) : Host.Outcome State Fault Refusal :=
  let x := trigOf s trigger
  .next (
    if x.cfg.isNone ∨ x.handed ∨ !s.sys.mladirUp then s
    else
      let s := handTrigger trigger (advanceToTime (x.time - 2000000000) s)
      if (trigOf s trigger).late ∧ (trigOf s trigger).missed = 0 then fire trigger s else s)

/-- TRIGGER_FIRE (R311): the comparator's first tick at or after the time. -/
def execTriggerFire (trigger : Nat) (s : State) : Host.Outcome State Fault Refusal :=
  let x := trigOf s trigger
  .next (if x.cfg.isSome && x.handed then fire trigger (advanceToTime x.time s) else s)

/-- TRIGGER_PULSE_END (R311, R313): the trailing edge; a rewrite that waited is armed. -/
def execTriggerPulseEnd (trigger : Nat) (s : State) : Host.Outcome State Fault Refusal :=
  let x := trigOf s trigger
  .next (match x.pulseEnd with
    | none => s
    | some t =>
      let s := advanceTo t s
      match x.waiting with
      | some c => putTrig trigger { cfg := some c, time := c.time } s
      | none =>
        if x.cfg.isNone then { s with time := { s.time with trig := Tbl.erase s.time.trig trigger } }
        else putTrig trigger { x with pulseEnd := none } s)

end Sys2Proof.Machine
end

