-- ==== Sys2Proof/Machine/ConfigImage.lean ====
section
/-!
DEFINITION. The committed configuration: the image that the pairing handshake hashes (R325, R489), and the sections in
which the source sends it to the joiner (R324): page contents and changes, in the form in which COMMAND carries them
(log entry 10).
-/
namespace Sys2Proof.Machine
open Sys2Proof

/-! ### The image (R489) -/

/-- A section of the image. -/
def imageSection (type : Nat) (body : List Byte) : List Byte := u16 type ++ u16 0 ++ u32 body.length ++ body

/-- Active pages whose content is not their reset content. -/
def filledPages (s : State) : Tbl PageRec := s.page.active.filter fun e => !e.2.isEmpty

/-- The request bodies of PORT.CONFIG, PORT.ENABLE and PORT.CLKGEN (R485). -/
def portBody (s : State) (p : Nat) : List Byte :=
  let c := portCfg s p
  u8 p ++ u8 c.format ++ u8 c.width ++ u8 c.slots ++ u8 (Fx.b2n c.master) ++ u8 c.gen ++ u8 c.rate ++
    u8 (Fx.b2n c.bclkInv + 2 * Fx.b2n c.fsyncInv + 4 * Fx.b2n c.noDelay + 8 * Fx.b2n c.hiZ)

def portDirs (s : State) (p : Nat) : Nat := Fx.b2n (portOf s p).inOn + 2 * Fx.b2n (portOf s p).outOn

def genBody (s : State) (g : Nat) : List Byte :=
  let c := Tbl.getD s.port.pcg g {}
  u8 g ++ u16 c.n ++ u16 c.d ++ u16 c.len ++ u8 c.phase ++ u8 c.start

/-- The request bodies of STREAM.TX and STREAM.RX, without SDP (R486). -/
def streamHead (id : Nat) (c : StreamCfg) : List Byte :=
  u16 id ++ u16 c.first ++ u8 c.channels ++ u8 c.enc ++ u8 c.ptime ++ u8 c.ptype

def txBody (id : Nat) (c : StreamCfg) : List Byte :=
  streamHead id c ++ u32 c.offset ++ u32 c.ssrc ++ u8 c.paths.length ++
    c.paths.flatMap fun p => u8 p.port ++ u8 0 ++ u16 p.udp ++ u32 p.dst

def rxBody (id : Nat) (c : StreamCfg) : List Byte :=
  streamHead id c ++ u32 c.linkUs ++ u32 c.lossMs ++ u8 0 ++ u8 c.paths.length ++
    c.paths.flatMap fun p => u8 p.port ++ u8 0 ++ u16 p.udp ++ u32 p.dst ++ u32 p.src

/-- The request bodies of TIME.REFERENCES, TIME.SERVO and CLOCK.OUTPUTS (R487). -/
def refsBody (s : State) : List Byte :=
  ((List.range 11).flatMap fun i => let c := candOf s i; u8 c.priority ++ u8 0 ++ u16 c.window ++ u16 c.restore) ++ u8 s.time.sapPort

def servoBody (s : State) : List Byte :=
  u32 s.time.stepThr ++ u32 s.time.slope ++ s.time.bw.flatMap u32 ++ s32 s.time.damping ++
    (s.time.raw.flatMap fun g => u32 g.1 ++ u32 g.2) ++ u32 s.time.alignTol ++ u32 s.time.avgWindow

def outputsBody (s : State) : List Byte :=
  u8 s.time.wclk0 ++ u8 s.time.wclk1 ++ u8 (Fx.b2n s.time.pps) ++ u32 s.time.ppsUs

/-- TIME.PTP without the holdover limit. -/
def ptpBody (c : PtpCfg) : List Byte := (ptpCfgBytes c).take 12 ++ (ptpCfgBytes c).drop 16

/-- The body of BLOCK.CREATE of a standalone instance (R480): its structural parameters that differ from their reset
values. -/
def createBody (s : State) (p : Nat) (b : BlockInst) : List Byte :=
  let items := (activeRec s p).filter fun f => isStructural s p f.1
  u8 ((typeNumber (activeGet s p) b.kind).getD 0xFF) ++ u8 b.stage ++ u8 items.length ++
    items.flatMap fun f => u16 f.1 ++ s32 f.2

/-- The instances of images: first page, image, pins' base and task count (R182). -/
def instancesOf (s : State) : List (Nat × Nat × Nat × Nat) :=
  (s.frond.tasks.filter fun e => e.2.live && decide (e.2.firstPage = e.1)).map fun e =>
    let mine := s.frond.tasks.filter fun t => decide (t.2.firstPage = e.1)
    let pins := mine.flatMap fun t => t.2.ins ++ t.2.outs ++ t.2.sides
    (e.1, e.2.image, pins.foldl min 0xFFFFFFFF, mine.length)

/-- The response data of an instance's creation, without the frame number (R492). -/
def instanceBody (i : Nat × Nat × Nat × Nat) : List Byte :=
  idB (if i.2.2.1 = 0xFFFFFFFF then none else some i.2.2.1) ++ u16 i.1 ++ u8 i.2.2.2

/-- Scenes that are persistent (R134). -/
def persistentScenes (s : State) : Tbl SceneEntry := s.scene.dir.filter fun e => e.2.persistent

def assignBody (n : Nat) (e : Emerg) : List Byte :=
  match e.scene with
  | some k => u8 n ++ u16 k ++ u8 (Fx.b2n e.latchMode)
  | none => []

/-- Zones whose judgement is set. -/
def setZones (s : State) : Tbl Zone :=
  s.supv.zone.filter fun e => decide ((e.2.hi, e.2.lo, e.2.hyst, e.2.declare_) ≠ (120, 80, 5, 5))

def zoneBody (n : Nat) (z : Zone) : List Byte := u8 n ++ u16 z.hi ++ u16 z.lo ++ u16 z.hyst ++ u8 z.declare_

def nightlyBody (s : State) : List Byte :=
  u8 (Fx.b2n s.supv.enable) ++ ntNs s.supv.start ++ u32 s.supv.periodS ++ u32 s.supv.lengthS ++ u16 s.supv.segments

def reactionBytes (s : State) : List Byte := K.all.flatMap fun k => u8 k ++ u8 0 ++ u16 0 ++ u32 (reactionOf s k)

def linkBody (s : State) : List Byte :=
  u32 s.pair.link.timeoutUs ++ u32 s.pair.link.intervalUs ++ u16 s.pair.link.retxUs ++ s16 s.pair.link.asym

/-- Section 2: rate, B, ports, streams, time, standalone instances. -/
def wiringBody (s : State) : List Byte :=
  let ports := List.range 96
  u8 s.sys.rate ++ u8 s.sys.b ++ ports.flatMap (portBody s) ++ ports.flatMap (fun p => u8 p ++ u8 (portDirs s p)) ++
    (List.range 16).flatMap (genBody s) ++ s.net.tx.flatMap (fun e => txBody e.1 e.2.cfg) ++ s.net.rx.flatMap (fun e => rxBody e.1 e.2.cfg) ++
    refsBody s ++ ptpBody s.time.ptpCfg ++ servoBody s ++ outputsBody s ++
    (s.blk.inst.filter (·.2.live)).flatMap fun e => createBody s e.1 e.2

/-- The configuration image. -/
def configImage (s : State) : List Byte :=
  imageSection 1 ((filledPages s).flatMap fun e => (captureRecord s e.1).bytes) ++
  imageSection 2 (wiringBody s) ++
  imageSection 3 (s.frond.images.flatMap (·.2.bytes) ++ (instancesOf s).flatMap instanceBody) ++
  imageSection 4 ((persistentScenes s).flatMap (fun e => dirEntry e.1 e.2 ++ e.2.body) ++ s.scene.emerg.flatMap fun e => assignBody e.1 e.2) ++
  imageSection 5 (reactionBytes s ++ u8 s.flt.retryLimit ++ (setZones s).flatMap (fun e => zoneBody e.1 e.2) ++ nightlyBody s ++
    u32 s.pair.restoreS ++ u8 (Fx.b2n (!s.pair.autoReturn)) ++ linkBody s)

/-- The hash of the committed configuration (R325, R489). -/
def configHash (s : State) : List Byte := sha256 (configImage s)

/-! ### The sections that the source sends (R324, R325) -/

/-- A page's content as edits: emptied, then field by field. -/
def pageEdits (e : Nat × PageRec) : List Edit :=
  { page := e.1, field := clearField, value := 0 } :: e.2.map fun f => { page := e.1, field := f.1, value := f.2 }

def markChanges (p : Nat) (x : Port) : List Change :=
  (x.markTx.map fun e => Change.setting 0x0608 [p, 1, 2 ^ e.1, e.2.mode, x.sender, e.2.tag]) ++
  (x.markRx.map fun e => Change.setting 0x0608 [p, 0, 2 ^ e.1, e.2.mode, 0]) ++ x.expect.map fun e => .expect p e.1 (some e.2)

/-- Ports, generators, streams and time as changes. -/
def wiringChanges (s : State) : List Change :=
  [.rate s.sys.rate, .frameSize s.sys.b, .setting 0x0208 [s.route.xfDefault]] ++
  (s.port.pcg.map fun e => .clkgen e.1 e.2) ++
  ((List.range 96).flatMap fun p => [.port p (portCfg s p), .enable p (portDirs s p)]) ++
  (s.port.port.flatMap fun e => markChanges e.1 e.2) ++
  (s.port.mclk.map fun e => .setting 0x0607 (match e.2.next with
    | some (g, k) => [(e.1 : Int), g, k]
    | none => [e.1, e.2.gen, e.2.mult])) ++
  (s.net.tx.map fun e => .stream false e.1 e.2.cfg) ++ (s.net.rx.map fun e => .stream true e.1 e.2.cfg) ++
  [.refs ((List.range 11).map fun i => ((candOf s i).priority, (candOf s i).window, (candOf s i).restore)) s.time.sapPort,
   .ptp s.time.ptpCfg,
   .setting 0x080A ([(s.time.stepThr : Int), s.time.slope] ++ s.time.bw.map (fun n => (n : Int)) ++ [(s.time.damping : Int)] ++
     s.time.raw.flatMap (fun g => [(g.1 : Int), (g.2 : Int)]) ++ [(s.time.alignTol : Int), (s.time.avgWindow : Int)]),
   .setting 0x0809 [s.time.wclk0, s.time.wclk1, Fx.b2n s.time.pps, s.time.ppsUs], .setting 0x0808 [Fx.b2n s.clk.alignAtLock]] ++
  (s.blk.inst.filter (·.2.live)).map fun e => .blockNew e.1 e.2 0

def sceneChanges (s : State) : List Change :=
  ((persistentScenes s).flatMap fun e =>
    [.sceneStore e.1 (Fx.b2n e.2.resident) e.2.name e.2.body, .sceneVersion e.1 e.2.version]) ++
  (List.range 4).map fun n => .emergAssign n (emergOf s n).scene (emergOf s n).latchMode

def settingChanges (s : State) : List Change :=
  [.setting 0x0A04 (K.all.flatMap fun (k : Nat) => [(k : Int), (reactionOf s k : Int)]), .setting 0x0A06 [s.flt.retryLimit]] ++
  (s.supv.zone.map fun e => .setting 0x0A07 [e.1, e.2.hi, e.2.lo, e.2.hyst, e.2.declare_]) ++
  [.setting 0x0A0A [Fx.b2n s.supv.enable, s.supv.start, s.supv.periodS, s.supv.lengthS, s.supv.segments],
   .setting 0x0901 [Fx.b2n s.pair.enable, Fx.b2n (!s.pair.autoReturn), Fx.b2n s.pair.adopt, s.pair.restoreS],
   .setting 0x0905 [s.pair.link.timeoutUs, s.pair.link.intervalUs, s.pair.link.retxUs, s.pair.link.asym]]

/-- Edits and changes of a section, 1 to 5 as in the image. -/
def configSection (s : State) (n : Nat) : List Edit × List Change :=
  match n with
  | 1 => ((filledPages s).flatMap pageEdits, [])
  | 2 => ([], wiringChanges s)
  | 3 => ([], (s.frond.images.map fun e => Change.image e.2.bytes e.2.code e.2.xBase e.2.yBase) ++
      (instancesOf s).map fun i => Change.instNew i.2.1 i.1 i.2.2.1 (ringBases s i.1))
  | 4 => ([], sceneChanges s)
  | _ => ([], settingChanges s)

/-! ### Adoption (R324) -/

/-- The change brings nothing new: a port or generator goes on undisturbed. -/
def alreadyHolds (s : State) : Change → Bool
  | .rate c => decide (s.sys.rate = c)
  | .frameSize b => decide (s.sys.b = b)
  | .port p c => decide (portCfg s p = c)
  | .enable p d => decide (portDirs s p = d)
  | .clkgen g c => decide (Tbl.find s.port.pcg g = some c)
  | .stream rx id c => decide ((if rx then (Tbl.find s.net.rx id).map (·.cfg) else (Tbl.find s.net.tx id).map (·.cfg)) = some c)
  | .blockNew p b _ => decide (Tbl.find s.blk.inst p = some b)
  | .image bs c x y => s.frond.images.any fun e => decide (e.2.bytes = bs ∧ e.2.code = c ∧ e.2.xBase = x ∧ e.2.yBase = y)
  | .instNew i p _ _ => s.frond.tasks.any fun e => decide (e.1 = p ∧ e.2.image = i)
  | _ => false

/-- What the joiner drops: objects that the source does not have. -/
def dropsOf (s : State) (cs : List Change) : List Change :=
  ((instancesOf s).filterMap fun i =>
    if cs.any fun c => match c with | .instNew im p _ _ => decide (im = i.2.1 ∧ p = i.1) | _ => false then none else some (.instDrop i.1)) ++
  (s.frond.images.filterMap fun e =>
    if cs.any fun c => match c with | .image bs c x y => decide (bs = e.2.bytes ∧ c = e.2.code ∧ x = e.2.xBase ∧ y = e.2.yBase) | _ => false then none else some (.imageDrop e.1)) ++
  (s.blk.inst.filterMap fun e =>
    if cs.any fun c => match c with | .blockNew p b _ => decide (p = e.1 ∧ b = e.2) | _ => false then none else some (.blockDrop e.1)) ++
  (s.net.tx.filterMap fun e =>
    if cs.any fun c => match c with | .stream false id _ => decide (id = e.1) | _ => false then none else some (.dropStream false e.1)) ++
  (s.net.rx.filterMap fun e =>
    if cs.any fun c => match c with | .stream true id _ => decide (id = e.1) | _ => false then none else some (.dropStream true e.1)) ++
  ((persistentScenes s).filterMap fun e =>
    if cs.any fun c => match c with | .sceneStore n _ _ _ => decide (n = e.1) | _ => false then none else some (.sceneDrop e.1))

/-- The bank table that a list of page edits leaves. -/
def bankOf (es : List Edit) : Tbl PageRec :=
  es.foldl (fun t e => Tbl.put t e.page (if e.field = clearField then [] else Tbl.put (Tbl.getD t e.page []) e.field e.value)) []

/-- An image that the joiner's own checks refuse (R181, R185). -/
def imageFails (s : State) : Change → Bool
  | .image bs _ _ _ => match placeImage s bs with | .error _ => true | .ok _ => false
  | _ => false

/-- The joiner applies the source's configuration at the apply frame (R324): answers the state, and whether its checks
passed (R185). Its own lists and actions end. -/
def adopt (s : State) : State × Bool :=
  let secs := s.pair.config
  let es := secs.flatMap (·.2.1)
  let cs := secs.flatMap (·.2.2)
  let s := s.scene.lists.foldl (fun s e => discardList e.1 s) s
  let s := s.scene.actions.foldl (fun s e => dropAction e.1 s) s
  let s := applyChanges (dropsOf s cs) s
  let t := bankOf es
  let fresh := cs.filter fun c => !alreadyHolds s c
  let (s, ok) := fresh.foldl (fun (e : State × Bool) c => (applyChange c e.1, e.2 && !imageFails e.1 c)) (s, true)
  let s := { s with page := { s.page with active := t, shadow := t, status := [] }, pair := { s.pair with config := [], adoptAt := none } }
  (settlePlacement (placeTasks s (tasksOf s [effView s])).1 s, ok)

end Sys2Proof.Machine
end

