-- ==== Sys2Proof/Machine/Handshake.lean ====
section
/-!
DEFINITION. The pairing handshake (R324 to R326): HELLO and its checks, the configuration's adoption, the time of step 6,
refusals and retries.
-/
namespace Sys2Proof.Machine
open Sys2Proof

/-- The ordering code in ASCII (R3). -/
def orderingCode : List Byte := padTo 16 [0x45, 0x46, 0x39, 0x36, 0x30, 0x30, 0x2D, 0x49, 0x42]

/-- What this engine says in HELLO (R324). -/
def ownHello (s : State) : Hello := {
  serial := Config.serial.toNat, ordering := orderingCode, revision := 0x00B0, keyHash := s.pwr.keyHash.getD 0, series := 2
  version := firmwareVersion s, build := firmwareBuild s, seril := serilVersion s
  pairEn := s.sys.pairEn, pairPref := s.sys.pairPref, activeOut := s.pair.activeOut, partnerIn := s.pair.partnerIn
  active := s.pair.activeOut, state := s.pair.state, sender := Config.serial.toNat % 2 ^ 32
  addrs := (List.range 5).map fun n => (netOf s n).cfg.ip }

/-- Run the handshake from step 1 (R324, R326), with the partner's HELLO when it has come. -/
def startHandshake (h : Option Hello) (s : State) : State :=
  if !s.pair.link.up || !s.pair.enable then s
  else
    let s := setPairState 1 (setPair (fun p => { p with
      step := 1, passed := 0, partnerPassed := 0, source := false, hello := h, stepSince := s.clk.raw, config := [], adoptAt := none
      partnerHash := [], joined := false, stepped := false, near := false, adopted := false, changed := false }) s)
    sendLink (.hello (ownHello s)) s

/-- The handshake fails (R326): PAIR_REFUSED, or PAIR_CONFIG for the configuration. An engine that is not active announces
the release of its identity. -/
def refusePair (tell : Bool) (why : Nat) (s : State) : State :=
  let s := if tell then sendLink (.verdict s.pair.step false why) s else s
  let s := setPairState 2 (setPair (fun p => { p with reason := why, refusedAt := s.clk.raw, joined := false, adoptAt := none, adopted := false }) s)
  let s := if s.pair.activeOut then s else releaseOwn s
  if why = 5 then report Src.pair K.pairConfig 3 0 0 s else report Src.pair K.pairRefused 2 why 0 s

/-- Steps 1 to 3: the reason for which the HELLOs do not match, if any (R324). -/
def helloReason (a b : Hello) : Option Nat :=
  if (a.ordering, a.revision, a.keyHash) ≠ (b.ordering, b.revision, b.keyHash) then some 1
  else if (a.series, a.version, a.build, a.seril) ≠ (b.series, b.version, b.build, b.seril) then some 2
  else if !(a.pairEn && b.pairEn) || decide (a.pairPref = b.pairPref) then some 3
  else none

/-- A step passes on this engine. -/
def passStep (n : Nat) (s : State) : State :=
  sendLink (.verdict n true 0) (setPair (fun p => { p with passed := n }) s)

/-! ### Step 5: the configuration (R324, R325) -/

/-- The source sends its committed configuration and its hash. A claimed identity is made known again. -/
def sendConfig (s : State) : State :=
  let s := [1, 2, 3, 4, 5].foldl (fun s n => let c := configSection s n; sendLink (.config n c.1 c.2) s) s
  let s := if (partnerPorts s).any fun n => (netOf s n).claimed then sendLink (.identity true (!ownBlue s)) s else s
  sendLink (.configHash (configHash s)) s

/-- Both engines have passed steps 1 to 4. -/
def beginFive (s : State) : State :=
  if s.pair.step = 1 ∧ 4 ≤ s.pair.passed ∧ 4 ≤ s.pair.partnerPassed then
    let s := setPair (fun p => { p with step := 5, changed := false }) s
    if s.pair.source then sendConfig s else s
  else s

/-- Step 6 begins: the joiner selects the partner as its reference. -/
def beginSix (s : State) : State :=
  if s.pair.step = 5 ∧ 5 ≤ s.pair.passed ∧ 5 ≤ s.pair.partnerPassed then
    let s := setPair (fun p => { p with step := 6, stepSince := s.clk.raw, joined := !p.source, stepped := false, near := false }) s
    if s.pair.source then s else selectRefs s
  else s

/-- The handshake has passed: SYNCING (R324). -/
def endSix (s : State) : State :=
  if s.pair.step = 6 ∧ 6 ≤ s.pair.passed ∧ 6 ≤ s.pair.partnerPassed then startCopy s else s

/-- Compare the hashes once both are known. -/
def judgeHash (s : State) : State :=
  if s.pair.state = 1 ∧ s.pair.step = 5 ∧ s.pair.passed < 5 ∧ s.pair.partnerHash ≠ [] then
    if configHash s = s.pair.partnerHash then beginSix (passStep 5 s) else refusePair true 5 s
  else s

/-- The joiner says what its configuration hashes to, and compares. -/
def tellHash (s : State) : State :=
  judgeHash (sendLink (.configHash (configHash s)) (setPair (fun p => { p with adopted := false }) s))

/-- Adoption at a frame boundary (R324): the configuration applies at its frame; the hash follows once an interruption for
another rate or B is over. A failed check refuses the pairing (R185). -/
def adoptBoundary (s : State) : State :=
  let due : Bool := match s.pair.adoptAt with | some f => decide (f ≤ s.sys.frameNo) | none => false
  if s.pair.state ≠ 1 then s
  else if due then
    let (s, ok) := adopt s
    if ok then
      let s := setPair (fun p => { p with adopted := true, changed := false }) s
      if s.sys.interrupted = none then tellHash s else s
    else refusePair true 5 s
  else if s.pair.adopted ∧ s.sys.interrupted = none then tellHash s
  else s

/-! ### Steps 1 to 4, and the handshake at a sample tick -/

/-- Levels that the partner drives and reads: its latest HEARTBEAT, else its HELLO. -/
def peerLevels (s : State) (h : Hello) : Bool × Bool :=
  match s.pair.peer with | some (_, out, seen, _) => (out, seen) | none => (h.activeOut, h.partnerIn)

/-- Steps 1 to 4 once one engine holds ACTIVE (R324): that one is the source. Levels that disagree for longer than the
heartbeat timeout fail step 4. -/
def helloChecks (s : State) : State :=
  match s.pair.hello with
  | none => s
  | some h =>
    let (out, seen) := peerLevels s h
    if s.pair.activeOut = out then setPair (fun p => { p with stepSince := s.clk.raw }) s
    else match helloReason (ownHello s) h with
      | some why => refusePair true why s
      | none =>
        if s.pair.partnerIn = out ∧ seen = s.pair.activeOut then
          beginFive (passStep 4 (setPair (fun p => { p with source := p.activeOut }) s))
        else if s.pair.stepSince + usTicks s.pair.link.timeoutUs ≤ s.clk.raw then refusePair true 4 s
        else s

/-- The handshake at a sample tick: pairing switched off or on (R349), a commit that changed the shared configuration while
the pair stands refused or compares it (R326), the checks of steps 1 to 4. -/
def handshakeTick (s : State) : State :=
  if !s.pair.enable then (if s.pair.state = 0 then s else setPairState 0 s)
  else if !s.pair.link.up then s
  else if s.pair.state = 0 then startHandshake none s
  else if s.pair.changed ∧ (s.pair.state = 2 ∨ (s.pair.state = 1 ∧ 5 ≤ s.pair.step)) then startHandshake none s
  else
    let s := setPair (fun p => { p with changed := false }) s
    if s.pair.state = 1 ∧ s.pair.step = 1 ∧ s.pair.passed = 0 then helloChecks s else s

end Sys2Proof.Machine
end

