-- ==== Sys2Proof/Machine/Supervision.lean ====
section
/-!
DEFINITION. Resets of functions (R358), memories and their repair (R364 to R369), bank migration, the spare frond's test
(R370), the nightly window (R371 to R374), zones (R376) and the ageing record (R378, R379): the shared operations, and what
they do at a frame boundary.
-/
namespace Sys2Proof.Machine
open Sys2Proof

/-! ### Memories, rows and the OTP repair map (R367) -/

/-- The memory IDs that name a memory. -/
def isMemory (m : Nat) : Bool :=
  decide (m < 25) || (decide (32 ≤ m) && decide (m < 544) && decide ((m - 32) % 16 < 13)) || (decide (560 ≤ m) && decide (m ≤ 576))

/-- Rows and spare rows of a memory. -/
def rowsOf (m : Nat) : Nat :=
  if m < 25 ∨ m = 576 then 8192 else if 560 ≤ m then 768
  else if (m - 32) % 16 < 4 then 256 else if (m - 32) % 16 < 12 then 512 else 4096
def sparesOf (m : Nat) : Nat :=
  if m < 25 ∨ m = 576 then 16 else if 560 ≤ m then 8 else if (m - 32) % 16 = 12 then 8 else 4

/-- The memories in ID order. -/
def memoryIds : List Nat := (List.range 577).filter isMemory

/-- The frond that a memory ID names, if any. -/
def frondOfMemory (m : Nat) : Option Nat := if 32 ≤ m ∧ m < 544 then some ((m - 32) / 16) else none

/-- A memory's source (R351), and what the detail of its records names: its own memory for a frond, its ID where the
scrubber reports it (log entry 40). -/
def memSource (m : Nat) : Nat :=
  if m < 25 then Src.bank m else if m = 576 then Src.sram else (frondOfMemory m).getD Src.scrubber
def memDetail (m : Nat) : Nat := if (frondOfMemory m).isSome then (m - 32) % 16 else m

/-- The word of an OTP repair entry: check, valid, memory, row and spare (R367). -/
def otpWord (m row spare : Nat) : Nat :=
  let w := 2 ^ 27 + m * 2 ^ 17 + row * 2 ^ 4 + spare
  (List.range 7).foldl (fun c i => c ^^^ (w / 16 ^ i % 16)) 0 * 2 ^ 28 + w

/-- The check of an OTP repair entry passes (R367): the exclusive OR of its eight 4-bit groups is 0. -/
def otpPasses (w : Nat) : Bool := decide ((List.range 8).foldl (fun c i => c ^^^ (w / 16 ^ i % 16)) 0 = 0)

/-- The repair map is loaded from OTP (R367): each entry whose check fails is ignored and logged. -/
def loadOtp (s : State) : State :=
  (s.supv.otp.filter fun e => !otpPasses e.1).foldl (fun s _ => report Src.march K.otpWrite 2 0 0 s) s

/-- Spare rows of a memory that repairs have taken. -/
def sparesUsed (s : State) (m : Nat) : Nat := (s.supv.otp.filter fun e => e.2 && decide (e.1 / 2 ^ 17 % 1024 = m)).length

/-- OTP writes whose read-back differs: each uses up an entry, whose bits are a free value (log entry 5), and is logged. -/
def badOtp : Nat → State → State
  | 0, s => s
  | n + 1, s =>
    if s.supv.otp.length < 1024 then
      let (w, s) := drawFree 32 s
      badOtp n (report Src.march K.otpWrite 2 0 0 { s with supv := { s.supv with otp := s.supv.otp ++ [(w, false)] } })
    else s

/-- Repair a row (R367): answers whether it could be. -/
def repairRow (m row : Nat) (s : State) : Bool × State :=
  let k := sparesUsed s m
  if k < sparesOf m ∧ s.supv.otp.length < 1024 then
    (true, report Src.march K.rowRepaired 1 0 0 { s with supv := { s.supv with otp := s.supv.otp ++ [(otpWord m row k, true)] } })
  else (false, report Src.march K.repairExhausted 2 0 0 s)

/-- Repair rows of a memory: the repairs made, and whether all could be. -/
def repairRows (m : Nat) (rows : List Nat) (s : State) : Nat × Bool × State :=
  rows.foldl (fun (n, ok, s) row => match repairRow m row s with
    | (true, s) => (n + 1, ok, s)
    | (false, s) => (n, false, s)) (0, true, s)

/-! ### Bulk banks (R366, R369) -/

/-- A bank that stays failing is retired (R366, R369). -/
def retireBank (b : Nat) (s : State) : State :=
  let s := { s with sys := { s.sys with banksRetired := s.sys.banksRetired ++ [b] } }
  report (Src.bank b) K.bankRetired 2 0 0 s

/-- A frond leaves service with the rotation (R366, R370). -/
def failFrond (f : Nat) (s : State) : State :=
  let sys := { s.sys with retired := s.sys.retired ++ [f], spareFrond := if s.sys.spareFrond = some f then none else s.sys.spareFrond }
  report f K.frondTestFail 2 0 0 { s with sys := sys }

/-- A bank scheduled for repair migrates as soon as the spare is there (R369, R374). -/
def dueMigration (s : State) : State :=
  match s.supv.migrating, s.sys.spareBank with
  | none, some _ =>
    match s.flt.repairs.find? fun m => decide (m < 25) && (logicalOf s m).isSome with
    | some b => { s with supv := { s.supv with migrating := some b } }
    | none => s
  | _, _ => s

/-- The end of a function reset (R358): the safe state that its entries hold clears as if they were cleared (R359). -/
def completeReset (src : Nat) (s : State) : State :=
  let table := Tbl.mapV (fun k (e : FaultEntry) =>
    if k / 256 = src ∧ e.resetting then { e with resetting := false, safe := false, safeWait := false } else e) s.flt.table
  { s with flt := { s.flt with
      table := table, resets := s.flt.resets.filter (· != src), resetsDue := s.flt.resetsDue.filter (· != src) } }

/-- A function reset begins (R358): what holds the source. -/
def beginReset (src : Nat) (s : State) : State :=
  if src < 32 then retireFrond src K.taskLasting s
  else if 0x100 ≤ src ∧ src < 0x160 then applyPort (src - 0x100) (portCfg s (src - 0x100)) s
  else if 0x180 ≤ src ∧ src ≤ 0x184 then linkLost (src - 0x180) s
  else if src = Src.pair then linkDown s
  else if 0x1C0 ≤ src ∧ src ≤ 0x1D8 then scheduleRepair (src - 0x1C0) s
  else if 0x440 ≤ src ∧ src < 0x480 then resetController (src - 0x440) s
  else s

/-- The resets that are due begin. -/
def beginResets (s : State) : State :=
  let due := s.flt.resetsDue
  due.foldl (fun s src => beginReset src s) { s with flt := { s.flt with resetsDue := [] } }

/-! ### The ageing record (R378, R379) -/

/-- The k-th smallest of the servo's values of an hour: VCORE stands on its 2.5 mV steps (R518). -/
def kthVcore (vs : List Nat) (k : Nat) : Nat :=
  ((List.range 73).map fun i => 680000 + 2500 * i).find? (fun v => decide (k < (vs.filter (· ≤ v)).length)) |>.getD 860000

/-- Median of an hour's values in µV: the mean of the two middle ones of an even number. -/
def medianVcore (vs : List Nat) : Nat := (kthVcore vs ((vs.length - 1) / 2) + kthVcore vs (vs.length / 2)) / 2

/-- V90 in µV (R378). -/
def v90 (v : Nat) (tj : Int) (target : Nat) : Int :=
  v + Fx.roundAway (Config.ageKT * (9000 - tj)) 100 + Fx.roundAway (Config.ageKS * (350 - (target : Int))) 10

/-- AGEING_HOUR's record: an hour with VCORE at an end of its window, or under direct control, is left out. -/
def ageingHour (s : State) : State :=
  let g := s.pwr.ageing
  let atEnd := g.hour.any fun v => decide (v = 680000) || decide (v = 860000)
  let keep := !g.hour.isEmpty && !atEnd && !g.direct && decide (g.tjN ≠ 0)
  let day := if keep then g.day ++ [(v90 (medianVcore g.hour) (Fx.roundAway g.tjSum g.tjN) s.pwr.target).toNat] else g.day
  { s with pwr := { s.pwr with ageing := { g with hour := [], tjSum := 0, tjN := 0, direct := false, day := day } } }

/-- Years since the ageing epoch at the end of day i, counted from 0 (log entry 41). -/
def yearsAt (i : Nat) : Int := Fx.ratio (4 * (i + 1)) 1461

/-- A of the least-squares fit for one n in 0.001, and the squared residual (R379). -/
def fitAt (logs ys : List Int) (n : Nat) : Int × Int :=
  let us := logs.map fun l => Fx.pow2 (Fx.roundAway (l * n) 1000)
  let yu := (us.zip ys).foldl (fun a p => a + p.1 * p.2) 0
  let uu := us.foldl (fun a u => a + Fx.mul u u) 0
  let a := if uu = 0 then 0 else Fx.div yu uu
  (a, (us.zip ys).foldl (fun r p => let e := p.2 * Fx.one - Fx.mul a p.1; r + Fx.mul e e) 0)

/-- The fit over n from 0.1 to 0.5: the smallest residual, the lowest n first. -/
def bestFit (logs ys : List Int) : Nat × Int :=
  let first := fitAt logs ys 100
  let b := (List.range 400).foldl (fun (n, a, r) i =>
    let x := fitAt logs ys (101 + i)
    if x.2 < r then (101 + i, x.1, x.2) else (n, a, r)) (100, first.1, first.2)
  (b.1, b.2.1)

/-- Whole years until V90 reaches 0.850 V, at most 99 (R379). -/
def forecastYears (ref now : Int) (n : Nat) (a : Int) : Nat :=
  if ref ≥ 850000 then 0
  else if a ≤ 0 then 99
  else
    let l := Fx.log2 (Fx.div ((850000 - ref) * Fx.one) a)
    if 7 * Fx.one < Fx.roundAway (l * 1000) n then 99
    else min 99 ((Fx.pow2 (Fx.roundAway (l * 1000) n) - now) / Fx.one).toNat

/-- AGEING_MARGIN stands below 25 % of margin or 5 years, and is logged again at each whole per cent lost (R379). -/
def ageingAlarm (s : State) : State :=
  let g := s.pwr.ageing
  let low := g.v90ref.isSome && (decide (g.margin < 250) || (decide (90 ≤ g.days.length) && decide (g.forecast < 5)))
  let due := match g.told with | none => true | some w => decide (g.margin / 10 < w)
  let put := fun (t : Option Nat) (s : State) => { s with pwr := { s.pwr with ageing := { s.pwr.ageing with told := t } } }
  if !low then put none s
  else if due then report Src.power K.ageingMargin 2 0 0 (put (some (g.margin / 10)) s) else s

/-- The ageing record of the day: its mean, the reference after 30 days, margin, fit and forecast. -/
def ageingDay (s : State) : State :=
  let g := s.pwr.ageing
  if g.day = [] then s
  else
    let days := g.days ++ [g.day.foldl (· + ·) 0 / g.day.length]
    let now : Nat := days.getLast?.getD 0
    let ref := if g.v90ref.isNone ∧ days.length = 30 then some (days.foldl (· + ·) 0 / 30) else g.v90ref
    let margin := match ref with
      | some r => if r < 860000 then min 1000 ((860000 - now) * 1000 / (860000 - r)) else 0
      | none => g.margin
    let (n, a, years) := match ref with
      | some r => if days.length < 90 then (g.n, g.a, g.forecast) else
          let fit := bestFit ((List.range days.length).map fun i => Fx.log2 (yearsAt i)) (days.map fun d => (d : Int) - (r : Int))
          (fit.1, (Fx.roundAway fit.2 Fx.one).toNat, forecastYears r (yearsAt (days.length - 1)) fit.1 fit.2)
      | none => (g.n, g.a, g.forecast)
    let g := { g with day := [], days := days, v90ref := ref, margin := margin, n := n, a := a, forecast := years }
    ageingAlarm { s with pwr := { s.pwr with ageing := g } }

/-! ### The nightly window (R371 to R374) -/

/-- Results of the items: 0 done, 1 skipped, 2 incomplete, 3 failed (R490). -/
def setResult (i v : Nat) (s : State) : State := { s with supv := { s.supv with results := s.supv.results.set (i - 1) v } }

/-- An item is skipped (R371). -/
def skipItem (i : Nat) (s : State) : State := setResult i 1 (report Src.collector K.nightlySkipped 1 0 0 s)

/-- The bank or frond that follows the one of the night before among those that a property selects; the lowest on the
first night (log entry 42). -/
def nextOf (n : Nat) (ok : Nat → Bool) (last : Option Nat) : Option Nat :=
  let from_ := match last with | some l => l + 1 | none => 0
  ((List.range n).map fun i => (from_ + i) % n).find? ok

/-- The output slots that the window marks, and the input slots that it judges (R372). -/
def windowSlots (s : State) : List (Nat × Nat) × List (Nat × Nat) :=
  (s.port.port.flatMap (fun e => (e.2.markTx.filter fun m => m.2.mode = 1).map fun m => (e.1, m.1)),
   s.port.port.flatMap (fun e => e.2.expect.map fun x => (e.1, x.1)))

/-- The proofs of the window begin (R372): the active engine forwards them (R371), a standby waits for its partner's. -/
def startProofs (s : State) : State :=
  let (outs, ins) := windowSlots s
  let v : List Int := (outs.length : Int) :: (outs ++ ins).flatMap fun e => [(e.1 : Int), (e.2 : Int)]
  let cs : List Change := [.setting 0x060A v]
  let s := if followsPartner s then s
    else if forwards s then forward { slot := 0xFF, seq := 0, crc := 0 } { changes := cs } [] cs none s
    else applyChanges cs s
  { s with port := { s.port with proof := some { slot := 0xFF, seq := 0, outs := outs, ins := ins, at_ := s.clk.raw, nightly := true } }
           supv := { s.supv with proofPaired := decide (s.pair.state = 4), proofActive := s.pair.activeOut } }

/-- The window's preconditions (R371): time set, neither maintenance (but for a window that TEST.NIGHTLY_NOW asks for) nor
safe state in force. -/
def windowMayRun (s : State) : Bool := !s.clk.unset && (s.supv.asked.isSome || !inMaint s) && !safeInForce s

/-- The last item: the ageing record and NIGHTLY_DONE; the request of TEST.NIGHTLY_NOW is answered. -/
def closeWindow (s : State) : State :=
  let r := s.supv.results
  let s := { s with supv := { s.supv with step := none, todo := [], last := r, lastEnd := s.clk.full, asked := none } }
  match s.supv.asked with
  | some (c, q) => answer c q 0x0A0B 0 (done [] (r.flatMap u8)) s
  | none => s

/-- Begin an item: answers whether it waits for an event. -/
def beginItem (i : Nat) (s : State) : Bool × State :=
  match i with
  | 1 =>
    if windowMayRun s then (false, setResult 1 0 s)
    else
      let skip := [1, 2, 3, 4, 5].filter fun j => j = 1 || s.supv.todo.contains j
      (false, skip.foldl (fun s j => skipItem j s) { s with supv := { s.supv with todo := s.supv.todo.filter fun j => decide (5 < j) } })
  | 2 =>
    let inService := fun b => (logicalOf s b).isSome
    match s.sys.spareBank, s.supv.migrating, nextOf 25 inService s.supv.lastBank with
    | some _, none, some b => (true, { s with supv := { s.supv with migrating := some b, lastBank := some b } })
    | _, _, _ => (false, skipItem 2 s)
  | 3 =>
    let inService := fun f => !s.sys.retired.contains f && decide (s.sys.spareFrond ≠ some f)
    match s.sys.spareFrond, nextOf 32 inService s.supv.lastFrond with
    | some _, some f =>
      (true, { s with frond := { s.frond with spareMove := some (f, s.supv.badMove) }
                      supv := { s.supv with testing := some f, failedOnce := false } })
    | _, _ => (false, skipItem 3 s)
  | 4 =>
    if (windowSlots s).2 = [] ∧ (windowSlots s).1 = [] then (false, setResult 4 0 s)
    else if s.port.proof.isSome then (true, s)
    else (true, startProofs s)
  | 5 =>
    if s.peat.ns = [] then (false, skipItem 5 s)
    else
      let bad := s.supv.readback.take s.supv.segments
      (false, setResult 5 (if bad = [] then 0 else 3) (bad.foldl (fun s a => report Src.peat K.peatReadback 2 a 0 s) s))
  | _ =>
    let s := setResult 6 0 (ageingDay s)
    (false, closeWindow (postEvent Ev.nightlyDone none 0 (s.supv.results.flatMap u8) s))

/-- Run the items that are left until one waits. -/
def runItems : Nat → State → State
  | 0, s => s
  | n + 1, s =>
    match s.supv.todo with
    | [] => s
    | i :: rest =>
      let (waits, s) := beginItem i { s with supv := { s.supv with todo := rest, step := some i } }
      if waits then s else runItems n s

/-- An item ends with a result and the next one begins. -/
def endItem (i v : Nat) (s : State) : State := if s.supv.step = some i then runItems 8 (setResult i v s) else s

/-- The window starts (R371, R374): the items that the latest window left over run first, after the precondition check. -/
def beginWindow (s : State) : State :=
  if s.supv.step.isSome then s
  else
    let left := s.supv.left.filter fun i => decide (1 < i) && decide (i < 6)
    let todo := 1 :: left ++ ([2, 3, 4, 5].filter fun i => !left.contains i) ++ [6]
    runItems 8 { s with supv := { s.supv with
      step := some 1, todo := todo, results := [2, 2, 2, 2, 2, 2], begun := some s.clk.full, retryProof := false } }

/-- The proofs in progress are given up, and retried once at the end of the window (R374). -/
def dropProofs (s : State) : State :=
  let s := { s with port := { s.port with proof := none } }
  if s.supv.retryProof then endItem 4 2 s
  else
    let todo := (s.supv.todo.filter fun i => decide (i < 6)) ++ [4] ++ (s.supv.todo.filter fun i => decide (6 ≤ i))
    endItem 4 2 { s with supv := { s.supv with retryProof := true, todo := todo } }

/-- What a boundary finds of the item in progress (R374): a test whose frond the retirement of another took, or whose move
was given up; proofs that wait, that a switch-over restarts, or that the pair's leaving step ends. -/
def watchWindow (s : State) : State :=
  match s.supv.step with
  | some 3 =>
    if s.frond.spareMove.isNone ∧ s.supv.testing.isSome ∧ s.sys.spareFrond ≠ s.supv.testing then
      endItem 3 2 { s with supv := { s.supv with testing := none } }
    else s
  | some 4 =>
    match s.port.proof with
    | none => startProofs s
    | some p =>
      if !p.nightly then s
      else if s.supv.proofPaired ∧ s.pair.state ≠ 4 then dropProofs s
      else if s.pair.activeOut ∧ ¬ s.supv.proofActive then startProofs s
      else s
  | _ => s

/-- What supervision does at a frame boundary: due resets and migrations, a window whose start has come. -/
def superviseBoundary (s : State) : State :=
  let s := dueMigration (beginResets s)
  let s := if s.supv.due then beginWindow { s with supv := { s.supv with due := false } } else s
  watchWindow s

/-! ### Zones (R375, R376) -/

/-- The fault kind of a zone state. -/
def zoneKind : Nat → Option Nat
  | 2 => some K.supvNoPilot
  | 3 => some K.supvHighZ
  | 4 => some K.supvLowZ
  | _ => none

/-- The pilot at the strip's output lies more than 20 dB below its set level, or cannot reach the line (R376). -/
def notDriven (s : State) (n : Nat) (d : PilotDet) : Bool :=
  let p := outStripPage (effGet s (0x800 + n) 2).toNat + 8
  let set := if effGet s p 3 = 1 ∧ effGet s p 0 = 1 then dbToGain (effGet s p 2 - 2000) else 0
  decide (effGet s p 0 ≠ 1) || safeInForce s || decide ((d.drive : Int) < Fx.roundAway (set * 2 ^ 23) (2 ^ 20))

/-- The state that a block's reading gives: the first row whose condition holds (R376). -/
def zoneReading (s : State) (n : Nat) (z : Zone) (d : PilotDet) : Nat :=
  if notDriven s n d then 0
  else if z.cal.isNone then 1
  else if !d.present then 2
  else if z.hi * 256 < d.ratio * 100 then 3
  else if d.ratio * 100 < z.lo * 256 then 4
  else 5

/-- A zone leaves HIGH_Z or LOW_Z for NORMAL only on ratios inside the limits by the hysteresis (R376). -/
def zoneHeld (z : Zone) (d : PilotDet) (reading : Nat) : Bool :=
  (decide (z.state = 3) || decide (z.state = 4)) && decide (reading = 5) &&
  !(decide (d.ratio * 100 + z.hyst * 256 ≤ z.hi * 256) && decide ((z.lo + z.hyst) * 256 ≤ d.ratio * 100))

/-- A zone changes its state (R376). -/
def changeZone (n v : Nat) (z : Zone) (d : PilotDet) (s : State) : State :=
  let s := match zoneKind z.state with
    | some k => endCondition (Src.detector n) k 2 s
    | none => s
  let s := putZone n { z with state := v, cand := v, run := 0 } s
  let s := match zoneKind v with
    | some k => report (Src.detector n) k 2 0 0 s
    | none => s
  postEvent Ev.supvZone none 0 (u8 n ++ u8 v ++ u16 d.ratio) s

/-- One more reading of a zone. -/
def judgeZone (n : Nat) (d : PilotDet) (s : State) : State :=
  let z := zoneOf s n
  let r := zoneReading s n z d
  let r := if zoneHeld z d r then z.state else r
  if r = z.state then putZone n { z with cand := r, run := 0 } s
  else
    let run := if z.cand = r then z.run + 1 else 1
    if z.declare_ ≤ run then changeZone n r z d s else putZone n { z with cand := r, run := run } s

/-- The ratio of two amplitudes as unsigned Q8.8; of none it is a free value (log entry 5). -/
def ratioQ8 (d v : Nat) (s : State) : Nat × State := if v = 0 then drawFree 16 s else (min 65535 ((d * 256 + v / 2) / v), s)

/-- A calibration in progress takes a block; the sixteenth stores it and answers (R376). -/
def calibrateBlock (n : Nat) (d : PilotDet) (s : State) : State :=
  let z := zoneOf s n
  if !z.calOn then s
  else
    let z := { z with calN := z.calN + 1, calD := z.calD + d.drive, calS := z.calS + d.amp }
    if z.calN < 16 then putZone n z s
    else
      let v := (z.calD / 16, z.calS / 16)
      let s := putZone n { z with cal := some v, calOn := false, calFor := [] } s
      let (q, s) := ratioQ8 v.1 v.2 s
      z.calFor.foldl (fun s e => answer e.1 e.2 0x0A08 0 (done [] (u16 q)) s) s

/-! ### Readiness (R19) -/

/-- What a function needs beside other functions. -/
def ownNeeds (f : Nat) (s : State) : Bool :=
  match f with
  | 0 => s.clk.pllLocked
  | 2 => [0, 1, 2, 3].any fun n => (netOf s n).up
  | 3 => match weigh s (allViews s) with
    | .ok _ => true
    | .no _ _ _ _ _ _ => false
  | 5 => decide (s.supv.marchBanks.length ≤ 1)
  | 6 => false
  | 7 => false
  | _ => true

/-- Scene 0 is committed once the fronds are ready (R134, R136, R530). -/
def loadDefault (s : State) : State :=
  match planScene 0 true s with
  | .error _ => s
  | .ok (pl, _) =>
    let set : CommitSet := { due := some (nextFrame pl.st), pages := pagesOf pl.edits }
    { markPending (pagesOf pl.edits) pl.st with commit := { pl.st.commit with sets := pl.st.commit.sets ++ [set] } }

/-- What follows a function's becoming ready: scene 0 with the fronds (R530), the pins of the emergency inputs with the router
(R145). -/
def nowReady (f : Nat) (s : State) : State :=
  if f = Fn.fronds then loadDefault s
  else if f = Fn.router ∧ pinsDecide s then followPins (emergFrame s) s
  else s

/-- A function reports ready as soon as it has passed its self-test and its needs hold; Peat and pair have their own
conditions. -/
def followReady (s : State) : State :=
  followPair <| followPeat ([Fn.security, Fn.time, Fn.ports, Fn.router, Fn.bracken, Fn.fronds, Fn.network, Fn.supervision].foldl (fun s f =>
    if !isReady s f && s.sys.tested.contains f && (needsOf f).all (isReady s) && ownNeeds f s then
      nowReady f (setReady f true s)
    else s) s)

/-- At a boundary a function that waits for program images looks again (R19). -/
def followImages (s : State) : State := if s.flt.started && !isReady s Fn.fronds then followReady s else s

end Sys2Proof.Machine
end

