-- ==== Sys2Proof/Machine/Frames.lean ====
section
/-!
DEFINITION. The frame and its ticks (02, 05, 07, 12): the sample tick with the interlock (R321 to R336, R341, R359), the
frame tick, the sub-frame tick, tasks and their retries (R36, R37, R156, R165), Bracken terms (R122, R124), stepping
timeouts (R116) and the supply servo's interval (R40, R42).
-/
namespace Sys2Proof.Machine
open Sys2Proof

/-! ### The interlock at a sample tick (R241, R321 to R336, R341) -/

/-- Ports and router are ready (R321). -/
def mayServe (s : State) : Bool := isReady s Fn.ports && isReady s Fn.router

/-- Path proofs run for 8 blocks on every enabled port after a switch-over, on both engines alike (R235). -/
def proveAll (s : State) : State := (s.port.port.filter fun e => e.2.inOn || e.2.outOn).foldl (fun s e => startProofBlocks e.1 8 s) s

/-- ACTIVE rises (R321): a standby that takes over drops what has no apply frame and selects its own references (R315). -/
def raiseActive (s : State) : State :=
  let s := if s.pair.placed ∧ s.sys.pairEn then proveAll (dropForwarded s) else s
  -- the slots of a partner that is gone are lost, and with them its maintenance state (R466, R468)
  let s := if !s.pair.link.up ∧ (s.sys.maint.any fun c => decide (8 ≤ c)) then { s with sys := { s.sys with maint := none } } else s
  let s := raiseInt 15 (setPair (fun p => { p with activeOut := true, placed := true, switchAt := none, giveUp := 0, lowTicks := 0, ownId := true, joined := false, handover := false }) s)
  let s := if pinsDecide s then followPins (emergFrame s) s else s
  if s.sys.pairEn then selectRefs s else s

/-- An engine that gives up control out of step holds no identity any more (R277, R278). -/
def giveIdentities (s : State) : State :=
  if s.pair.state = 4 then s
  else
    let s := if (partnerPorts s).any fun n => (netOf s n).claimed then sendLink (.identity false (!ownBlue s)) (releaseIdentity s) else s
    releaseOwn s

/-- ACTIVE drops (R322): the engine is standby. -/
def dropActive (s : State) : State :=
  giveIdentities <| proveAll <| raiseInt 15 (setPair (fun p => { p with activeOut := false, dropDue := false, roleDrop := false, giveUp := 0 }) (endForwarding s))

/-- Every output starts silent (R233, R333, R336). -/
def silenceOutputs (s : State) : State :=
  { s with port := { s.port with port := Tbl.mapV (fun _ (x : Port) => { x with outHold := silentStage }) s.port.port } }

/-- The level of PARTNER_ACTIVE at a sample tick. A high level ends a wait for the partner (R359) and a planned
switch-over. -/
def readPartner (level : Bool) (s : State) : State :=
  let now := s.clk.raw
  let s := if level = s.pair.partnerIn then s else raiseInt 15 s
  let s := setPair (fun p => { p with
    partnerIn := level
    lowTicks := if level then 0 else p.lowTicks + 1
    lowSince := if p.partnerIn && !level then now else p.lowSince
    placed := p.placed || level }) s
  let s := if level ∧ s.pair.requestAt.isSome then
      { s with
        pair := { s.pair with requestAt := none }
        flt := { s.flt with table := Tbl.mapV (fun _ (e : FaultEntry) => { e with safeWait := false }) s.flt.table } }
    else s
  let s := if level ∧ !s.pair.activeOut then setPair (fun p => { p with switchAt := none }) s else s
  noteAlone s

/-- Both engines drive ACTIVE (R341): this one drops at its next tick when it is the alternate, or when the partner's
heartbeat says that it took over without reading this one. -/
def bothActive (s : State) : State :=
  if s.pair.activeOut ∧ s.pair.partnerIn then
    let blind := match s.pair.peer with | some (_, out, seen, _) => out && !seen | none => false
    let s := if s.pair.roleDrop then s else reportLimited Src.pair K.pairRole 2 0 0 s
    if !s.sys.pairPref || blind then setPair (fun p => { p with roleDrop := true }) s else s
  else setPair (fun p => { p with roleDrop := false }) s

/-- What the active engine does at a tick (R322, R333, R334, R341). -/
def activeTick (s : State) : State :=
  if s.pair.dropDue then
    let s := sendLink (.switch true (linkFrame s s.sys.frameNo)) s
    let s := setPair (fun p => { p with stepAt := none }) (leaveStep (dropActive s))
    setPair (fun p => { p with stepAt := none }) s
  else if s.pair.roleDrop then dropActive s
  else match s.pair.switchAt with
    | some f =>
      if s.sys.frameNo < f then s
      else if s.pair.forced ∧ s.pair.giveUp < 64 then setPair (fun p => { p with giveUp := p.giveUp + 1 }) s
      else dropActive s
    | none => s

/-- What a standby does at a tick (R321, R333, R335). -/
def standbyTick (s : State) : State :=
  let p := s.pair
  let now := s.clk.raw
  let recent : Bool := match p.stepAt with
    | some t => decide (now ≤ t + msTicks 1)
    | none => false
  if p.partnerIn then s
  else if p.switchAt.isSome then
    -- the planned switch-over that names this engine; its own give-up keeps it waiting for the partner
    if p.peer.isSome ∧ p.lowTicks = 1 then raiseActive (if p.forced then silenceOutputs s else s) else s
  else if p.placed ∧ p.state ≠ 2 ∧ (p.state = 4 ∨ recent) then
    let s := raiseActive (report Src.pair K.pairTakeover 2 0 0 s)
    if p.handover then leaveStep s else s
  else if !p.placed ∧ s.sys.pairPref ∧ mayServe s ∧ 2 ≤ p.lowTicks then raiseActive s
  else s

/-- The interlock at a tick. A solo engine raises ACTIVE once its ports and router are ready, and logs a PARTNER_ACTIVE
that reads high (R241). -/
def interlockTick (level : Bool) (s : State) : State :=
  let s := readPartner level { s with pair := { s.pair with wasActive := s.pair.activeOut } }
  if s.sys.pairEn then
    let s := if s.pair.activeOut then activeTick s else standbyTick s
    handshakeTick (bothActive s)
  else
    -- one record while the level stands (R241)
    let stands := conditionStands s Src.pair K.sapInterlock
    let s := if level && !stands then report Src.pair K.sapInterlock 3 0 0 s
      else if !level && stands then endCondition Src.pair K.sapInterlock 3 s else s
    if s.pair.activeOut ∨ !mayServe s then s else raiseActive s

/-! ### Sample and frame ticks (R25, R288) -/

/-- The grid instant of a sample tick, without the frame's own work: ports load and shift, receive streams play. -/
def tickPorts (s : State) : State := netTick (s.port.port.foldl (fun s e => portTick e.1 s) s)

/-- A pulse of PPS_OUT, once per second of C at its phase, since the last sample tick (R291). -/
def ppsTick (s : State) : State :=
  if s.time.pps && drivesNow s && decide ((s.clk.count - s.clk.ppsPhase) % 65536000000000 * fsNow s < 65536000000000) then
    { s with out := s.out ++ [.pps s.time.ppsUs] }
  else s

/-- The clock outputs at a tick (R228, R241, R291): an MCLK change that waits takes effect, the MCLK outputs are driven or
released, and PPS_OUT pulses. -/
def clockOutputs (s : State) : State :=
  let s := ppsTick (mclkTick s)
  { s with port := { s.port with mclkOn := drivesNow s } }

/-- A sample tick inside a frame. -/
def sampleTick (level : Bool) (s : State) : State :=
  let j := s.clk.sampleJ + 1
  let s := advanceToCount (gridCount s j) s
  let s := { s with clk := { s.clk with sampleJ := j } }
  clockOutputs (interlockTick level (tickPorts s))

/-- Sample ticks before grid instant `j` that a frame tick finds missing are made up at their instants, n at most. -/
def makeUpTicks (j : Nat) : Nat → State → State
  | 0, s => s
  | n + 1, s => if s.clk.sampleJ + 1 < j then makeUpTicks j n (sampleTick s.pair.partnerIn s) else s

/-- SAMPLE_TICK (R288): a tick inside the frame, or in an interruption, while the frame sequencer stands still (R23). -/
def execSampleTick (partner : Bool) (s : State) : Host.Outcome State Fault Refusal :=
  .next (if s.sys.running ∧ (s.sys.interrupted.isSome ∨ s.clk.sampleJ + 1 < s.clk.boundaryJ + s.sys.b) then sampleTick partner s else s)

/-- The frame in progress is the one that a realignment lengthens (R290). -/
def growsNow (s : State) : Bool := s.clk.extend.any fun e => decide (e.1 = s.sys.frameNo)

/-- The extension that lengthens the frame in progress (R290): the grid moves by it; the counts that it skips; bridged ports
relock; PPS_OUT falls on the whole seconds of the time reading. -/
def extendGrid (s : State) : Nat × State :=
  match s.clk.extend with
  | some (f, ns) =>
    if f = s.sys.frameNo then
      let w := skippedCounts s ns
      let pps := (s.clk.count - s.clk.full16) % 65536000000000
      let s := s.port.port.foldl (fun s e => asrcUnlock e.1 s) s
      (w, { s with clk := { s.clk with
        extend := none, gridG := s.clk.gridG + ns * 65536, skipped := s.clk.skipped + w, ppsPhase := pps } })
    else (0, s)
  | none => (0, s)

/-- The alignment of the boundary (R289). -/
def alignBoundary (s : State) : State :=
  let e := alignError s (boundaryTime16 s s.sys.frameNo)
  let on := decide (e.natAbs ≤ s.time.alignTol)
  let was := s.clk.aligned
  let s := { s with clk := { s.clk with alignErr := e, aligned := on } }
  if on = was then s
  else
    let s := postEvent Ev.timeAlign none 0 (u8 (Fx.b2n on) ++ u8 0 ++ u8 0 ++ u8 0 ++ s32 e) s
    if on then s else report Src.clock K.timeAlign 1 0 0 s

/-- The times that a boundary latches (R288, R505). -/
def latchBoundary (s : State) : State :=
  let t := (boundaryTime16 s s.sys.frameNo).toNat / 65536
  { s with clk := { s.clk with boundaryNs := t % 2 ^ 32, boundaryTime := t } }

/-- The first boundary after an interruption (R22, R23): the first grid instant at least 64 samples after the boundary at
which the sequencer stopped, and after the latest sample tick, whose media-clock count B divides. -/
def restartIndex (s : State) (b : Nat) : Nat :=
  let j0 := max (s.clk.sampleJ + 1) (s.clk.boundaryJ + 64)
  let c := gridMediaCount s j0
  j0 + (b - c % b) % b

/-- Ports whose stop ramp has ended start again with their new configuration, and with it a generator that no trigger starts
(R227, R244). -/
def restartPorts (s : State) : State :=
  s.port.port.foldl (fun s e => match e.2.next with
    | some c => if 64 ≤ e.2.stopRamp ∨ !e.2.outOn then startGen e.1 (assignGen c (putPort e.1 (restartPort e.2 c) (asrcDrop e.1 s))) else s
    | none => s) s

/-- A player block's reconcile point is the start of the frame before the one that reads it (R328). -/
def statePlayers (s : State) : State :=
  if !inCopyOrStep s then s
  else
    let f := s.sys.frameNo + 1
    s.peat.voice.foldl (fun s e =>
      if e.2.state = 0 then s
      else
        let (ys, v, _) := voiceRun s s.sys.b (playCount s + s.sys.b) { e.2 with missing := false }
        let s := putVoice e.1 { e.2 with ahead := some (f, ys) } s
        stateArrival { item := .block e.1 (linkFrame s f), here := !v.missing, crc := crc32c (ys.flatMap sampleB) } s) s

/-- Commands that the partner has not acknowledged within the heartbeat timeout (R330): the active engine commits them
alone, and the pair leaves step. -/
def ackDeadline (s : State) : State :=
  let late := s.pair.txns.filter fun t => !t.acked && decide (t.sentAt + usTicks s.pair.link.timeoutUs ≤ s.clk.raw)
  if !s.pair.activeOut ∨ late = [] then s
  else leaveStep (late.foldl (fun s t => match s.commit.sets.find? fun c => decide (c.txn = some t.id) with
    | some c => commitSetAlone c s
    | none => s) s)

/-- A word that the mover read with an error (R64): corrected in place, brought by the second read, or held by the sinks at
that position. -/
def moveError (s : State) (e : MoveError) : State :=
  match e.outcome with
  | 0 => report (Src.bank e.bank) K.eccCe 1 (bankOffset e.addr) 0 s
  | 1 => report Src.mover K.moveMasked 1 e.addr e.bank s
  | _ => report Src.mover K.moveLasting 3 e.addr e.bank { s with route := { s.route with bad := (e.src, e.pos, e.prev) :: s.route.bad } }

/-- The new boundary: commits, alignment, the sources of the processing frame, and the sample tick that falls with it. -/
def openFrame (level : Bool) (moves : List MoveError) (s : State) : State :=
  let flags := fun i => flagsOf s i
  let frozen := (List.range 1024).filter flags
  let s := alignBoundary (latchBoundary s)
  let s := commitBoundary (adoptBoundary (ackDeadline (expireWaits (followImages s))))
  let s := restartPorts (superviseBoundary (spareMoveStep s))
  let s := cacheStep (divideStaging (retireTerms (selectBoundary (routeBoundary s))))
  let s := copyBoundary (moves.foldl moveError s)
  let s := setPair (fun p => { p with stepAtBoundary := decide (p.state = 4) }) s
  let s := match captureOf s with
    | some k => if s.sys.pairEn then sendRecon (k + 1) (fetchDeadline (reconDeadline k s)) else s
    | none => s
  let s := statePlayers (startFrame (fun i => frozen.contains i) s)
  clockOutputs (interlockTick level (tickPorts s))

/-- Finalise the input period that ends with the boundary (R25). -/
def lastPeriod (s : State) : State :=
  s.port.port.foldl (fun s e => if e.2.inOn ∧ atEngineRate s e.1 then finalisePeriod e.1 (s.clk.boundaryJ + s.sys.b - 1) s else s) s

/-- A boundary in running operation. -/
def frameTick (level : Bool) (ending : FrameEnd) (moves : List MoveError) (s : State) : State :=
  let s := makeUpTicks (s.clk.boundaryJ + s.sys.b) s.sys.b s
  let time := frameTime s
  let count := frameCount s
  let jb := s.clk.boundaryJ + s.sys.b
  let grows := growsNow s
  let (skip, s) := extendGrid s
  let s := advanceToCount (gridCount s jb) s
  let s := closeCapture (lastPeriod s)
  let s := closeFrame time count skip (!grows) ending.slack ending.late s
  let s := { s with
    sys := { s.sys with frameNo := s.sys.frameNo + 1 }
    clk := { s.clk with sampleJ := jb, boundaryJ := jb }
    route := { s.route with bad := [] } }
  openFrame level moves s

/-- The frame tick starts for the first time, at the next grid instant that is a boundary (R22). -/
def firstFrame (level : Bool) (moves : List MoveError) (s : State) : State :=
  let b := s.sys.b
  let j := Fx.ceilDiv (gridIndex s) b * b
  let s := { s with sys := { s.sys with running := true }, clk := { s.clk with sampleJ := j, boundaryJ := j } }
  openFrame level moves (advanceToCount (gridCount s j) s)

/-- Every task's persistent state is cleared, that of generators and detectors with it; run indices go on, and buses stand at
their committed trims (R23, R160). -/
def clearAll (s : State) : State :=
  let trims := Tbl.mapV (fun l (_ : Bus) => let g := busTrim (effGet s (0x400 + l)); ({ trim := { g0 := g, g1 := g } } : Bus)) s.mix.bus
  let s := { s with
    blk := { s.blk with st := [], cur := [], prev := [], sink := [], stripMeter := [], meter := [], pilot := [], asrc := [] }
    mix := { s.mix with
      bus := trims
      inp := Tbl.mapV (fun _ (i : MixInput) => { i with samples := [], flags := [], lastX := 0, hold := 0, presPrev := false, presNow := false }) s.mix.inp }
    frond := { s.frond with
      tasks := Tbl.mapV (fun _ (t : ExpertTask) => { t with undo := [] }) s.frond.tasks, core := [], mark := [] } }
  s.frond.tasks.foldl (fun s e => clearTask e.1 s) s

/-- The restart after an interruption (R23): the new rate and B with the placement that they need (R186), every task's state
cleared, gaps in the record, outputs from silence. -/
def restartFrames (level : Bool) (moves : List MoveError) (rate b : Nat) (s : State) : State :=
  let t0 := frameTime s
  let c0 := frameCount s
  let j := restartIndex s b
  let s := makeUpTicks j (64 + b) s
  let s := advanceToCount (gridCount s j) s
  -- the grid of the new rate passes through the present instant
  let g := gridCount s j
  let s := { s with sys := { s.sys with rate := rate, b := b, interrupted := none, frameNo := s.sys.frameNo + 1 } }
  let s := { s with clk := { s.clk with sampleJ := j, boundaryJ := j, gridG := g - (j : Int) * 65536000000000 / fsNow s } }
  let len := (gridMediaCount s j : Int) - c0
  let s := s.peat.track.foldl (fun s e => if e.2.recording then writeGap e.1 c0 t0 len.toNat 3 (closeSegment e.1 false s) else s) s
  let s := clearAll (settlePlacement (placeTasks s (tasksOf s [effView s])).1 s)
  let s := report Src.sequencer K.reconfig 0 0 0 (assignGens s)
  let sinks := Tbl.mapV (fun id (k : SinkState) =>
    if 0xC00 ≤ id ∧ id < 0x1800 then { k with xfade := some { hold := some 0, pos := 0, len := 64 } } else k) s.route.sinks
  openFrame level moves { s with route := { s.route with sinks := sinks, bad := [] } }

/-- FRAME_TICK: the next boundary. The frame tick runs once the time function is ready (R19, R22). Operands: PARTNER_ACTIVE
at the tick; the output buffers and stage-5 writes that are not complete (R15, R43); the slack of the frame that ends (log
entry 12); and words that the mover reads with an error in the frame that begins (R64). -/
def execFrameTick (partner : Bool) (ending : FrameEnd) (moves : List MoveError) (s : State) :
    Host.Outcome State Fault Refusal :=
  .next (if !s.sys.running then (if isReady s Fn.time then firstFrame partner moves s else s)
    else match s.sys.interrupted with
      | some (rate, b) => restartFrames partner moves rate b s
      | none => frameTick partner ending moves s)

/-- The sub-frame tick at a core: its sample position, and the tick for a task that has enabled it and names a handler
(R157, R170). -/
def tickCore (s : State) (c : Nat) (k : Core) : Core :=
  let k := { k with spos := framePos s }
  match k.run.page.bind (Tbl.find s.frond.tasks) with
  | some t =>
    if k.taskSw.getLsbD 12 ∧ t.tickHandler.isSome then
      { k with waitTick := true }.takeEvents t (endsAt s.frond (c / 4) (c % 4) k.main.pc)
    else k
  | none => k

/-- SUB_FRAME_TICK (R157): the position moves on; a core whose task has enabled the tick and names a handler takes it. -/
def execSubFrameTick (s : State) : Host.Outcome State Fault Refusal :=
  .next (if !s.sys.running ∨ framePos s = 0 then s
    else { s with frond := { s.frond with core := Tbl.mapV (tickCore s) s.frond.core } })

/-! ### Tasks (R36, R37, R156, R165) -/

/-- A core of its frond runs the task. -/
def onCore (s : State) (key : Nat) : Bool :=
  s.frond.core.any fun c => decide (c.1 / 4 = frondOf s key) && decide (c.2.run.page = some (key % 65536))

/-- A task waits for its second run (R37). -/
def retryDue (s : State) (key : Nat) : Bool :=
  match Tbl.find s.frond.mark key with | some (.flagged _) => !onCore s key | _ => false

/-- The order of a frond's dispatch list (R156): stage, then decreasing cost; equal tasks by key (DESIGN CHOICE, log entry
81). -/
def dispatchedBefore (a b : Nat × Placed) : Bool :=
  decide (a.2.stage < b.2.stage) || (decide (a.2.stage = b.2.stage) &&
    (decide (b.2.cost < a.2.cost) || (decide (a.2.cost = b.2.cost) && decide (a.1 < b.1))))

/-- No task of the frond comes first: none that waits for its second run, and of those that could start none before this one
in the dispatch list (R37, R156). -/
def isNext (s : State) (key : Nat) (p : Placed) : Bool :=
  s.frond.placed.all fun e => decide (e.1 = key) || decide (e.2.frond ≠ p.frond) ||
    !(retryDue s e.1 || (dispatchedBefore e (key, p) && decide (Tbl.find s.frond.mark e.1 = some .waiting) && taskReady s e.1))

/-- A task that may start (R156): its frames run, a core of its frond is free, its sources are complete, and it is next. -/
def mayStart (s : State) (key core : Nat) : Bool :=
  match Tbl.find s.frond.placed key with
  | some p => s.sys.interrupted.isNone && coreFree s p.frond core && taskReady s key && isNext s key p
  | none => false

/-- Delay words that a library task's run reads with an error (R79): the records, and the positions that stay without their
word. A task with no delay in use reads none. -/
def delayErrors (key : Nat) (es : List DelayError) (s : State) : List Nat × State :=
  match delayPage s key with
  | none => ([], s)
  | some _ =>
    ((es.filter (·.again)).map (·.pos), es.foldl (fun s e =>
      if e.again then report (frondOf s key) K.delayLasting 3 e.addr e.bank s
      else report (frondOf s key) K.delayMasked 1 e.addr e.bank s) s)

/-- A run of a task on a core: a library task's at once, an expert task's as far as its first instruction. `c` is what its
checks find: corrected words, delay words, and the flag that discards it (R36, R79). -/
def runTask (key core : Nat) (second : Bool) (c : RunChecks) (s : State) : State :=
  let f := frondOf s key
  let s := c.corrected.foldl (correctedWord f) s
  if isLibrary s key then
    let (bad, s) := delayErrors key c.delays s
    match c.flagged with
    | some loc => raiseFlag key loc s
    | none =>
      let s := match Tbl.find s.frond.mark key with
        | some (.flagged l) => report f K.taskMasked 1 (taskIndex key l) 0 s
        | _ => s
      setMark key .committed (runLibrary key bad s)
  else
    let s := enterRun key f core second (if second then s else setMark key .running s)
    match c.flagged with
    | some loc => raiseFlag key loc s
    | none => s

/-- The core MAC that an injected residue error names, else its lane's (log entry 82). -/
def namesCore (x : Nat × Nat × Nat) : Bool := decide (x.2.1 < 32) && decide (x.2.2 < 4)

/-- A task's first run on a core, with the faults that TEST.INJECT has put there (R380): a stalled handshake holds the core, and
the deadline check meets it; a residue error raises the flag of the core's MAC (R350). -/
def startTask (key core : Nat) (c : RunChecks) (s : State) : State :=
  let f := frondOf s key
  match takeInjected (fun x => decide (x = (3, f, core))) s with
  | (true, s) => setMark key .running (putCore f core { coreOf s f core with run := .heldFlags (key % 65536) 16 } s)
  | (false, s) =>
    let (res, s) := takeInjected (fun x => decide (x = (2, f, core))) s
    runTask key core false (if res then { c with flagged := some (2 ^ 28 + core) } else c) s

/-- TASK_START (R156). A library run is whole, an expert run goes on in the core's instructions. -/
def execTaskStart (key core : Nat) (checks : RunChecks) (s : State) : Host.Outcome State Fault Refusal :=
  .next (if Tbl.find s.frond.mark key = some .waiting ∧ mayStart s key core then startTask key core checks s else s)

/-- The second run of a flagged task, once a core of its frond is free (R37, R42, R187). -/
def secondRun (key core : Nat) (checks : RunChecks) (s : State) : State :=
  if retryDue s key ∧ s.sys.interrupted.isNone ∧ coreFree s (frondOf s key) core then
    runTask key core true checks (countTaskRetry (key % 65536) (countRetry (frondOf s key) s))
  else s

/-- TASK_RETRY (R37): the run of an expert task that is under way raises a flag at `loc`, and a flagged task runs again on the
first core that is free. `checks` is what the second run finds. -/
def execTaskRetry (key core loc : Nat) (checks : RunChecks) (s : State) : Host.Outcome State Fault Refusal :=
  .next (match Tbl.find s.frond.mark key with
    | some .running => secondRun key core checks (raiseFlag key loc s)
    | some (.flagged _) => if onCore s key then raiseFlag key loc s else secondRun key core checks s
    | _ => s)

/-- TASK_OVERRUN (R165): the run has gone past its declared counts. -/
def execTaskOverrun (frond core : Nat) (s : State) : Host.Outcome State Fault Refusal :=
  let k := coreOf s frond core
  .next (match k.run.page with
    | some p => match Tbl.find s.frond.tasks p with
      | some t => if pastLimit s t k then stopRun frond p K.taskOverrun s else s
      | none => s
    | none => s)

/-! ### Bracken (R110, R116, R122, R124) -/

/-- Add a term's products to its level's sums; the lane that has taken its last term stores its bus. -/
def takeTerm (lane m : Nat) (s : State) : State :=
  let i := Tbl.getD s.mix.inp m {}
  let x := Tbl.getD s.mix.xp (xpKey lane m) {}
  let level := (crossIn s lane (effRec s (0x400 + lane)) m).level
  let (ps, x) := termRun x i.samples i.flags
  let b := busOf s lane
  let b := { b with sums := addProducts level 0 ps b.sums, taken := m :: b.taken }
  let s := putBus lane b { s with mix := { s.mix with xp := Tbl.put s.mix.xp (xpKey lane m) x } }
  if (liveTerms s lane).all fun k => b.taken.contains k then finishLane lane s else s

/-- The source of a mix input is complete for the frame, as far as it is read in the same frame (R26). -/
def inputDone (s : State) (m : Nat) : Bool :=
  let k := (Tbl.getD s.mix.inp m {}).sel
  let ok := fun (src : Option Nat) flag => match src with | some c => readsPrev s (some c) 2 flag || sourceDone s c | none => true
  ok k.carried k.prevFrame && (match k.xfade with | some x => ok x.old x.oldPrev | none => true)

/-- What the checks of a term find (R124): 1 and 2 a residue failure whose recomputation passes or fails, 3 to 5 a
lane-memory word that is corrected, reads right the second time, or does not, 6 to 8 a fetched input word that reads right
the second time, does not, or is corrected. A lane's MAC is one location whatever the input, and its words lie six bytes apart
(R38, R109). -/
def termError (lane m err : Nat) (w : DelayError) (s : State) : State :=
  let k := (Tbl.getD s.mix.inp m {}).sel
  match err with
  | 1 => reportAt (2 ^ 61 + lane) (Src.lane lane) K.mixMasked 1 m 0 s
  | 2 => report (Src.lane lane) K.mixLasting 3 m 0 (putBus lane { busOf s lane with failed := true } { s with frond := { s.frond with invalid := true } })
  | 3 => report (Src.lane lane) K.eccCe 1 (6 * m) 0 s
  | 4 => report (Src.lane lane) K.mixMasked 1 m 0 s
  | 5 =>
    let x := Tbl.getD s.mix.xp (xpKey lane m) {}
    report (Src.lane lane) K.mixLasting 3 m 0 { s with mix := { s.mix with xp := Tbl.put s.mix.xp (xpKey lane m) { x with frozen := true } } }
  | 6 => moveError s { src := 0, pos := w.pos, prev := false, addr := w.addr, bank := w.bank, outcome := 1 }
  | 7 => match k.carried with
    | some src => moveError s { src := src, pos := w.pos, prev := readsPrev s k.carried 2 k.prevFrame, addr := w.addr, bank := w.bank, outcome := 2 }
    | none => s
  | 8 => moveError s { src := 0, pos := w.pos, prev := false, addr := w.addr, bank := w.bank, outcome := 0 }
  | _ => s

/-- LANE_TERM (R122): the lane takes an assigned term whose source is complete. -/
def execLaneTerm (lane input err : Nat) (word : DelayError) (s : State) : Host.Outcome State Fault Refusal :=
  .next (let b := busOf s lane
    if s.sys.running ∧ !b.stored ∧ (liveTerms s lane).contains input ∧ !b.taken.contains input ∧ inputDone s input then
      let (res, s) := takeInjected (fun x => decide (x.1 = 2 ∧ x.2.1 = lane) && !namesCore x) s
      takeTerm lane input (fetchInput input (termError lane input (if res then 1 else err) word s))
    else s)

/-- STEP_TIMEOUT (R116): T samples without a flag start the interpolation of the next step. -/
def execStepTimeout (lane input : Nat) (s : State) : Host.Outcome State Fault Refusal :=
  .next (let x := Tbl.getD s.mix.xp (xpKey lane input) {}
    match x.steps, x.interp with
    | g :: gs, none =>
      if x.timeout ≤ x.wait ∧ !x.frozen then
        { s with mix := { s.mix with xp := Tbl.put s.mix.xp (xpKey lane input) { x with steps := gs, interp := some (x.applied, g, 0), wait := 0 } } }
      else s
    | _, _ => s)

/-! ### The supply servo (R40, R42, R518) -/

/-- The value that VCORE moves to in one interval: one step of 2.5 mV at most (R40, R518). -/
def servoStep (p : Power) (low : Nat) : Nat :=
  match p.direct with
  | some v => if p.vcore + 2500 ≤ v then p.vcore + 2500 else if v + 2500 ≤ p.vcore then p.vcore - 2500 else v
  | none =>
    if low + 20 < p.target then (if p.vcore < 860000 then p.vcore + 2500 else p.vcore)
    else if p.target + 20 < low then (if 680000 < p.vcore then p.vcore - 2500 else p.vcore)
    else p.vcore

/-- The alarm's intervals (R42): ten with it at 0.86 V bring CAPACITY, ten without it end it. The first alarm under direct
control returns VCORE to the servo (R518). -/
def alarmInterval (s : State) : State :=
  let top := decide (s.pwr.vcore = 860000)
  let run : Nat := if s.frond.alarmNow ∧ top then s.frond.alarmRun + 1 else 0
  let quiet : Nat := if s.frond.alarmNow then 0 else s.frond.quietRun + 1
  let fr : Fronds := { s.frond with
    alarmRun := run, quietRun := quiet, latestMin := s.frond.intervalMin, intervalMin := 1000, alarmNow := false }
  let s := { s with frond := fr, pwr := { s.pwr with direct := if s.frond.alarmNow then none else s.pwr.direct } }
  if 10 ≤ run ∧ !s.frond.capacity then
    report Src.sequencer K.capacity 3 0 0 { s with frond := { s.frond with capacity := true } }
  else if 10 ≤ quiet ∧ s.frond.capacity then
    endCondition Src.sequencer K.capacity 3 { s with frond := { s.frond with capacity := false } }
  else s

/-- SERVO_INTERVAL: every 10 ms. The hour's samples of VCORE feed the ageing record (R378). -/
def execServoInterval (s : State) : Host.Outcome State Fault Refusal :=
  .next (if !s.pwr.handed then s
    else
      let v := servoStep s.pwr s.frond.intervalMin
      let ag := { s.pwr.ageing with hour := s.pwr.ageing.hour ++ [v], direct := s.pwr.ageing.direct || s.pwr.direct.isSome }
      alarmInterval { s with pwr := { s.pwr with vcore := v, ageing := ag } })

end Sys2Proof.Machine
end

