-- ==== Sys2Proof/Machine/Memory.lean ====
section
/-!
DEFINITION. Memories, the bulk-bank arbiter, semaphores and DMA (15): the control address map, alias writes, access
turns with preemption, hog and starvation, freeze, semaphores, descriptors.
-/
namespace Sys2Proof.Machine
open Sys2Proof

/-! ### Control space (R417, R437) -/

/-- What a control address names. -/
inductive Region where
  | bootRom (off : Nat)
  | sram (off : Nat)
  | mailbox (off : Nat)
  | twin (off : Nat)
  | bulk (off : Nat)
  | regs (off : Nat)
  | setAlias (off : Nat)
  | clearAlias (off : Nat)
  | outbound (off : Nat)
  | none
  deriving DecidableEq, Repr

/-- The control address map (R417). -/
def regionOf (remap : Bool) (a : Nat) : Region :=
  if a < 0x40000 ∧ !remap then .bootRom a
  else if a < 0x800000 ∧ remap then .sram a
  else if 0x10000000 ≤ a ∧ a < 0x10800000 then .sram (a - 0x10000000)
  else if 0x20000000 ≤ a ∧ a < 0x20010000 then .mailbox (a - 0x20000000)
  else if 0x28000000 ≤ a ∧ a < 0x28040000 then .twin (a - 0x28000000)
  else if 0x30000000 ≤ a ∧ a < 0x3C000000 then .bulk (a - 0x30000000)
  else if 0x40000000 ≤ a ∧ a < 0x40010000 then .regs (a - 0x40000000)
  else if 0x50000000 ≤ a ∧ a < 0x50800000 then .setAlias (a - 0x50000000)
  else if 0x60000000 ≤ a ∧ a < 0x60800000 then .clearAlias (a - 0x60000000)
  else if 0x80000000 ≤ a ∧ a < 0x100000000 then .outbound (a - 0x80000000)
  else .none

/-- A bus error (R417). -/
def busError (addr master : Nat) (s : State) : State := report Src.matrix K.busError 2 addr master s

/-! ### The bus matrix (R421, R422) -/

/-- Default priorities of the bus matrix by master and target; none where the matrix has no path (R421). -/
def defaultPriority (master target : Nat) : Option Nat :=
  let row : List (Option Nat) := match master with
    | 0 => [some 7, some 7, none, none, none, none, none]
    | 1 => [some 6, some 6, none, some 6, some 6, some 6, some 6]
    | 2 => [none, none, some 5, none, some 5, none, none]
    | 3 => [none, some 3, some 3, none, none, some 3, some 4]
    | 4 => [none, some 4, none, none, some 4, none, none]
    | 5 => [none, some 5, none, none, some 5, none, none]
    | 6 => [none, some 5, none, none, some 5, some 7, none]
    | _ => []
  row.getD target none

/-- A priority in force, at master × 7 + target. -/
def priorityOf (s : State) (i : Nat) : Nat :=
  match defaultPriority (i / 7) (i % 7) with
  | some d => Tbl.getD s.arb.prio i d
  | none => Config.absentPath i

/-- A master that requests a target, and RAW at its request. -/
structure BusReq where
  master : Nat
  since : Nat
  deriving DecidableEq, Repr

/-- The priority of a request at a target: 7 once it has waited 4 µs (R422). -/
def BusReq.priority (s : State) (target : Nat) (r : BusReq) : Nat :=
  if usTicks 4 ≤ s.clk.raw - r.since then 7 else priorityOf s (r.master * 7 + target)

/-- The place of a master in the turn that starts after the master granted last (R422). -/
def turnAfter (last master : Nat) : Nat := (master + 6 - last) % 7

/-- A request comes before another at a target: the higher priority, and of equal ones the first in turn. -/
def BusReq.before (s : State) (target last : Nat) (a b : BusReq) : Bool :=
  let x := a.priority s target
  let y := b.priority s target
  decide (y < x) || (decide (x = y) && decide (turnAfter last a.master < turnAfter last b.master))

/-- The master that a target granted last; one that has granted none, as one that is idle, stands parked on M1 (R422). -/
def lastGrant (s : State) (target : Nat) : Nat := Tbl.getD s.arb.granted target 1

/-- The request that a target grants next among those that wait for it (R422). -/
def grantNext (s : State) (target : Nat) : List BusReq → Option BusReq
  | [] => none
  | a :: rest => match grantNext s target rest with
    | none => some a
    | some b => some (if a.before s target (lastGrant s target) b then a else b)

/-- A target grants a transaction. -/
def grantTarget (target : Nat) (waiting : List BusReq) (s : State) : State :=
  match grantNext s target waiting with
  | some r => { s with arb := { s.arb with granted := Tbl.put s.arb.granted target r.master } }
  | none => s

/-- An access of a master over the matrix. Commands come one after another, in grant order, so nothing else waits (log entry
72). The SPI slave enters through M2 (R421). -/
def onBus (master target : Nat) (s : State) : State :=
  grantTarget target [{ master := if master = 7 then 2 else master, since := s.clk.raw }] s

/-- One read-modify-write of control SRAM: bytes enabled are ORed with, or cleared by, the value's bytes (R420). -/
def aliasWrite (set : Bool) (off v enables : Nat) (s : State) : State :=
  let base := off / 4 * 4
  let old := s.mem.sram.readLE base 4
  let new := (List.range 4).foldl (fun w i =>
    let b := old / 256 ^ i % 256
    let x := v / 256 ^ i % 256
    let r := if !Fx.bit enables i then b else if set then b ||| x else b &&& (255 - x)
    w + r * 256 ^ i) 0
  { s with mem := { s.mem with sram := s.mem.sram.writeLE base new 4 } }

def execSetAliasWrite (offset value enables : Nat) (s : State) : Host.Outcome State Fault Refusal :=
  .next (if offset < 0x800000 then aliasWrite true offset value enables (onBus 1 1 s) else busError (0x50000000 + offset) 1 s)

def execClearAliasWrite (offset value enables : Nat) (s : State) : Host.Outcome State Fault Refusal :=
  .next (if offset < 0x800000 then aliasWrite false offset value enables (onBus 1 1 s) else busError (0x60000000 + offset) 1 s)

/-- Only one write of 1, from M0 or M1, while SYS_REMAP holds 0 (R418). A host's write is ignored and counted (R495). -/
def execSysRemapWrite (master value : Nat) (s : State) : Host.Outcome State Fault Refusal :=
  .next <|
    let s := onBus master 4 s
    if master ≤ 1 then (if value = 1 ∧ !s.sys.remap then { s with sys := { s.sys with remap := true } } else s)
    else { s with sys := { s.sys with writeIgnored := (s.sys.writeIgnored + 1) % 2 ^ 32 } }

/-! ### Semaphores (R434, R435, R507) -/

def semOf (s : State) (n : Nat) : Sem := Tbl.getD s.arb.sem n {}
def putSem (n : Nat) (x : Sem) (s : State) : State := { s with arb := { s.arb with sem := Tbl.putD s.arb.sem n x {} } }

/-- A host's write to a semaphore that firmware owns is ignored (R507). -/
def semHostIgnored (master n : Nat) : Bool := (decide (master = 2) || decide (master = 7)) && decide (n < 128)

/-- Count a write that is ignored (R495). -/
def ignoreWrite (s : State) : State := { s with sys := { s.sys with writeIgnored := (s.sys.writeIgnored + 1) % 2 ^ 32 } }

def execSemAcquire (master n tag : Nat) (s : State) : Host.Outcome State Fault Refusal :=
  .next <|
    let s := onBus master 4 s
    if semHostIgnored master n then ignoreWrite s
    else
      let x := semOf s n
      if x.held then s else putSem n { x with held := true, master := master, tag := tag } s

def execSemRelease (master n tag : Nat) (s : State) : Host.Outcome State Fault Refusal :=
  .next <|
    let s := onBus master 4 s
    if semHostIgnored master n then ignoreWrite s
    else
      let x := semOf s n
      if x.held ∧ x.master = master ∧ x.tag = tag then putSem n {} s
      else { s with arb := { s.arb with badRelease := (s.arb.badRelease + 1) % 2 ^ 16 } }

/-- Release the semaphores of an owner that was reset: FREE, marked ABANDONED, logged (R435). -/
def abandonSems (owner : Sem → Bool) (s : State) : State :=
  (s.arb.sem.filter fun p => p.2.held && owner p.2).foldl (fun s p =>
    let s := putSem p.1 { held := false, abandoned := true, master := 0, tag := 0 } s
    let s := { s with arb := { s.arb with abandoned := (s.arb.abandoned + 1) % 2 ^ 16 } }
    let s := report Src.sems K.semAbandoned 1 p.1 0 s
    if 128 ≤ p.1 then raiseInt 21 s else s) s

/-! ### The bulk-bank arbiter (R425 to R433) -/

def groupOf (s : State) (g : Nat) : Group := Tbl.getD s.arb.group g {}
def putGroup (g : Nat) (x : Group) (s : State) : State := { s with arb := { s.arb with group := Tbl.put s.arb.group g x } }

/-- Default background rank of a requester (R426). -/
def defaultRank (r : Nat) : Nat :=
  if r < 32 then 10
  else match r with
    | 32 => 14 | 33 => 14 | 34 => 15 | 35 => 13 | 36 => 8 | 37 => 6 | 38 => 11 | 39 => 2 | 40 => 1
    | _ => 0

def rankOf (s : State) (r : Nat) : Nat := Tbl.getD s.arb.rank r (defaultRank r)

/-- The oldest pending burst of a requester, and the queue without it. -/
def takeBurst (r : Nat) : List Burst → Option (Burst × List Burst)
  | [] => none
  | b :: bs => if b.req = r then some (b, bs) else match takeBurst r bs with
    | some (x, rest) => some (x, b :: rest)
    | none => none

/-- Put a stopped burst at the head of its requester's queue (R429). -/
def requeue (b : Burst) (q : List Burst) : List Burst := b :: q

/-- New bursts enter their queues; a requester has at most four pending in the group and waits to add more (R426). -/
def arrive (now : Nat) (q : List Burst) : List BurstReq → List Burst
  | [] => q
  | a :: rest =>
    let q := if (q.filter fun b => b.req = a.req).length < 4 ∧ 1 ≤ a.turns ∧ a.turns ≤ 4 then
        q ++ [{ req := a.req, turns := a.turns, write := a.write, addr := a.addr, bytes := a.bytes, since := now }]
      else q
    arrive now q rest

/-- The code of a group's entry at its present index; 63 is OPEN (R427). -/
def Group.entry (x : Group) : Nat := (Tbl.getD x.slots x.index (63, false)).1

/-- The background's choice: highest rank among requesters with a pending burst that are not barred, ties in code
order after the requester granted last (R428, R430). -/
def bgChoice (s : State) (x : Group) : Option Nat :=
  let order := (List.range 41).map fun i => (x.lastBg + 1 + i) % 41
  let cands := order.filter fun r => x.queue.any (fun b => b.req = r) && !Tbl.has x.bar r
  cands.foldl (fun best r => match best with
    | none => some r
    | some b => if rankOf s b < rankOf s r then some r else best) none

/-- Bars count down with every turn of the group (R430). -/
def countBars (t : Tbl Nat) : Tbl Nat := (t.filter fun p => 1 < p.2).map fun p => (p.1, p.2 - 1)

/-- Some word of a range is poisoned (R364): space 0 control SRAM by offset, 1 bulk by logical address. Words are taken as
four bytes (log entry 40). -/
def poisoned (s : State) (space a n : Nat) : Bool :=
  s.mem.poison.any fun e => decide (e.1 = space ∧ a < 4 * e.2 + 4 ∧ 4 * e.2 < a + n)

/-- A full write of a word replaces its poison (R364). -/
def healWords (space a n : Nat) (s : State) : State :=
  { s with mem := { s.mem with poison := s.mem.poison.filter fun e => !(decide (e.1 = space ∧ a ≤ 4 * e.2 ∧ 4 * e.2 + 4 ≤ a + n)) } }

/-- One more turn of a running burst; at its last turn a write commits whole (R425). -/
def runTurn (g : Nat) (x : Group) (r : Running) (s : State) : State :=
  let x := { x with turns := Tbl.alter x.turns r.burst.req 0 (fun n => (n + 1) % 2 ^ 32) }
  if r.burst.turns ≤ r.done + 1 then
    let s := if r.burst.write then
        healWords 1 r.burst.addr r.burst.bytes.length { s with mem := { s.mem with bulk := s.mem.bulk.writeBytes r.burst.addr r.burst.bytes } }
      else s
    putGroup g { x with running := none } s
  else putGroup g { x with running := some { r with done := r.done + 1 } } s

/-- Grant an owner's burst its first turn (R428); the run of a background holder ends. -/
def grantOwner (g : Nat) (x : Group) (s : State) : State :=
  match takeBurst x.entry x.queue with
  | some (b, q) => runTurn g { x with queue := q, holder := none, holds := 0 } { burst := b, done := 0, owner := true } s
  | none => putGroup g x s

/-- A background turn: a new grant, counted towards the holder's consecutive turns (R428, R430). -/
def grantBackground (g : Nat) (x : Group) (s : State) : State :=
  match bgChoice s x with
  | none => putGroup g { x with holder := none, holds := 0 } s
  | some r =>
    match takeBurst r x.queue with
    | some (b, q) =>
      let n := if x.holder = some r then x.holds + 1 else 1
      runTurn g { x with queue := q, lastBg := r, holder := some r, holds := n } { burst := b, done := 0, owner := false } s
    | none => putGroup g x s

/-- A holder reached its maximum: barred for 256 turns, HOG flag set, ARB_HOG logged (R430). -/
def markHog (x : Group) (r : Nat) (s : State) : Group × State :=
  ({ x with bar := Tbl.put x.bar r 256, holder := none, holds := 0 },
   reportLimited Src.arbiter K.arbHog 1 r 0 { s with arb := { s.arb with hog := Fx.setBit s.arb.hog r true } })

/-- One access turn of a bank group (R427 to R433). -/
def arbTurn (g : Nat) (s : State) : State :=
  let x := groupOf s g
  let owner := x.entry
  let pending := owner < 63 && x.queue.any fun b => b.req = owner
  let next := fun (s : State) =>
    if x.frozen then s else let y := groupOf s g; putGroup g { y with index := (y.index + 1) % 256, bar := countBars y.bar } s
  match x.running with
  | some r =>
    if r.owner ∨ x.frozen then next (runTurn g x r s)
    else
      let full := decide (s.arb.hogMax ≤ x.holds)
      if pending then
        let x := { x with running := none, queue := requeue { r.burst with } x.queue }
        let (x, s) := if full then markHog x r.burst.req s else (x, s)
        next (grantOwner g x s)
      else if full then
        let (x, s) := markHog { x with running := none, queue := requeue r.burst x.queue } r.burst.req s
        next (grantBackground g x s)
      else next (runTurn g { x with holds := x.holds + 1 } r s)
  | none =>
    if x.frozen then s
    else if pending then next (grantOwner g x s)
    else
      match x.holder with
      | some r =>
        if s.arb.hogMax ≤ x.holds ∧ x.queue.any (fun b => b.req = r) then
          let (x, s) := markHog x r s
          next (grantBackground g x s)
        else next (grantBackground g x s)
      | none => next (grantBackground g x s)

def execArbTurn (g : Nat) (arrivals : List BurstReq) (s : State) : Host.Outcome State Fault Refusal :=
  .next <|
    if g < 6 then
      let x := groupOf s g
      arbTurn g (putGroup g { x with queue := arrive s.clk.raw x.queue arrivals } s)
    else s

/-- A burst has waited past the starvation threshold: the flag, the arbiter interrupt and ARB_STARVE (R431). The timers
of a frozen group pause (R432). -/
def execArbStarve (g req : Nat) (s : State) : Host.Outcome State Fault Refusal :=
  .next <|
    let x := groupOf s g
    let starving := fun (b : Burst) => b.req = req && !b.starved && decide (usTicks s.arb.starveUs < s.clk.raw - b.since)
    if g < 6 ∧ !x.frozen ∧ x.queue.any starving then
      let x := { x with starve := Fx.setBit x.starve req true,
                        queue := x.queue.map fun b => if starving b then { b with starved := true } else b }
      report Src.arbiter K.arbStarve 2 req g (raiseInt 14 (putGroup g x s))
    else s

/-- ARB_FREEZE is written: it takes effect in the maintenance state only, and is counted otherwise; a write that sets a
reserved bit is ignored whole (R432, R495, R510). -/
def execArbFreezeWrite (path value : Nat) (s : State) : Host.Outcome State Fault Refusal :=
  .next <|
    if 64 ≤ value then ignoreWrite s
    else if !inMaint s then { s with arb := { s.arb with freezeDenied := (s.arb.freezeDenied + 1) % 2 ^ 16 } }
    else
      let s := { s with arb := { s.arb with freeze := value } }
      (List.range 6).foldl (fun s g =>
        let x := groupOf s g
        let f := Fx.bit value g
        -- the starvation timers pause while frozen: each goes on with the time that it stood at
        if x.frozen && !f then
          putGroup g { x with frozen := f, queue := x.queue.map fun b => { b with since := s.clk.raw - (x.frozenAt - b.since) } } s
        else putGroup g { x with frozen := f, frozenAt := if f && !x.frozen then s.clk.raw else x.frozenAt } s) s

/-- Group g reports DRAINED: frozen with no burst in progress, or unfrozen and idle (R510). -/
def drained (s : State) (g : Nat) : Bool :=
  let x := groupOf s g
  if x.frozen then x.running.isNone else x.running.isNone && x.queue.isEmpty

/-- Write ones to clear in a half of a 41-bit flag word (R498, R510). -/
def clearHalf (flags : Nat) (hi : Bool) (v : Nat) : Nat :=
  (List.range 32).foldl (fun f i => if Fx.bit v i then Fx.setBit f (i + if hi then 32 else 0) false else f) flags

/-- Bits of the high word above the requesters are reserved: such a write is ignored whole (R495, R510). -/
def highReserved (hi : Bool) (v : Nat) : Bool := hi && decide (512 ≤ v)

def execArbHogClear (hi : Bool) (value : Nat) (s : State) : Host.Outcome State Fault Refusal :=
  .next <|
    if highReserved hi value then ignoreWrite s
    else { s with arb := { s.arb with hog := clearHalf s.arb.hog hi value } }

def execArbStarveClear (g : Nat) (hi : Bool) (value : Nat) (s : State) : Host.Outcome State Fault Refusal :=
  .next <|
    if highReserved hi value ∨ 6 ≤ g then ignoreWrite s
    else let x := groupOf s g; putGroup g { x with starve := clearHalf x.starve hi value } s

/-! ### DMA (R436 to R442, R508) -/

def dmaOf (s : State) (c : Nat) : Dma := Tbl.getD s.arb.dma c {}
def putDma (c : Nat) (x : Dma) (s : State) : State := { s with arb := { s.arb with dma := Tbl.put s.arb.dma c x } }

/-- A host path may start and abort channels 12 to 15 only (R508); Mladir (path 2) all of them. -/
def dmaAllowed (path ch : Nat) : Bool := decide (ch < 16) && (decide (path = 2) || decide (12 ≤ ch))

def execDmaGo (path ch : Nat) (s : State) : Host.Outcome State Fault Refusal :=
  .next <|
    if !dmaAllowed path ch then ignoreWrite s
    else
      let x := dmaOf s ch
      if x.state = 1 then ignoreWrite s
      else if 12 ≤ ch ∧ !(decide (0x20000000 ≤ x.desc) && decide (x.desc < 0x20010000) && decide (x.desc % 32 = 0)) then
        putDma ch { x with state := 5 } s
      else putDma ch { x with state := 1, current := x.desc, abort := false } s

/-- ABORT stops a running channel at its current burst; on an idle channel it reports ABORTED_IDLE (R441). -/
def execDmaAbort (path ch : Nat) (s : State) : Host.Outcome State Fault Refusal :=
  .next <|
    if !dmaAllowed path ch then ignoreWrite s
    else
      let x := dmaOf s ch
      if x.state = 1 then putDma ch { x with abort := true } s else putDma ch { x with state := 3 } s

/-- Words of a frond's memories by memory m of R367 (R437): bytes of word w. -/
def frondBytes (s : State) (f m w : Nat) : List Byte :=
  if m < 4 then le 8 (s.frond.progWord f m w).toNat
  else if m < 8 then le 4 (s.frond.read f (m - 4) false w).toNat
  else if m < 12 then le 4 (s.frond.read f (m - 8) true w).toNat
  else le 4 (s.frond.read f 0 false (0x100000 + w)).toNat

/-- Words that a frond memory holds (R152). -/
def frondWords (m : Nat) : Nat := if m < 4 then 16384 else if m < 12 then 32768 else if m = 12 then 262144 else 0

/-- A byte of a DMA space, or none outside the space (R437). -/
def dmaRead (s : State) (host : List (Nat × Byte)) (space a : Nat) : Option Byte :=
  match space with
  | 0 => match regionOf s.sys.remap a with
    | .sram o => if 0x10000000 ≤ a then some (s.mem.sram.read o) else none
    | .mailbox o => some (mbxByte s o)
    | .twin o => some (s.mem.twl.read o)
    | .setAlias o => some (s.mem.sram.read o)
    | .clearAlias o => some (s.mem.sram.read o)
    | _ => none
  | 1 => if a < 0x0C000000 then some (s.mem.bulk.read a) else none
  | 2 =>
    let f := a / 2 ^ 24
    let m := a / 2 ^ 20 % 16
    let o := a % 2 ^ 20
    let sz := if m < 4 then 8 else 4
    if f < 32 ∧ o / sz < frondWords m then (frondBytes s f m (o / sz))[o % sz]? else none
  | _ => some (Tbl.getD host a 0)

/-- Write a word of a frond memory: program memory and constants are the core's own (R152, R437). -/
def frondPut (s : State) (f m w v : Nat) : State :=
  let fr := s.frond
  { s with frond :=
      if m < 4 then fr.putOwn f m 0 w (v % 2 ^ 48)
      else if m < 12 ∧ 0x1000 ≤ w ∧ w < 0x4000 then fr.putOwn f (m % 4) (m / 4) w (v % 2 ^ 24)
      else if m < 8 then fr.write f (m - 4) false w (BitVec.ofNat 24 v)
      else if m < 12 then fr.write f (m - 8) true w (BitVec.ofNat 24 v)
      else fr.write f 0 false (0x100000 + w) (BitVec.ofNat 24 v) }

/-- Write a byte of a DMA space, or none outside the space. -/
def dmaWrite (s : State) (space a : Nat) (b : Byte) : Option State :=
  match space with
  | 0 => match regionOf s.sys.remap a with
    | .sram o => if 0x10000000 ≤ a then some { s with mem := { s.mem with sram := s.mem.sram.write o b } } else none
    | .mailbox o => some (mbxWriteByte o b s)
    | .twin o => some { s with mem := { s.mem with twl := s.mem.twl.write o b } }
    | .setAlias o => some (aliasWrite true o (b.toNat * 256 ^ (o % 4)) (2 ^ (o % 4)) s)
    | .clearAlias o => some (aliasWrite false o (b.toNat * 256 ^ (o % 4)) (2 ^ (o % 4)) s)
    | _ => none
  | 1 => if a < 0x0C000000 then some { s with mem := { s.mem with bulk := s.mem.bulk.write a b } } else none
  | 2 =>
    let f := a / 2 ^ 24
    let m := a / 2 ^ 20 % 16
    let o := a % 2 ^ 20
    let sz := if m < 4 then 8 else 4
    if f < 32 ∧ o / sz < frondWords m then
      let old := fromLE (frondBytes s f m (o / sz))
      let i := o % sz
      some (frondPut s f m (o / sz) (old - old / 256 ^ i % 256 * 256 ^ i + b.toNat * 256 ^ i))
    else none
  | _ => some { s with out := s.out ++ [.hostWrite a [b]] }

/-- A descriptor as fetched (R438). -/
structure Desc where
  own : Bool
  int : Bool
  chain : Bool
  rev : Bool
  mode : Nat
  src : Nat
  dst : Nat
  esize : Nat
  resv : Nat
  count : Nat
  srcA : Nat
  dstA : Nat
  index : Nat
  nxt : Nat
  deriving DecidableEq, Repr

/-- The bytes of a descriptor at a control address. -/
def descBytes (s : State) (a : Nat) : List Byte := (List.range 32).map fun i => (dmaRead s [] 0 (a + i)).getD 0

/-- Decode a descriptor (R438). -/
def descOf (bs : List Byte) : Desc :=
  let w := fromLE (bs.take 4)
  { own := Fx.bit w 31, int := Fx.bit w 30, chain := Fx.bit w 29, rev := Fx.bit w 28, mode := Fx.bits w 27 26,
    src := Fx.bits w 25 24, dst := Fx.bits w 23 22, esize := (Fx.bits w 21 12 + 1) * 4, resv := Fx.bits w 11 8,
    count := fromLE ((bs.drop 4).take 4), srcA := fromLE ((bs.drop 8).take 8), dstA := fromLE ((bs.drop 16).take 8),
    index := fromLE ((bs.drop 24).take 4), nxt := fromLE ((bs.drop 28).take 4) }

/-- A side of a descriptor is frond program memory. -/
def isProgram (space a : Nat) : Bool := decide (space = 2) && decide (a / 2 ^ 20 % 16 < 4)

/-- The descriptor's values are in range (BAD_DESC of R440). -/
def Desc.ok (d : Desc) : Bool :=
  decide (d.resv = 0) && decide (d.mode ≠ 3) && !(d.rev && decide (d.mode ≠ 0)) &&
  decide (d.srcA < 2 ^ 52) && decide (d.dstA < 2 ^ 52) && decide (d.index % 4 = 0) &&
  (decide (d.mode ≠ 0) || decide (d.index = 0)) &&
  (if d.mode = 0 then decide (d.count % d.esize = 0) && decide (4 ≤ d.count) && decide (d.count ≤ 16777212)
   else decide (1 ≤ d.count) && decide (d.count ≤ 65536)) &&
  (!(isProgram d.src d.srcA || isProgram d.dst d.dstA) || decide (d.esize % 8 = 0))

/-- Elements of a descriptor. -/
def Desc.elements (d : Desc) : Nat := if d.mode = 0 then d.count / d.esize else d.count

/-- Who a channel works for: Mladir, the host, or the host through EXPERT.DMA, which R445 lets reach control SRAM. -/
inductive DmaFor where
  | firmware | host | expert
  deriving DecidableEq, Repr

/-- The limits of R437 on an address. EXPERT.DMA is checked as a host channel (R443) but for control SRAM (R445; log entry
40). -/
def dmaDenied (s : State) (who : DmaFor) (write : Bool) (space a : Nat) : Bool :=
  match space with
  | 0 => (match regionOf s.sys.remap a with
    | .mailbox _ => false
    | .regs _ => true
    | .bootRom _ => true
    | .none => false
    | .sram _ => decide (who = .host)
    | _ => decide (who ≠ .firmware))
  | 1 => write && decide (who ≠ .firmware) && !inMaint s
  | 2 => write && (s.sys.retired.contains (a / 2 ^ 24) || !(inMaint s || decide (s.sys.spareFrond = some (a / 2 ^ 24))))
  | _ => false

/-- How the elements of a descriptor went: the state, elements complete and the status code. -/
structure DmaRun where
  st : State
  done : Nat
  status : Nat

/-- Poison and control SRAM or bulk memory behind an address of a DMA space. -/
def dmaPlace (s : State) (space a : Nat) : Option (Nat × Nat) :=
  match space with
  | 0 => match regionOf s.sys.remap a with
    | .sram o => some (0, o)
    | _ => none
  | 1 => some (1, a)
  | _ => none

/-- Move one element: read in full, then written (R439); a limit of R437 that it breaks ends the descriptor there. -/
def moveElement (host : List (Nat × Byte)) (who : DmaFor) (d : Desc) (i : Nat) (s : State) : State × Nat :=
  let k := if d.rev then d.elements - 1 - i else i
  let lin := k * d.esize
  let idx := if d.mode = 0 then some 0 else
    let bs := (List.range 4).map fun j => dmaRead s host 0 (d.index + 4 * i + j)
    if bs.all Option.isSome then
      let v := fromLE (bs.map fun b => b.getD 0)
      let al := if isProgram d.src d.srcA || isProgram d.dst d.dstA then 8 else 4
      if v % al = 0 then some v else none
    else none
  match idx with
  | none => (s, 0x06)
  | some v =>
    let sa := if d.mode = 1 then d.srcA + v else d.srcA + lin
    let da := if d.mode = 2 then d.dstA + v else d.dstA + lin
    let bs := (List.range d.esize).map fun j => dmaRead s host d.src (sa + j)
    if dmaDenied s who false d.src sa || dmaDenied s who true d.dst da ||
        (decide (d.mode ≠ 0) && dmaDenied s who false 0 (d.index + 4 * i)) then (s, 0x08)
    else if (match dmaPlace s d.src sa with | some p => poisoned s p.1 p.2 d.esize | none => false) then (s, 0x07)
    else if !(bs.all Option.isSome) then
      ((if d.src = 0 then busError sa 3 s else s), if d.mode = 1 then 0x06 else 0x04)
    else
      let go := (List.range d.esize).foldl (fun (o : Option State) j =>
        o.bind fun s => dmaWrite s d.dst (da + j) ((bs.getD j none).getD 0)) (some s)
      match go with
      | some s => (match dmaPlace s d.dst da with | some p => healWords p.1 p.2 d.esize s | none => s, 0x01)
      | none => ((if d.dst = 0 then busError da 3 s else s), if d.mode = 2 then 0x06 else 0x05)

/-- Elements in order up to a limit; `ecc` names an element whose read fails after one reread. -/
def moveElements (host : List (Nat × Byte)) (who : DmaFor) (d : Desc) (ecc : Option Nat) : Nat → Nat → State → State × Nat × Nat
  | 0, i, s => (s, i, 0x01)
  | n + 1, i, s =>
    if ecc = some i then (s, i, 0x07)
    else
      let (s', st) := moveElement host who d i s
      if st = 0x01 then moveElements host who d ecc n (i + 1) s' else (s', i, st)

/-- Log severity of a descriptor's status (R440). -/
def dmaSeverity (st : Nat) : Option Nat :=
  match st with
  | 0x03 => some 1
  | 0x04 => some 2
  | 0x05 => some 2
  | 0x06 => some 1
  | 0x07 => some 2
  | 0x08 => some 1
  | _ => none

/-- Write a word of control space at a descriptor. -/
def descPut (a v : Nat) (s : State) : State :=
  (List.range 4).foldl (fun s i => (dmaWrite s 0 (a + i) (BitVec.ofNat 8 (v / 256 ^ i))).getD s) s

/-- The end of a descriptor (R440): residue, status with OWN = 1, OWN = 0, the registers of R508, the interrupt; then the
channel chains or stops. -/
def descEnd (ch : Nat) (d : Desc) (a ctl residue status : Nat) (s : State) : State :=
  let w := ctl / 256 * 256 + status
  let s := descPut (a + 4) residue s
  let s := descPut a (w % 2 ^ 31 + 2 ^ 31) s
  let s := descPut a (w % 2 ^ 31) s
  let x := dmaOf s ch
  let chains := decide (status = 0x01) && d.chain
  let nxt := if d.nxt = 0 then a + 32 else d.nxt
  let s := putDma ch { x with last := status, count := (x.count + 1) % 2 ^ 32, abort := false,
                              current := if chains then nxt else a,
                              state := if chains then 1 else if status = 0x01 then 0 else 4 } s
  let s := match dmaSeverity status with
    | some sev => report Src.dma K.dmaError sev ch status s
    | none => s
  if 12 ≤ ch ∧ ch ≤ 15 ∧ (status ≠ 0x01 ∨ d.int) then raiseInt (16 + ch - 12) s else s

/-- A descriptor of a running channel runs to its end. `done` is the number of elements complete when an abort stops it. -/
def dmaDescriptor (ch : Nat) (host : List (Nat × Byte)) (ecc : Option Nat) (done : Nat) (s : State) : State :=
  let x := dmaOf s ch
  if x.state ≠ 1 then s
  else
    let a := x.current
    let bs := descBytes s a
    let d := descOf bs
    let ctl := fromLE (bs.take 4)
    let unit := if d.mode = 0 then d.esize else 1
    if !d.own then putDma ch { x with state := if x.abort then 3 else 2, abort := false } s
    else if !d.ok then descEnd ch d a ctl d.count 0x03 s
    else
      let limit := if x.abort then min done d.elements else d.elements
      let (s, n, st) := moveElements host (if 12 ≤ ch then .host else .firmware) d ecc limit 0 s
      let st := if st = 0x01 ∧ n < d.elements then 0x02 else st
      descEnd ch d a ctl (d.count - n * unit) st s

/-- A descriptor of a running channel ends (R440). `host` gives the bytes of host memory read, `ecc` an element whose
read fails its ECC, `done` the elements complete when an abort stops it (log entry 12). -/
def execDmaDescriptorEnd (ch : Nat) (host : List (Nat × Byte)) (ecc : Option Nat) (done : Nat) (s : State) :
    Host.Outcome State Fault Refusal :=
  .next (if ch < 16 then dmaDescriptor ch host ecc done (onBus 3 1 s) else s)

end Sys2Proof.Machine
end

