-- ==== Sys2Proof/Machine/RouteCmds.lean ====
section
/-!
DEFINITION. The ROUTE commands (R479): the checks of R52, what a sink reports (R65, R66), fan-out, and path latencies
(R28, R60).
-/
namespace Sys2Proof.Machine
open Sys2Proof

/-- Which holder's pages a write may touch: none for an immediate write (R131). -/
def ownList (list : Nat) : Option PageStatus := if list = 0 then none else some (.heldList list)

/-- A page is held against a write (R52, R131). -/
def heldAgainst (s : State) (own : Option PageStatus) (p : Nat) : Bool :=
  match own with
  | some o => heldByOther s o p
  | none => isHeld s p

/-- The crossfade length that a connect takes: the default, or the request's, at most 256 (R55). A mover entry states its
length as it is (R66). -/
def Plan.routeLen (pl : Plan) (page field len : Nat) (dflt : Int) (expert : Bool) (at_ entry : Nat) : Plan :=
  if len = 0xFFFF ∧ !expert then (if recGet pl.st page (shadowRec pl.st page) field = dflt then pl else pl.edit page field dflt)
  else
    let a : Int := min len 256
    let pl := pl.clamp at_ entry len a
    if recGet pl.st page (shadowRec pl.st page) field = a then pl else pl.edit page field a

/-- Set a connection's previous-frame bit. An expert entry that asks for the same frame where R58 requires the previous
one is clamped (R59). -/
def Plan.routePrev (pl : Plan) (page field : Nat) (src sink : Nat) (flag expert : Bool) (at_ entry : Nat) : Plan :=
  let need := againstOrder (stageOf pl.st src) (stageOf pl.st sink)
  let want : Int := Fx.b2n flag
  let got : Int := if expert && need then 1 else want
  let pl := pl.clamp at_ entry want got
  if recGet pl.st page (shadowRec pl.st page) field = got then pl else pl.edit page field got

/-- One connect or disconnect, by the rows of R52. `at_` is the byte offset of the entry's crossfade length and of its
previous-frame flag in the request data (R472). -/
def routeEntry (own : Option PageStatus) (expert : Bool) (at_ : Nat → Nat × Nat) (i : Nat) (e : RouteOp) (pl : Plan) :
    Except Reply Plan :=
  let s := pl.st
  let page := e.sink / 256
  let k := e.sink % 256 * 4
  if 1 < e.op then .error (refuse St.conflict)
  else if !named s e.sink then .error (refuse St.noResource (reason 0x07 e.sink))
  else if e.op = 0 ∧ !named s e.src then .error (refuse St.noResource (reason 0x07 e.src))
  else if isSource s e.sink then .error (refuse St.conflict (reason 0x07 e.sink))
  else if e.op = 0 ∧ !isSource s e.src then .error (refuse St.conflict (reason 0x07 e.src))
  else if heldAgainst s own page then .error (refuse St.conflict (reason 0x02 page))
  else
    let cur := srcIn s (shadowRec s page) e.sink
    let (lenAt, prevAt) := at_ i
    if e.op = 1 then (if cur.isNone then .ok pl else .ok (pl.edit page k noEndpoint))
    else if cur = some e.src then
      let pl := if e.len = 0xFFFF ∧ !expert then pl else pl.routeLen page (k + 1) e.len 0 expert lenAt i
      .ok (pl.routePrev page (k + 2) e.src e.sink (Fx.bit e.flags 0) expert prevAt i)
    else if cur.isNone ∧ 65536 ≤ shadowConnections s then .error (refuse St.noResource)
    else
      let pl := pl.edit page k e.src
      let pl := pl.routeLen page (k + 1) e.len s.route.xfDefault expert lenAt i
      .ok (pl.routePrev page (k + 2) e.src e.sink (Fx.bit e.flags 0) expert prevAt i)

/-- ROUTE commands that write. -/
def routeCmd (code : Nat) : Cmd := { code := code, reach := .shared, needs := some Fn.router }

/-- ROUTE.CONNECT (R52): the response names the source that was replaced. -/
def execRouteConnect (r : Req) (list src sink len flags : Nat) (s : State) : Host.Outcome State Fault Refusal :=
  serve (routeCmd 0x0201) r (withFlags 1 flags fun r s =>
    pageWrite r 0x0201 list true (fun s =>
      let cur := srcIn s (shadowRec s (sink / 256)) sink
      match routeEntry (ownList list) false (fun _ => (9, 11)) 0 { op := 0, flags := flags, len := len, src := src, sink := sink } { st := s } with
      | .error e => .error e
      | .ok pl => .ok { pl with data := idB (if cur = some src then none else cur) }) s) s

/-- ROUTE.DISCONNECT (R52). -/
def execRouteDisconnect (r : Req) (list sink : Nat) (s : State) : Host.Outcome State Fault Refusal :=
  serve (routeCmd 0x0202) r (fun r s =>
    pageWrite r 0x0202 list true (fun s =>
      routeEntry (ownList list) false (fun _ => (0, 0)) 0 { op := 1, flags := 0, len := 0, src := 0, sink := sink } { st := s }) s) s

/-- ROUTE.BATCH (R54): every entry is checked before any is written. -/
def execRouteBatch (r : Req) (list : Nat) (entries : List RouteOp) (s : State) : Host.Outcome State Fault Refusal :=
  serve (routeCmd 0x0203) r (withFlags 1 (entries.foldl (fun m e => max m e.flags) 0) fun r s =>
    if entries = [] ∨ 4096 < entries.length then (s, refuse St.badLen)
    else pageWrite r 0x0203 list true (fun s =>
      planEach (routeEntry (ownList list) false fun i => (3 + 12 * i + 2, 3 + 12 * i + 1)) 0 entries { st := s }) s) s

/-! ### Reports -/

/-- A committed connection reads the previous frame (R58, R59). -/
def connectionPrev (s : State) (sink src : Nat) : Bool :=
  decide (activeGet s (sink / 256) (sink % 256 * 4 + 2) = 1) || againstOrder (stageOf s src) (stageOf s sink)

/-- State of a connection by the codes of R66. -/
def connectionState (s : State) (sink : Nat) (src : Option Nat) : Nat :=
  let k := Tbl.getD s.route.sinks sink {}
  let away : Bool := match src with
    | some c => !(present s c && present s sink)
    | none => false
  if k.pend.isSome then 3 else if !k.finished then 2 else if away then 1 else 0

/-- Source of a pending change (R57). -/
def pendingSource (s : State) (sink : Nat) : Option Nat :=
  match (Tbl.getD s.route.sinks sink {}).pend with
  | some p => p.src
  | none => none

/-- ROUTE.QUERY. An ID that is no sink names nothing here (R474). -/
def execRouteQuery (r : Req) (sink : Nat) (s : State) : Host.Outcome State Fault Refusal :=
  serve { code := 0x0204 } r (fun _ s =>
    if !named s sink || isSource s sink then (s, refuse St.noResource (reason 0x07 sink))
    else
      let src := srcIn s (activeRec s (sink / 256)) sink
      let prev : Bool := match src with
        | some c => connectionPrev s sink c
        | none => false
      (s, done [] (idB src ++ idB (pendingSource s sink) ++ u8 (connectionState s sink src) ++ u8 (Fx.b2n prev) ++
        u16 (activeGet s (sink / 256) (sink % 256 * 4 + 1)).toNat))) s

/-- Blocks of strips whose side input selects a source in the committed state, by page (R75). -/
def sideUsers (s : State) (src : Nat) : List Nat :=
  (s.page.active.filter fun e => match pageBlock s e.1 with
    | some (k, pl) => decide (pl ≠ .alone) && (match sideField k with
      | some i => decide (recGet s e.1 e.2 i = (src : Int))
      | none => false)
    | none => false).map (·.1)

/-- The fan-out of a source: committed sinks and selections, ascending; a selection stands as 0x8000_0000 + mix input (R479),
and a side input, for which R479 gives no form, as 0x4000_0000 + page (R75; DESIGN CHOICE, log entry 80). -/
def fanout (s : State) (src : Nat) : List Nat :=
  ((connectedIn s.page.active).filter fun e => e.2 = src).map (·.1) ++ (sideUsers s src).map (fun p => 0x40000000 + p) ++
    ((selectedIn s.page.active).filter fun e => e.2 = src).map fun e => 0x80000000 + e.1

/-- ROUTE.FANOUT: 256 a response, with a continuation index (R65). -/
def execRouteFanout (r : Req) (src next : Nat) (s : State) : Host.Outcome State Fault Refusal :=
  serve { code := 0x0205 } r (fun _ s =>
    if !named s src || !isSource s src then (s, refuse St.noResource (reason 0x07 src))
    else
      let all := fanout s src
      let l := (all.drop next).take 256
      let n := next + l.length
      (s, done [] (u32 (if n < all.length then n else 0) ++ u16 l.length ++ l.flatMap u32))) s

/-- ROUTE.COUNT. -/
def execRouteCount (r : Req) (s : State) : Host.Outcome State Fault Refusal :=
  serve { code := 0x0206 } r (fun _ s =>
    let cs := connectedIn s.page.active
    let dormant := (cs.filter fun e => !(present s e.1 && present s e.2)).length
    let fading := (cs.filter fun e => !(Tbl.getD s.route.sinks e.1 {}).finished).length
    let prev := (cs.filter fun e => connectionPrev s e.1 e.2).length
    (s, done [] (u32 cs.length ++ u32 (shadowConnections s) ++ u32 dormant ++ u32 fading ++ u32 prev))) s

/-- ROUTE.XFADE_DEFAULT (R55). -/
def execRouteXfadeDefault (r : Req) (op len : Nat) (s : State) : Host.Outcome State Fault Refusal :=
  serve { code := 0x0208, reach := if op = 1 then .shared else .read, needs := if op = 1 then some Fn.router else none } r
    (fun r s => sharedSetting r 0x0208 op (fun _ =>
      let (v, cl) := clampField 1 0 0 256 len
      .ok ([.setting 0x0208 [v]], cl)) (fun s => u16 s.route.xfDefault) s) s

/-! ### Path latency (R28, R60, R70) -/

/-- Declared latency of a block page (R70). -/
def blockLatency (s : State) (p : Nat) : Nat :=
  match pageBlock s p with
  | some (.delay, _) => delaySamples (fsNow s) (activeGet s p)
  | some (.fir, _) => (activeGet s p 3).toNat
  | some (.limiter, _) => lookAhead s p
  | some (.asrc, _) => 48
  | _ => 0
where
  /-- Look-ahead of a limiter in samples (R90). -/
  lookAhead (s : State) (p : Nat) : Nat := if activeGet s p 9 = 1 then (activeGet s p 10).toNat else 0

/-- Latency of a strip: the sum of its blocks. -/
def stripLatency (s : State) (base n : Nat) : Nat := ((List.range n).map fun b => blockLatency s (base + b)).foldl (· + ·) 0

/-- Where a sink leads inside the engine: the outputs of its task, with the task's latency. -/
def throughSink (s : State) (sink : Nat) : List (Nat × Nat) :=
  if 0x6000 ≤ sink ∧ sink < 0x6800 then
    let n := sink - 0x6000
    if stripOn s (inStripPage n) then [(0x6800 + n, stripLatency s (inStripPage n) 16)] else []
  else if 0x7200 ≤ sink ∧ sink < 0x7400 then
    let n := sink - 0x7200
    if stripOn s (outStripPage n) then [(0x7400 + n, stripLatency s (outStripPage n) 16)] else []
  else if 0x8000 ≤ sink ∧ sink < 0x10000 then
    match s.blk.inst.find? fun e => e.2.live && decide (e.2.pinBase ≤ sink) && decide (sink < e.2.pinBase + e.2.ins) with
    | some e => (List.range e.2.outs).map fun i => (e.2.pinBase + e.2.ins + i, blockLatency s e.1)
    | none =>
      match s.frond.tasks.find? fun e => e.2.live && e.2.ins.contains sink with
      | some e => e.2.outs.map fun o => (o, e.2.latency)
      | none => []
  else []

/-- An edge of the path search: the connection (its sink) or selection (0x2_0000 + mix input) that it uses, the next
source (none at the end), samples added, and the endpoint IDs that it appends. -/
structure PathEdge where
  use_ : Nat
  next : Option Nat
  add : Nat
  ids : List Nat
  deriving DecidableEq, Repr

/-- Buses that a mix input reaches: those with an assigned crosspoint for it, whatever the gain (R60, R108). -/
def busesOf (s : State) (m : Nat) : List Nat :=
  (List.range 512).filter fun l =>
    (assignedIn s [activeView s] l).contains m

/-- Edges from a source towards an end. -/
def pathEdges (s : State) (stop src : Nat) : List PathEdge :=
  let cons := ((connectedIn s.page.active).filter fun e => e.2 = src).flatMap fun e =>
    let add := if connectionPrev s e.1 src then s.sys.b else 0
    (if e.1 = stop then [{ use_ := e.1, next := none, add := add, ids := [e.1] }] else []) ++
      (throughSink s e.1).map fun (o, l) => { use_ := e.1, next := some o, add := add + l, ids := [e.1, o] }
  let sels := ((selectedIn s.page.active).filter fun e => e.2 = src).flatMap fun e =>
    let add := if againstOrder (stageOf s src) 2 then s.sys.b else 0
    (busesOf s e.1).map fun l =>
      let strip := if stripOn s (busStripPage l) then stripLatency s (busStripPage l) 8 else 0
      ({ use_ := 0x20000 + e.1, next := some (0x7000 + l), add := add + strip, ids := [0x7000 + l] } : PathEdge)
  cons ++ sels

/-- What the search has found: paths, and one path for each latency. -/
structure PathFound where
  count : Nat := 0
  vals : Tbl (List Nat) := []
  deriving DecidableEq, Repr

/-- Every path that uses no connection or selection twice (R60); the count stops at 65,536. -/
def searchPaths (s : State) (stop : Nat) : Nat → Nat → Nat → List Nat → List Nat → PathFound → PathFound
  | 0, _, _, _, _, f => f
  | n + 1, src, lat, ids, used, f =>
    (pathEdges s stop src).foldl (fun f e =>
      if used.contains e.use_ then f
      else match e.next with
        | none =>
          let l := lat + e.add
          { count := min 65536 (f.count + 1), vals := if Tbl.has f.vals l then f.vals else Tbl.put f.vals l (ids ++ e.ids) }
        | some o => searchPaths s stop n o (lat + e.add) (ids ++ e.ids) (e.use_ :: used) f) f

/-- A start of R60: SAP input slot, network receive channel, voice or generator. -/
def isPathStart (id : Nat) : Bool :=
  decide (id < 0xC00) || (decide (0x2000 ≤ id) && decide (id < 0x4000)) || (decide (0x7600 ≤ id) && decide (id < 0x7700)) ||
    (decide (0x10000 ≤ id) && decide (id < 0x10100))

/-- An end of R60: SAP output slot, network transmit channel or recorder track. -/
def isPathEnd (id : Nat) : Bool :=
  (decide (0xC00 ≤ id) && decide (id < 0x1800)) || (decide (0x4000 ≤ id) && decide (id < 0x6000)) ||
    (decide (0x7800 ≤ id) && decide (id < 0x8000))

/-- The declared latency of the ASRC that bridges a port in a direction (R70, R94). -/
def bridgeLatency (s : State) (p dir : Nat) : Nat :=
  if atEngineRate s p then 0 else match asrcOf s p dir with
    | some page => blockLatency s page
    | none => 0

/-- The terms of R28 at the two ends of a path, with the ASRC of a bridged port (R70). -/
def edgeTerms (s : State) (start stop : Nat) : Nat :=
  let bridges := (if start < 0xC00 then bridgeLatency s (start / 32) 0 else 0) +
    (if 0xC00 ≤ stop ∧ stop < 0x1800 then bridgeLatency s ((stop - 0xC00) / 32) 1 else 0)
  let link := match s.net.rx.find? fun e => decide (0x2000 ≤ start) && decide (start < 0x4000) &&
      decide (e.2.cfg.first ≤ start - 0x2000) && decide (start - 0x2000 < e.2.cfg.first + e.2.cfg.channels) with
    | some e => linkSamples s e.2.cfg
    | none => 0
  let packet := match s.net.tx.find? fun e => decide (0x4000 ≤ stop) && decide (stop < 0x6000) &&
      decide (e.2.cfg.first ≤ stop - 0x4000) && decide (stop - 0x4000 < e.2.cfg.first + e.2.cfg.channels) with
    | some e => packetSamples (fam s) e.2.cfg.ptime
    | none => 0
  bridges + 2 + 2 * s.sys.b + (if s.sys.pairEn then s.sys.b else 0) + link + packet

/-- ROUTE.LATENCY (R60). The figures are those of the committed state and hold from the frame in progress, whose number the
response gives (DESIGN CHOICE, log entry 80). The search takes no time in this model, so no PROGRESS event falls due (log entry
74). -/
def execRouteLatency (r : Req) (start stop : Nat) (s : State) : Host.Outcome State Fault Refusal :=
  serve { code := 0x0207 } r (fun _ s =>
    if !named s start then (s, refuse St.noResource (reason 0x07 start))
    else if !named s stop then (s, refuse St.noResource (reason 0x07 stop))
    else if !isPathStart start then (s, refuse St.conflict (reason 0x07 start))
    else if !isPathEnd stop then (s, refuse St.conflict (reason 0x07 stop))
    else
      let n := (connectedIn s.page.active).length + (selectedIn s.page.active).length + 1
      let f := searchPaths s stop n start 0 [start] [] {}
      let vs := f.vals.take 16
      let base := edgeTerms s start stop
      let flags := Fx.b2n (decide (65535 < f.count)) + 2 * Fx.b2n (decide (16 < f.vals.length))
      (s, done [] (u16 (min f.count 65535) ++ u8 flags ++ u8 vs.length ++ fnB s.sys.frameNo)
        (vs.flatMap fun v => u32 (base + v.1) ++ u16 v.2.length ++ v.2.flatMap u32))) s

end Sys2Proof.Machine
end

