-- ==== Sys2Proof/Machine/MixCmds.lean ====
section
/-!
DEFINITION. The MIX commands (R482): selections (R106), crosspoints (R107, R125), buses (R111 to R116), precedence levels and
control flags (R118, R119), and what they report.
-/
namespace Sys2Proof.Machine
open Sys2Proof

/-- MIX commands that write. -/
def mixCmd (code : Nat) : Cmd := { code := code, reach := .shared, needs := some Fn.bracken }

/-- MIX.SELECT (R106): the checks of a sink's connect without the count. -/
def planSelect (list input src len : Nat) (threshold : Int) (hold : Nat) (s : State) : Except Reply Plan :=
  let page := 0x200 + input / 256
  let k := input % 256 * 8
  if mixInputs (fam s) ≤ input then .error (refuse St.noResource)
  else if src ≠ 0x1FFFF ∧ !named s src then .error (refuse St.noResource (reason 0x07 src))
  else if src ≠ 0x1FFFF ∧ !isSource s src then .error (refuse St.conflict (reason 0x07 src))
  else if heldAgainst s (ownList list) page then .error (refuse St.conflict (reason 0x02 page))
  else
    let pl : Plan := { st := s }
    let pl := if recGet s page (shadowRec s page) k = src then pl else pl.edit page k src
    let same := decide (recGet s page (shadowRec s page) k = src)
    let pl := if same && len = 0xFFFF then pl else pl.routeLen page (k + 1) len s.route.xfDefault false 7 0
    pl.writes page [(k + 2, threshold, 9, 0), (k + 3, hold, 13, 0)]

def execMixSelect (r : Req) (list input src len : Nat) (threshold : Int) (hold : Nat) (s : State) : Host.Outcome State Fault Refusal :=
  serve (mixCmd 0x0401) r (fun r s => pageWrite r 0x0401 list true (planSelect list input src len threshold hold) s) s

/-- The value of a crosspoint field (R484). -/
def crossValue (level : Int) (flags prec : Nat) : Int := Fx.toUnsigned 32 level + (flags : Int) * 2 ^ 32 + (prec : Int) * 2 ^ 40

/-- One crosspoint write; `at_` is the byte offset of the entry's level (R107, R472). -/
def planGain (list : Nat) (at_ : Nat → Nat) (i : Nat) (e : GainOp) (pl : Plan) : Except Reply Plan :=
  if fam pl.st = 2 ∨ 512 ≤ e.lane ∨ mixInputs (fam pl.st) ≤ e.input then .error (refuse St.noResource)
  else if heldAgainst pl.st (ownList list) (0x400 + e.lane) then .error (refuse St.conflict (reason 0x02 (0x400 + e.lane)))
  else
    let l := if e.level = dbOff then e.level else Fx.clamp (-12000) 1806 e.level
    let prec := min e.prec 15
    let pl := (pl.clamp (at_ i) i e.level l).clamp (at_ i + 5) i e.prec prec
    .ok (pl.edit (0x400 + e.lane) e.input (crossValue l e.flags prec))

def execMixGain (r : Req) (list : Nat) (entry : GainOp) (s : State) : Host.Outcome State Fault Refusal :=
  serve (mixCmd 0x0402) r (withFlags 3 entry.flags fun r s =>
    pageWrite r 0x0402 list true (fun s => planGain list (fun _ => 5) 0 entry { st := s }) s) s

/-- MIX.GAIN_BATCH: 1 to 4,096 crosspoints as one unit (R54, R125). -/
def execMixGainBatch (r : Req) (list : Nat) (entries : List GainOp) (s : State) : Host.Outcome State Fault Refusal :=
  serve (mixCmd 0x0403) r (withFlags 3 (entries.foldl (fun m e => max m e.flags) 0) fun r s =>
    if entries = [] ∨ 4096 < entries.length then (s, refuse St.badLen)
    else pageWrite r 0x0403 list true (fun s => planEach (planGain list fun i => 3 + 12 * i + 4) 0 entries { st := s }) s) s

/-- MIX.BUS (R111 to R116). -/
def execMixBus (r : Req) (list lane : Nat) (b : BusSet) (s : State) : Host.Outcome State Fault Refusal :=
  serve (mixCmd 0x0404) r (withFlags 3 b.flags fun r s =>
    pageWrite r 0x0404 list true (fun s =>
      if fam s = 2 ∨ 512 ≤ lane then .error (refuse St.noResource)
      else
        let f := fun n => (Fx.b2n (Fx.bit b.flags n) : Int)
        Plan.writes { st := s } (0x400 + lane)
          [(0x1000, b.trim, 3, 0), (0x1001, f 0, 7, 0), (0x1002, f 1, 7, 0), (0x1004, f 2, 7, 0), (0x1003, b.ramp, 9, 0),
           (0x1005, b.threshold, 11, 0), (0x1006, b.knee, 15, 0), (0x1007, b.release, 19, 0), (0x1008, b.step, 23, 0),
           (0x1009, b.timeout, 27, 0)]) s) s

/-- MIX.PRECEDENCE (R118): more than 8 triggers contradict the command. -/
def planPrecedence (lane level : Nat) (depth : Int) (attack release : Nat) (triggers : List Nat) (s : State) : Except Reply Plan :=
  let page := 0x400 + lane
  let base := 0x1100 + level * 16
  if fam s = 2 ∨ 512 ≤ lane ∨ 16 ≤ level then .error (refuse St.noResource)
  else if 8 < triggers.length then .error (refuse St.conflict)
  else match triggers.find? fun w => w = 0xFFFFFFFF ∨ !triggerExists (fam s) w with
    | some w => .error (refuse St.noResource (reason 0x01 (triggers.findIdx (· = w))))
    | none =>
      match Plan.writes { st := s } page [(base, depth, 5, 0), (base + 1, attack, 9, 0), (base + 2, release, 13, 0)] with
      | .error e => .error e
      | .ok pl => .ok ((List.range 8).foldl (fun pl i => pl.edit page (base + 8 + i) (triggers.getD i 0xFFFFFFFF)) pl)

def execMixPrecedence (r : Req) (list lane level : Nat) (depth : Int) (attack release : Nat) (triggers : List Nat) (s : State) :
    Host.Outcome State Fault Refusal :=
  serve (mixCmd 0x0405) r (fun r s => pageWrite r 0x0405 list true (planPrecedence lane level depth attack release triggers) s) s

/-- MIX.FLAG (R119): a flag in both masks is refused (R482). -/
def execMixFlag (r : Req) (list set clear : Nat) (s : State) : Host.Outcome State Fault Refusal :=
  serve (mixCmd 0x0406) r (fun r s =>
    pageWrite r 0x0406 list true (fun s =>
      if fam s = 2 then .error (refuse St.noResource)
      else if set &&& clear ≠ 0 then .error (refuse St.conflict)
      else
        let pl := (bitsOf 256 set).foldl (fun pl i => pl.edit 0x208 i 1) ({ st := s } : Plan)
        .ok ((bitsOf 256 clear).foldl (fun pl i => pl.edit 0x208 i 0) pl)) s) s

/-! ### Reports -/

/-- State of a crosspoint by the codes of R482. -/
def crossState (x : XPoint) (assigned : Bool) : Nat :=
  if x.interp.isSome then 2 else if x.steps ≠ [] then (if x.live && !assigned then 3 else 1) else 0

/-- MIX.QUERY. -/
def execMixQuery (r : Req) (kind lane input : Nat) (s : State) : Host.Outcome State Fault Refusal :=
  serve { code := 0x0407 } r (fun _ s =>
    if fam s = 2 ∨ mixInputs (fam s) ≤ input ∨ 1 < kind ∨ (kind = 0 ∧ 512 ≤ lane) then (s, refuse St.noResource)
    else if kind = 0 then
      let c := crossIn s lane (activeRec s (0x400 + lane)) input
      let x := Tbl.getD s.mix.xp (xpKey lane input) {}
      (s, done [] (u32 (Fx.toUnsigned 24 c.gain) ++ u32 (Fx.toUnsigned 24 x.applied) ++ u16 x.steps.length ++
        u8 (crossState x c.assigned) ++ u8 c.level))
    else
      let i := Tbl.getD s.mix.inp input {}
      (s, done [] (idB (selIn s (activeRec s (0x200 + input / 256)) input) ++ u8 (Fx.b2n i.presNow) ++ u8 (Fx.b2n i.zcLast)))) s

/-- A level of 1/65,536 dB in 0.01 dB. -/
def fineToDb (e : Int) : Int := Fx.roundAway (e * 100) 65536

/-- MIX.BUS_STATUS: returned and cleared (R113). -/
def execMixBusStatus (r : Req) (lane : Nat) (s : State) : Host.Outcome State Fault Refusal :=
  serve { code := 0x0408 } r (fun _ s =>
    if fam s = 2 ∨ 512 ≤ lane then (s, refuse St.noResource)
    else
      let b := busOf s lane
      let env := (List.range 16).flatMap fun l => s32 (fineToDb (min (Tbl.getD b.envMin l 0) (Tbl.getD b.env l 0)))
      let data := u8 (Fx.b2n b.sat) ++ u8 0 ++ s32 b.maxGr ++ env
      (putBus lane { b with sat := false, maxGr := 0, envMin := b.env } s, done [] data)) s

end Sys2Proof.Machine
end

