-- ==== Sys2Proof/Machine/ExpertCmds.lean ====
section
/-!
DEFINITION. The EXPERT commands (R187, R443, R492): the mover table (R66), raw crosspoint and coefficient words (R104,
R108), page records (R484), images and instances (R181 to R187), frond memory by doorbell (R158), control SRAM and bulk
memory (R445), descriptor lists (R436 to R443) and the arbiter's tables (R421 to R431).
-/
namespace Sys2Proof.Machine
open Sys2Proof

/-! ### Mover table (R66) -/

/-- The marker of no endpoint in a mover entry. -/
def moverId (v : Option Nat) : List Byte := u32 (v.getD 0x1FFFF)

/-- The bulk address of an endpoint's frame buffer, or of a port slot's packed word at the first position of the section in process
(R61, R66, R423). A slot that the mask leaves out has no word; its address is a free value with those of the buffers (log entry
5). -/
def endpointAddress (s : State) (id : Nat) : Nat :=
  let slotWord := fun (p slot j : Nat) (output : Bool) =>
    let m := useMask s p output
    if Fx.bit m slot then ringWordAddress s p output (slotsInUse s p output).length j 0 (packedIndex m slot) else Config.bufferAddress id
  if id < 0xC00 then slotWord (id / 32) (id % 32) ((captureOf s).getD 0 % 4) false
  else if id < 0x1800 then slotWord ((id - 0xC00) / 32) (id % 32) ((s.sys.frameNo + 1) % 4) true
  else Config.bufferAddress id

/-- A mover table entry of 40 bytes (R66, R492). -/
def moverEntry (s : State) (sink src : Nat) : List Byte :=
  let k := Tbl.getD s.route.sinks sink {}
  let (pos, old) : Nat × Option Nat := match k.xfade with
    | some x => if k.finished then (0, none) else (x.pos, x.old)
    | none => (0, none)
  u32 sink ++ u32 src ++ u8 (Fx.b2n (connectionPrev s sink src)) ++ u8 (stageOf s sink) ++ u8 (connectionState s sink (some src)) ++
    u8 0 ++ u16 (activeGet s (sink / 256) (sink % 256 * 4 + 1)).toNat ++ u16 pos ++ moverId old ++ moverId (pendingSource s sink) ++
    u64 (endpointAddress s src % 2 ^ 52) ++ u64 (endpointAddress s sink % 2 ^ 52)

/-- The mover table: committed connections by the stage at which their moves run, and by sink within a stage (R63, R66). -/
def moverTable (s : State) : List (Nat × Nat) :=
  (List.range 7).flatMap fun st => (connectedIn s.page.active).filter fun e => decide (stageOf s e.1 = st)

/-- EXPERT.MOVER_READ: committed connections, by their place in the table or by sink. -/
def execExpertMoverRead (r : Req) (by_ first count : Nat) (s : State) : Host.Outcome State Fault Refusal :=
  serve { code := 0x0C01, expert := true } r (fun _ s =>
    if 1 < by_ then (s, refuse St.conflict)
    else
      let all := connectedIn s.page.active
      let es := if by_ = 0 then ((moverTable s).drop first).take count
        else all.filter fun e => decide (first ≤ e.1) && decide (e.1 < first + count)
      (s, done [] (u32 es.length) (es.flatMap fun e => moverEntry s e.1 e.2))) s

/-- EXPERT.MOVER_WRITE: connections with the checks and clamps of ROUTE.BATCH (R11, R59, R66). -/
def execExpertMoverWrite (r : Req) (list : Nat) (entries : List MoverOp) (s : State) : Host.Outcome State Fault Refusal :=
  serve { code := 0x0C02, reach := .shared, expert := true, needs := some Fn.router } r (fun r s =>
    if entries = [] ∨ 4096 < entries.length then (s, refuse St.badLen)
    else if entries.any fun e => 1 < e.prev then badRequest s
    else pageWrite r 0x0C02 list true (fun s =>
      planEach (fun i (e : MoverOp) pl =>
        routeEntry (ownList list) true (fun i => (3 + 12 * i + 8, 3 + 12 * i + 10)) i
          { op := 0, flags := e.prev, len := e.len, src := e.src, sink := e.sink } pl) 0 entries { st := s }) s) s

/-! ### Crosspoint words (R108, R125) -/

/-- A run of mix inputs of a lane that exist. -/
def laneRun (s : State) (lane first count : Nat) : Bool :=
  decide (fam s ≠ 2) && decide (lane < 512) && decide (first + count ≤ mixInputs (fam s))

/-- EXPERT.MIX_READ. -/
def execExpertMixRead (r : Req) (lane first count : Nat) (s : State) : Host.Outcome State Fault Refusal :=
  serve { code := 0x0C03, expert := true } r (fun _ s =>
    if !laneRun s lane first count then (s, refuse St.noResource)
    else (s, done [] [] ((List.range count).flatMap fun i =>
      le 6 (crossIn s lane (activeRec s (0x400 + lane)) (first + i)).word))) s

/-- EXPERT.MIX_WRITE: a word whose reserved field is not zero is stored with it cleared (R108). -/
def execExpertMixWrite (r : Req) (list lane first : Nat) (words : List Nat) (s : State) : Host.Outcome State Fault Refusal :=
  serve { code := 0x0C04, reach := .shared, expert := true, needs := some Fn.bracken } r (fun r s =>
    if words = [] ∨ 2048 < words.length then (s, refuse St.badLen)
    else pageWrite r 0x0C04 list true (fun s =>
      if !laneRun s lane first words.length then .error (refuse St.noResource)
      else planEach (fun i (w : Nat) pl =>
        .ok ((pl.edit (0x400 + lane) (rawBase + first + i) (w % 2 ^ 30 : Nat)).clamp (7 + 6 * i) i w (w % 2 ^ 30 : Nat)))
          0 words { st := s }) s) s

/-! ### Coefficient words (R104, R183) -/

/-- A section's words in the order of the kernel (log entry 27). -/
def kernelWords (c : Section) : List Nat :=
  [Fx.toUnsigned 24 c.b0, Fx.toUnsigned 24 c.b1, Fx.toUnsigned 24 c.b2, c.shift, Fx.toUnsigned 24 c.a2, Fx.toUnsigned 24 c.a1]

/-- The active words of a page's block (R104): an expert area's words, a FIR's taps, a filter's sections; none for a page
that has no such words. -/
def coefWords (s : State) (p : Nat) : Option (List Nat) :=
  match Tbl.find s.frond.tasks p with
  | some t =>
    let rec_ := effRec s p
    some ((List.range t.params).map fun i => ((Tbl.find rec_ (rawBase + i)).getD 0).toNat)
  | none => match pageBlock s p with
    | some (.fir, _) => some ((tapsOf (effGet s p) (fun i => Tbl.find (effRec s p) (rawBase + i))).map (Fx.toUnsigned 24))
    | some (k, _) =>
      if sectionsOf k (fsNow s) (effGet s p) (fun _ => none) (useOf k (fsNow s) (effGet s p)) = [] then none
      else some ((blkOf s p k).sections.flatMap kernelWords)
    | none => none

/-- The sections of a run of words lie inside the unit circle (R82), with shifts of 0 to 3. -/
def sectionsStable : Nat → List Nat → Bool
  | 0, _ => true
  | n + 1, ws =>
    let w := fun i => ws.getD i 0
    stable (Fx.toSigned 24 (w 5)) (Fx.toSigned 24 (w 4)) && decide (w 3 ≤ 3) && sectionsStable n (ws.drop 6)

/-- The plan of raw words from a word on (R82, R104, R183): whole sections, a whole tap set, any run of an expert area. -/
def planCoef (page first : Nat) (words : List Nat) (s : State) : Except Reply Plan :=
  let n := words.length
  let go : Except Reply Plan :=
    .ok (((List.range n).zip words).foldl (fun pl e => pl.edit page (rawBase + first + e.1) (e.2 : Nat)) { st := s })
  if words.any fun w => 2 ^ 24 ≤ w then .error (refuse St.conflict)
  else match Tbl.find s.frond.tasks page with
    | some t => if t.params < first + n then .error (refuse St.noResource (reason 0x02 page)) else go
    | none => match pageBlock s page with
      | none => .error (refuse St.noResource (reason 0x02 page))
      | some (.fir, _) =>
        let taps := (shadowGet s page 0).toNat
        if taps < first + n then .error (refuse St.noResource (reason 0x02 page))
        else if first ≠ 0 ∨ n ≠ taps then .error (refuse St.conflict) else go
      | some (k, _) =>
        let secs := sectionsOf k (fsNow s) (shadowGet s page) (fun _ => none) (useOf k (fsNow s) (shadowGet s page))
        if k = .ancGain ∨ 6 * secs.length < first + n then .error (refuse St.noResource (reason 0x02 page))
        else if first % 6 ≠ 0 ∨ n % 6 ≠ 0 ∨ !sectionsStable (n / 6) words then .error (refuse St.conflict) else go

/-- EXPERT.COEF_WRITE. -/
def execExpertCoefWrite (r : Req) (list page first : Nat) (words : List Nat) (s : State) : Host.Outcome State Fault Refusal :=
  serve { code := 0x0C05, reach := .shared, expert := true, needs := some Fn.fronds } r (fun r s =>
    if words = [] then (s, refuse St.badLen)
    else pageWrite r 0x0C05 list true (planCoef page first words) s) s

/-- EXPERT.COEF_READ. -/
def execExpertCoefRead (r : Req) (page first count : Nat) (s : State) : Host.Outcome State Fault Refusal :=
  serve { code := 0x0C06, expert := true } r (fun _ s =>
    match coefWords s page with
    | none => (s, refuse St.noResource (reason 0x02 page))
    | some ws =>
      if ws.length < first + count then (s, refuse St.noResource (reason 0x02 page))
      else (s, done [] [] (((ws.drop first).take count).flatMap u32))) s

/-! ### Page records (R484) -/

/-- The level that a gain word reads as: 20·log10(|w|/2^20) to the nearest 0.01 dB, a tie away from zero; off for the word
0 (R107). -/
def levelOfWord (w : Int) : Int :=
  if w = 0 then dbOff else Fx.roundAway (2000 * Fx.log10 (Fx.ratio (w.natAbs : Int) 1048576)) Fx.one

/-- The basic field of a crosspoint as a read gives it: level and polarity computed from the gain word in force (R107,
R484). -/
def crossField (c : Cross) : Int :=
  Fx.toUnsigned 32 (levelOfWord c.gain) + (Fx.b2n (decide (c.gain < 0)) + 2 * Fx.b2n c.assigned + 4 * Fx.b2n c.immediate : Nat) * 2 ^ 32 +
    (c.level : Int) * 2 ^ 40

/-- The items of a lane's record as a read gives them: each crosspoint listed, basic or raw, with its basic field computed
(R107). -/
def laneItems (s : State) (p : Nat) (b : PageRec) : PageRec :=
  let ms := (b.filterMap fun f => if f.1 < 2048 then some f.1 else if rawBase ≤ f.1 then some (f.1 - rawBase) else none).eraseDups
  ms.foldl (fun (l : PageRec) m => Tbl.put l m (crossField (crossIn s (p - 0x400) b m))) b

/-- A record of a bank, in the form of R484. -/
def recordBytes (s : State) (p : Nat) (b : PageRec) : List Byte :=
  let b := match pageName (fam s) p with | .lane _ => laneItems s p b | _ => b
  PageRecord.bytes { page := p, whole := true, items := b.filter fun f => !isStructural s p f.1 }

/-- EXPERT.PAGE_READ. -/
def execExpertPageRead (r : Req) (page bank input : Nat) (s : State) : Host.Outcome State Fault Refusal :=
  serve { code := 0x0C07, expert := true } r (fun _ s =>
    let none_ := (s, refuse St.noResource (reason 0x02 page))
    let give := fun (b : PageRec) =>
      let bs := recordBytes s page b
      (s, done [] (u32 bs.length) bs)
    if 2 < bank then (s, refuse St.conflict)
    else if !pageExists s page then none_
    else if bank = 0 then give (activeRec s page)
    else if bank = 1 then give (shadowRec s page)
    else match Tbl.find s.page.image (input * 65536 + page) with
      | some b => give b
      | none => none_) s

/-- The function that a page belongs to (R463). -/
def pageFunction (p : Nat) : Nat :=
  if p < 0x200 then Fn.router else if p < 0x600 then Fn.bracken else if p < 0x660 then Fn.ports else Fn.fronds

/-- EXPERT.PAGE_WRITE: one whole record of the page, loaded as a scene's record is (R133, R484). -/
def execExpertPageWrite (r : Req) (list page : Nat) (bytes : List Byte) (s : State) : Host.Outcome State Fault Refusal :=
  serve { code := 0x0C08, reach := .shared, expert := true, needs := some (pageFunction page) } r (fun r s =>
    match recordsOf 1 bytes with
    | some ([p], []) =>
      if !p.whole ∨ p.page ≠ page ∨ !ascending p.items then (s, refuse St.conflict (reason 0x02 page))
      else pageWrite r 0x0C08 list true (fun s =>
        match takeRecords s false [p] with
        | .error e => .error e
        | .ok (rs, _) => planRecords rs { st := s }) s
    | some _ => (s, refuse St.badLen)
    | none => if bytes.length < 8 + 12 * getLE bytes 4 4 then (s, refuse St.badLen) else (s, refuse St.conflict)) s

/-! ### Images (R181, R184) -/

/-- EXPERT.IMAGE_LOAD opens an image (R476). -/
def execExpertImageLoad (r : Req) (total : Nat) (s : State) : Host.Outcome State Fault Refusal :=
  serve { code := 0x0C09, reach := .shared, expert := true, needs := some Fn.fronds } r (fun r s => openObject r .image total s) s

/-- Where an image stands: program, X constant and Y constant addresses. -/
def imagePlaces (i : Image) : List Byte := u32 i.code ++ u32 i.xBase ++ u32 i.yBase

/-- The commit of an image (R181, R185). -/
def commitImage (r : Req) (code : Nat) (bs : List Byte) (s : State) : State × Reply :=
  match placeImage s bs with
  | .error e => (s, e)
  | .ok (none, i) => (s, done [] (imagePlaces i))
  | .ok (some i, _) => changeNow r code [.image bs i.code i.xBase i.yBase] [] (fun _ => imagePlaces i) s

/-- Instances of an image: the first pages of their tasks. -/
def imageUsers (s : State) (id : Nat) : List Nat :=
  (s.frond.tasks.filter fun e => e.2.image = id && e.1 = e.2.firstPage).map (·.1)

/-- EXPERT.IMAGE_UNLOAD (R184). -/
def execExpertImageUnload (r : Req) (image : Nat) (s : State) : Host.Outcome State Fault Refusal :=
  serve { code := 0x0C0A, reach := .shared, expert := true, needs := some Fn.fronds } r (fun r s =>
    if !Tbl.has s.frond.images image then (s, refuse St.noResource)
    else if imageUsers s image ≠ [] then (s, refuse St.conflict)
    else changeNow r 0x0C0A [.imageDrop image] [] (fun _ => []) s) s

/-- EXPERT.IMAGE_LIST. -/
def execExpertImageList (r : Req) (s : State) : Host.Outcome State Fault Refusal :=
  serve { code := 0x0C0B, expert := true } r (fun _ s =>
    (s, done [] (u8 s.frond.images.length) (s.frond.images.flatMap fun e =>
      u32 e.2.id ++ u32 e.2.version ++ sha256 e.2.bytes ++ imagePlaces e.2 ++ u16 (imageUsers s e.1).length ++ u16 0 ++
        u32 e.2.bytes.length ++ u32 0))) s

/-! ### Instances (R182, R184) -/

/-- The first task that the limits of a creation refuse, by its index (R29, R167). -/
def taskTooLarge (s : State) : Nat → List (ExpertTask × Nat) → Option Nat
  | _, [] => none
  | i, (t, _) :: ts =>
    if largestTask (fam s) < expertCost t.f t.v t.fb t.vb s.sys.b ∨ 4 * expertCost t.f t.v t.fb t.vb 32 < taskWords t then some i
    else taskTooLarge s (i + 1) ts

/-- The plan of a creation, in the order of R182; the graph is admitted when the plan is taken. -/
def planInstance (image : Nat) (s : State) : Except Reply Plan :=
  match Tbl.find s.frond.images image with
  | none => .error (refuse St.noResource)
  | some i => match parseImage i.bytes with
    | .error e => .error e
    | .ok p =>
      if !Fx.bit p.families (fam s) then .error (refuse St.noResource)
      else match taskTooLarge s 0 p.tasks with
        | some k => .error (refuse St.noResource (reason 0x01 k))
        | none => match lowestPins s p.pins.length, lowestPages s p.tasks.length with
          | some pin, some page => match reserveInst image page pin none s with
            | some st => .ok { st := st, changes := [.instNew image page pin (ringBases st page)]
                               data := idB (some pin) ++ u16 page ++ u8 p.tasks.length }
            | none => .error (refuse St.noResource (reason 0x06 2))
          | _, _ => .error (refuse St.noResource)

/-- EXPERT.INSTANCE_CREATE. -/
def execExpertInstanceCreate (r : Req) (list image : Nat) (s : State) : Host.Outcome State Fault Refusal :=
  serve { code := 0x0C0C, reach := .shared, expert := true, needs := some Fn.fronds } r (fun r s =>
    pageWrite r 0x0C0C list true (planInstance image) s) s

/-- EXPERT.INSTANCE_DELETE. -/
def execExpertInstanceDelete (r : Req) (list page flags : Nat) (s : State) : Host.Outcome State Fault Refusal :=
  serve { code := 0x0C0D, reach := .shared, expert := true, needs := some Fn.fronds } r (withFlags 1 flags fun r s =>
    pageWrite r 0x0C0D list true (fun s =>
      match Tbl.find s.frond.tasks page with
      | none => .error (refuse St.noResource (reason 0x02 page))
      | some t =>
        if !t.live ∨ t.firstPage ≠ page then .error (refuse St.noResource (reason 0x02 page))
        else
          let pages := (s.frond.tasks.filter fun e => e.2.firstPage = page).map (·.1)
          planDelete pages (pinsOf s page) (Fx.bit flags 0) (.instDrop page) s) s) s

/-! ### Placement and counts (R187) -/

/-- Frond words that a task takes. -/
def footprint (s : State) (key : Nat) : Nat :=
  match Tbl.find s.frond.tasks (key % 65536) with
  | some t => taskWords t
  | none => Config.libraryWords key

/-- What EXPERT.PLACEMENT tells of a frond. -/
def frondRecord (s : State) (f : Nat) : List Byte :=
  let ts := s.frond.placed.filter fun e => e.2.frond = f
  u16 ts.length ++ u16 0 ++ u32 ((ts.map fun e => e.2.cost).foldl (· + ·) 0) ++
    u32 ((ts.map fun e => footprint s e.1).foldl (· + ·) 0) ++ u32 (Config.bulkTurns (ts.map (·.1)))

/-- EXPERT.PLACEMENT: no spare frond reads as 0xFF (PRESUMED, log entry 19). -/
def execExpertPlacement (r : Req) (s : State) : Host.Outcome State Fault Refusal :=
  serve { code := 0x0C0E, expert := true } r (fun _ s =>
    (s, done [] (u8 (s.sys.spareFrond.getD 0xFF)) ((List.range 32).flatMap (frondRecord s)))) s

/-- EXPERT.TASK_STATS: the largest counts since the last read. -/
def execExpertTaskStats (r : Req) (s : State) : Host.Outcome State Fault Refusal :=
  serve { code := 0x0C0F, expert := true } r (fun _ s =>
    let ts := s.frond.tasks.filter fun e => e.2.live
    let b := s.sys.b
    let data := ts.flatMap fun e =>
      let t := e.2
      u16 e.1 ++ u16 0 ++ u32 t.maxInstr ++ u32 (t.f + t.v * b) ++ u32 t.maxBulk ++ u32 (t.fb + t.vb * b) ++ u32 t.retries
    let tasks := Tbl.mapV (fun _ (t : ExpertTask) => if t.live then { t with maxInstr := 0, maxBulk := 0 } else t) s.frond.tasks
    ({ s with frond := { s.frond with tasks := tasks } }, done [] (u16 ts.length) data)) s

/-! ### Frond memory by doorbell (R158) -/

/-- EXPERT.FROND_READ: a doorbell waits at the core that holds the memory, core 0 for the shared one. -/
def execExpertFrondRead (r : Req) (frond mem offset count : Nat) (s : State) : Host.Outcome State Fault Refusal :=
  serve { code := 0x0C10, expert := true } r (fun r s =>
    if 12 < mem then (s, refuse St.conflict)
    else if 32 ≤ frond ∨ frondWords mem < offset + count then (s, refuse St.noResource)
    else
      let bell : Bell := { frond := frond, core := if mem = 12 then 0 else mem % 4, m := mem, offset := offset, count := count
                           slot := r.slot, seq := r.seq }
      ({ s with frond := { s.frond with bells := s.frond.bells ++ [bell] } }, { later := true })) s

/-- DOORBELL (R158): a core between tasks takes the oldest doorbell that waits for it. -/
def execDoorbell (frond core : Nat) (s : State) : Host.Outcome State Fault Refusal :=
  .next (match s.frond.bells.find? fun b => decide (b.frond = frond) && decide (b.core = core) with
    | none => s
    | some b =>
      if !coreFree s frond core then s
      else
        let words := (List.range b.count).flatMap fun i => frondBytes s frond b.m (b.offset + i)
        answer b.slot b.seq 0x0C10 0 (done [] [] words) { s with frond := { s.frond with bells := s.frond.bells.erase b } })

/-! ### Control SRAM and bulk memory (R445) -/

/-- The refusal of a range: 4 to 65,536 bytes (R443) of control SRAM or bulk memory. -/
def rangeRefusal (space addr length : Nat) : Option Reply :=
  if 1 < space then some (refuse St.noResource)
  else if length < 4 ∨ 65536 < length then some (refuse St.badLen)
  else if (if space = 0 then 8388608 else 0x0C000000) < addr + length then some (refuse St.noResource)
  else none

/-- EXPERT.MEM_READ: a poisoned word fails the read (R364). -/
def execExpertMemRead (r : Req) (space addr length : Nat) (s : State) : Host.Outcome State Fault Refusal :=
  serve { code := 0x0C11, expert := true } r (fun _ s =>
    match rangeRefusal space addr length with
    | some e => (s, e)
    | none =>
      if poisoned s space addr length then (s, refuse St.faulted)
      else (s, done [] [] ((if space = 0 then s.mem.sram else s.mem.bulk).readBytes addr length))) s

/-- EXPERT.MEM_WRITE, in the maintenance state only. -/
def execExpertMemWrite (r : Req) (space addr length : Nat) (bytes : List Byte) (s : State) : Host.Outcome State Fault Refusal :=
  serve { code := 0x0C12, reach := .here, expert := true, maint := true } r (fun _ s =>
    match rangeRefusal space addr length with
    | some e => (s, e)
    | none =>
      if bytes.length ≠ length then (s, refuse St.badLen)
      else
        let m := if space = 0 then { s.mem with sram := s.mem.sram.writeBytes addr bytes }
          else { s.mem with bulk := s.mem.bulk.writeBytes addr bytes }
        (healWords space addr length { s with mem := m }, done [] [])) s

/-! ### Descriptor lists (R436 to R443) -/

/-- Run a list on a firmware channel: state, and status and residue of every descriptor. A list goes on in place only: a
descriptor after one that does not chain to it is not run (log entry 40). -/
def dmaList (host : List (Nat × Byte)) : List (List Byte) → Bool → State → State × List (Nat × Nat)
  | [], _, s => (s, [])
  | b :: bs, go, s =>
    let d := descOf b
    if !go ∨ !d.own then
      let (s, l) := dmaList host bs false s
      (s, (0, d.count) :: l)
    else if !d.ok then
      let (s, l) := dmaList host bs false (dmaReport 0x03 s)
      (s, (0x03, d.count) :: l)
    else
      let unit := if d.mode = 0 then d.esize else 1
      let (s, n, st) := moveElements host .expert d none d.elements 0 s
      let (s, l) := dmaList host bs (st = 0x01 && d.chain && d.nxt = 0) (dmaReport st s)
      (s, (st, d.count - n * unit) :: l)
where
  /-- DMA_ERROR of a firmware channel: which one runs the list is a free value (log entry 5). -/
  dmaReport (st : Nat) (s : State) : State :=
    match dmaSeverity st with
    | some sev => let (v, s) := drawFree 8 s; report Src.dma K.dmaError sev (v % 12) st s
    | none => s

/-- Bytes in pieces of 32. -/
def piecesOf32 : Nat → List Byte → List (List Byte)
  | 0, _ => []
  | n + 1, bs => bs.take 32 :: piecesOf32 n (bs.drop 32)

/-- EXPERT.DMA. `host` gives the bytes of host memory that the list reads (log entry 12). -/
def execExpertDma (r : Req) (count : Nat) (bytes : List Byte) (host : List (Nat × Byte)) (s : State) :
    Host.Outcome State Fault Refusal :=
  serve { code := 0x0C13, reach := .here, expert := true } r (fun _ s =>
    if count = 0 ∨ 256 < count ∨ bytes.length ≠ 32 * count then (s, refuse St.badLen)
    else
      let (s, l) := dmaList host (piecesOf32 count bytes) true s
      (s, done [] (l.flatMap fun e => u8 e.1 ++ u32 e.2))) s

/-! ### The arbiter's tables (R421, R426 to R431) -/

/-- EXPERT.ARB_READ. -/
def execExpertArbRead (r : Req) (group : Nat) (s : State) : Host.Outcome State Fault Refusal :=
  serve { code := 0x0C14, expert := true } r (fun _ s =>
    if 5 < group then (s, refuse St.noResource)
    else
      let x := groupOf s group
      let slots := (List.range 256).flatMap fun i =>
        let e := Tbl.getD x.slots i (63, false)
        u8 e.1 ++ u8 (Fx.b2n e.2)
      let ranks := (List.range 48).flatMap fun i => u8 (rankOf s i)
      let turns := (List.range 48).flatMap fun i => u32 (Tbl.getD x.turns i 0)
      (s, done [] [] (slots ++ ranks ++ u16 s.arb.hogMax ++ u32 s.arb.starveUs ++ u64 s.arb.hog ++ u64 x.starve ++ turns ++
        (List.range 49).flatMap fun i => u8 (priorityOf s i)))) s

/-- One value of EXPERT.ARB_WRITE: its place i in the request and the index it sets; none where the value or its place
contradicts the command (R421, R426, R427). -/
def arbValue (op group i index v : Nat) (s : State) : Option (State × List Clamp) :=
  match op with
  | 0 =>
    let x := groupOf s group
    if 256 ≤ index ∨ (Tbl.getD x.slots index (63, false)).2 ∨ !([36, 37, 39, 40, 63].contains v) then none
    else some (putGroup group { x with slots := Tbl.putD x.slots index (v, false) (63, false) } s, [])
  | 1 =>
    if 41 ≤ index then none
    else
      let (a, c) := clampField (6 + i) i 0 15 v
      some ({ s with arb := { s.arb with rank := Tbl.putD s.arb.rank index a.toNat (defaultRank index) } }, c)
  | 2 =>
    let (a, c) := clampField 6 0 4 256 v
    some ({ s with arb := { s.arb with hogMax := a.toNat } }, c)
  | 3 =>
    let (a, c) := clampField 6 0 5 1000 v
    some ({ s with arb := { s.arb with starveUs := a.toNat } }, c)
  | 4 => match defaultPriority (index / 7) (index % 7) with
    | none => none
    | some d =>
      let (a, c) := clampField (6 + i) i 0 7 v
      some ({ s with arb := { s.arb with prio := Tbl.putD s.arb.prio index a.toNat d } }, c)
  | _ => none

/-- The values of a write in order; the first that is refused refuses all. -/
def arbValues (op group first : Nat) : Nat → List Nat → State → List Clamp → Except Reply (State × List Clamp)
  | _, [], s, cs => .ok (s, cs)
  | i, v :: vs, s, cs => match arbValue op group i (first + i) v s with
    | none => .error (refuse St.conflict (reason 0x01 i))
    | some (s, c) => arbValues op group first (i + 1) vs s (cs ++ c)

/-- EXPERT.ARB_WRITE. -/
def execExpertArbWrite (r : Req) (op group first : Nat) (vals : List Nat) (s : State) : Host.Outcome State Fault Refusal :=
  serve { code := 0x0C15, reach := .here, expert := true } r (fun _ s =>
    if 4 < op ∨ (op = 0 ∧ 5 < group) then (s, refuse St.conflict)
    else if vals = [] ∨ ((op = 2 ∨ op = 3) ∧ vals.length ≠ 1) then (s, refuse St.badLen)
    else match arbValues op group first 0 vals s [] with
      | .error e => (s, e)
      | .ok (s', cs) => (s', done cs [])) s

end Sys2Proof.Machine
end

