-- ==== Sys2Proof/Machine/TwinLink.lean ====
section
/-!
DEFINITION. The twin link (R342 to R348): lanes and alignment, delivery, the heartbeat, and the messages that a partner
sends. A message event carries the header's fields and the content (log entries 12 and 34).
-/
namespace Sys2Proof.Machine
open Sys2Proof

def setLink (f : Link → Link) (s : State) : State := setPair (fun p => { p with link := f p.link }) s

/-! ### Lanes (R342, R343) -/

/-- Lanes in a set. -/
def laneCount (m : Nat) : Nat := (bitsOf 4 m).length

/-- LINK_TRAINED: at least 3 lanes each way hold block lock and alignment, and both ends have exchanged LANES. The
handshake begins (R324). -/
def execLinkTrained (rx tx : Nat) (s : State) : Host.Outcome State Fault Refusal :=
  .next (if !s.sys.pairEn ∨ s.pair.link.up ∨ laneCount rx < 3 ∨ laneCount tx < 3 then s
    else
      let s := setLink (fun k => { k with
        up := true, rxSet := rx, txSet := tx, aliveAt := s.clk.raw, align := 0, bip := [], nextSet := none, latest := none
        txSeq := 0, rxSeq := 0, unacked := [], queue := [], nakked := false, ackDue := false }) s
      let s := noteAlone s
      startHandshake none (sendLink (.lanes tx 0) s))

/-- A lane leaves a direction (R343): the transmitting end restripes, told so in LANES and logs it. Fewer than 3 lanes take
the link down. -/
def dropLane (lane : Nat) (transmit : Bool) (s : State) : State :=
  let k := s.pair.link
  let old := if transmit then k.txSet else k.rxSet
  if !k.up ∨ !Fx.bit old lane then s
  else
    let set := old - 2 ^ lane
    let s := setLink (fun k => { k with laneDrops := (k.laneDrops + 1) % 2 ^ 32 }) s
    let s := if transmit then report Src.pair K.twlLane 2 lane 0 (setLink (fun k => { k with txSet := set }) s)
      else setLink (fun k => { k with rxSet := set, bip := Tbl.erase k.bip lane }) s
    if laneCount set < 3 then linkDown s
    else if transmit then sendLink (.lanes set s.pair.link.align) s
    else s

def execLaneLockLost (lane : Nat) (transmit : Bool) (s : State) : Host.Outcome State Fault Refusal := .next (dropLane lane transmit s)

/-- LANE_REJOIN (R343): a lane that has held lock for 1 s rejoins its direction through LANES. -/
def execLaneRejoin (lane : Nat) (transmit : Bool) (s : State) : Host.Outcome State Fault Refusal :=
  .next (let k := s.pair.link
    let old := if transmit then k.txSet else k.rxSet
    if !k.up ∨ Fx.bit old lane then s
    else if transmit then
      let s := setLink (fun k => { k with txSet := old + 2 ^ lane }) s
      sendLink (.lanes (old + 2 ^ lane) s.pair.link.align) s
    else setLink (fun k => { k with rxSet := old + 2 ^ lane }) s)

/-- ALIGNMENT_BLOCK (R342, R348): the lowest lane's blocks count, and a LANES set that waits for a count takes effect.
16 BIP-8 errors within 1 s drop the lane. -/
def execAlignmentBlock (lane : Nat) (bip : Bool) (s : State) : Host.Outcome State Fault Refusal :=
  .next (if !s.pair.link.up ∨ !Fx.bit s.pair.link.rxSet lane then s
    else
      let lowest := (bitsOf 4 s.pair.link.rxSet).headD 0
      let s := if lane = lowest then setLink (fun k =>
        let n := (k.align + 1) % 2 ^ 32
        match k.nextSet with
        | some (set, c) => if c ≤ n then { k with align := n, rxSet := set, nextSet := none } else { k with align := n }
        | none => { k with align := n }) s else s
      if !bip then s
      else
        let s := reportLimited Src.pair K.twlLane 0 lane 0 s
        let times := s.clk.raw :: (Tbl.getD s.pair.link.bip lane []).filter fun t => decide (s.clk.raw < t + msTicks 1000)
        if 16 ≤ times.length then dropLane lane false s
        else setLink (fun k => { k with bip := Tbl.put k.bip lane times }) s)

/-! ### Delivery (R345, R347) -/

/-- Messages before an acknowledgement are delivered; the window lets those go out that wait. -/
def takeAck (ack : Nat) (s : State) : State :=
  let s := setLink (fun k => { k with unacked := k.unacked.filter fun m => decide (32768 ≤ (ack + 65535 - m.1) % 65536) }) s
  drainQueue 1024 s

/-- Send the unacknowledged messages again from one onwards; each is sent at most twice. -/
def resendFrom (seq : Nat) (s : State) : State :=
  let again := s.pair.link.unacked.filter fun m => decide ((m.1 + 65536 - seq) % 65536 < 32768) && !m.2.2.2
  let s := again.foldl (fun (s : State) m => { s with out := s.out ++ [linkOut m.1 true m.2.1 s] }) s
  setLink (fun k => { k with
    retx := (k.retx + again.length) % 2 ^ 32
    unacked := k.unacked.map fun m => if again.any fun a => decide (a.1 = m.1) then (m.1, m.2.1, m.2.2.1, true) else m }) s

/-- A message that is discarded as one out of sequence or with a bad CRC: the first of a gap is answered by LINK_NAK. -/
def discard (s : State) : State :=
  let s := reportLimited Src.pair K.twlRetry 0 0 0 s
  if s.pair.link.nakked then s else setLink (fun k => { k with nakked := true }) (sendLink (.nak s.pair.link.rxSeq) s)

/-- A message that breaks the protocol is discarded, counted and logged (R348). -/
def protocolNote (s : State) : State :=
  reportLimited Src.pair K.twlProtocol 2 0 0 (setLink (fun k => { k with protocol := (k.protocol + 1) % 2 ^ 32 }) s)

/-- A message that the sender's role or state does not allow (R348): in IN_STEP the standby goes out of step. -/
def protocolBroken (s : State) : State :=
  let s := protocolNote s
  if s.pair.state = 4 ∧ !s.pair.activeOut then leaveStep s else s

/-- Receive a message: it shows the partner alive, its header acknowledges, a sequenced one is accepted only in order, and
one that is not allowed is a violation. -/
def receive (h : LinkHdr) (sequenced : Bool) (allowed : State → Bool) (f : State → State) (s : State) :
    Host.Outcome State Fault Refusal :=
  .next (if !s.sys.pairEn ∨ !s.pair.link.up then s
    else
      let s := takeAck h.ack (setLink (fun k => { k with aliveAt := s.clk.raw }) s)
      if !sequenced then f s
      else if h.seq ≠ s.pair.link.rxSeq then discard s
      else
        let s := setLink (fun k => { k with rxSeq := (k.rxSeq + 1) % 65536, nakked := false, ackDue := true }) s
        if allowed s then f s else protocolBroken s)

/-- RETRANSMISSION_TIMER (R345): the timer of the oldest unacknowledged message that has been sent once. -/
def execRetransmissionTimer (s : State) : Host.Outcome State Fault Refusal :=
  .next (match s.pair.link.unacked.head? with
    | none => s
    | some m =>
      if !s.pair.link.up ∨ m.2.2.2 then s
      else resendFrom m.1 (advanceTo (m.2.2.1 + usTicks s.pair.link.retxUs) s))

/-- DELIVERY_FAILURE (R345): 20 µs after its first sending. -/
def execDeliveryFailure (s : State) : Host.Outcome State Fault Refusal :=
  .next (match s.pair.link.unacked.head? with
    | none => s
    | some m => if s.pair.link.up then linkDown (advanceTo (m.2.2.1 + usTicks 20) s) else s)

/-- ACK_INTERVAL (R345). -/
def execAckInterval (s : State) : Host.Outcome State Fault Refusal :=
  .next (if s.pair.link.up ∧ s.pair.link.ackDue then sendLink .ack s else s)

/-- The highest severity not yet cleared (R344). -/
def topSeverity (s : State) : Nat := s.flt.table.foldl (fun m e => max m e.2.sev) (s.flt.full.getD 0)

/-- HEARTBEAT_INTERVAL (R344, R347). -/
def execHeartbeatInterval (s : State) : Host.Outcome State Fault Refusal :=
  .next (if s.pair.link.up then
      sendLink (.heartbeat s.pair.state s.pair.activeOut s.pair.activeOut s.pair.partnerIn (topSeverity s)) s
    else s)

/-- A frame whose own signature waits for the partner's (R331). -/
def lateSignature (s : State) : Option Nat :=
  if inCopyOrStep s then (s.pair.sigs.reverse.find? fun x => x.own.isSome && x.partner.isNone).map (·.frame) else none

/-- HEARTBEAT_TIMEOUT (R341, R331): no valid message, or no signature of a frame, within the heartbeat timeout. -/
def execHeartbeatTimeout (bySignature : Bool) (s : State) : Host.Outcome State Fault Refusal :=
  .next (let wait := usTicks s.pair.link.timeoutUs
    if !s.pair.link.up then s
    else if bySignature then
      match lateSignature s with
      | some f => linkDown (advanceTo (s.clk.rawOf (boundaryCount s (f + 1)) + wait) s)
      | none => s
    else linkDown (advanceTo (s.pair.link.aliveAt + wait) s))

/-- The latest boundary: its frame and its full time in 2^−16 ns. -/
def lastBoundary (s : State) : Nat × Int := (s.sys.frameNo, boundaryTime16 s s.sys.frameNo)

/-- TIME_INTERVAL (R347): this message's stamp, and those of the latest TIME received. -/
def execTimeInterval (s : State) : Host.Outcome State Fault Refusal :=
  .next (if s.pair.link.up then
      sendLink (.time s.clk.full16 s.pair.link.latest (lastBoundary s).1 (lastBoundary s).2) s
    else s)

/-- A message with a CRC failure, or a form that breaks the protocol, which counts as one (R345, R348). -/
def badMessage (crc : Bool) (s : State) : State :=
  if !s.sys.pairEn ∨ !s.pair.link.up then s
  else
    let s := setLink (fun k => { k with crcFail := (k.crcFail + 1) % 2 ^ 32 }) s
    discard (if crc then s else protocolNote s)

/-- TWL_BAD_MESSAGE (R345, R348). -/
def execTwlBadMessage (crc : Bool) (s : State) : Host.Outcome State Fault Refusal := .next (badMessage crc s)

/-! ### Class 0 messages of the link itself -/

def execLinkAck (h : LinkHdr) (s : State) : Host.Outcome State Fault Refusal := receive h false (fun _ => true) id s

def execLinkNak (h : LinkHdr) (expected : Nat) (s : State) : Host.Outcome State Fault Refusal :=
  receive h false (fun _ => true) (resendFrom expected) s

/-- LANES (R342): the active set of the direction that the sender transmits, from an alignment count on. -/
def execLanes (h : LinkHdr) (active fromCount : Nat) (s : State) : Host.Outcome State Fault Refusal :=
  receive h true (fun _ => true) (fun s =>
    if laneCount active < 3 then linkDown s
    else if fromCount ≤ s.pair.link.align then setLink (fun k => { k with rxSet := active, nextSet := none }) s
    else setLink (fun k => { k with nextSet := some (active, fromCount) }) s) s

/-! ### The handshake's messages (R324) -/

/-- The identity and firmware of a HELLO. -/
def sameUnit (a b : Hello) : Bool :=
  decide ((a.serial, a.ordering, a.revision, a.keyHash) = (b.serial, b.ordering, b.revision, b.keyHash)) &&
    decide ((a.series, a.version, a.build, a.seril) = (b.series, b.version, b.build, b.seril))

/-- HELLO: the first of a handshake, or one that starts it again. One whose identity or firmware has changed while the
pair stands is logged (R348). -/
def execHello (h : LinkHdr) (told : Hello) (s : State) : Host.Outcome State Fault Refusal :=
  receive h true (fun _ => true) (fun s =>
    let known := s.pair.hello
    let s := setPair (fun p => { p with partner := some told }) s
    if !s.pair.enable then s
    else if s.pair.state = 1 ∧ s.pair.step = 1 ∧ s.pair.passed = 0 then setPair (fun p => { p with hello := some told }) s
    else
      let changed : Bool := match known with | some old => decide (3 ≤ s.pair.state) && !sameUnit old told | none => false
      let s := if changed then report Src.pair K.pairRefused 2 0 0 s else s
      startHandshake (some told) s) s

/-- VERDICT: the partner passes a step, or the handshake fails on its word. -/
def execVerdict (h : LinkHdr) (reached : Nat) (pass : Bool) (why : Nat) (s : State) : Host.Outcome State Fault Refusal :=
  receive h true (fun _ => true) (fun s =>
    if s.pair.state ≠ 1 then s
    else if pass then endSix (beginSix (beginFive (setPair (fun p => { p with partnerPassed := max p.partnerPassed reached }) s)))
    else refusePair false why s) s

/-- CONFIG: a section for the joiner, which adopts all of them at an apply frame when ADOPT is on. -/
def execConfig (h : LinkHdr) (part : Nat) (edits : List Edit) (changes : List Change) (s : State) :
    Host.Outcome State Fault Refusal :=
  receive h true (fun s => decide (s.pair.state = 1 ∧ s.pair.step = 5) && !s.pair.source) (fun s =>
    let s := setPair (fun p => { p with config := Tbl.put p.config part (edits, changes) }) s
    if s.pair.adopt ∧ s.pair.config.length = 5 then setPair (fun p => { p with adoptAt := some (applyFrame s) }) s else s) s

/-- CONFIG_HASH: compared at once, except by a joiner that has still to adopt. -/
def execConfigHash (h : LinkHdr) (hash : List Byte) (s : State) : Host.Outcome State Fault Refusal :=
  receive h true (fun s => decide (s.pair.state = 1 ∧ s.pair.step = 5)) (fun s =>
    let s := setPair (fun p => { p with partnerHash := hash }) s
    if s.pair.source then judgeHash s
    else if s.pair.adopt then s
    else tellHash s) s

/-! ### TIME and HEARTBEAT (R324, R341, R347) -/

/-- The frame of this engine whose boundary lies nearest to a time, and how far it lies off. -/
def nearBoundary (s : State) (t : Int) : Nat × Nat :=
  let f := nearestFrame s (t / 65536).toNat
  (f, (boundaryTime16 s f - t).natAbs)

/-- 100 ns in 2^−16 ns. -/
def within100 : Nat := 6553600

/-- Step 6 at a measurement: e is the offset to the partner; the boundary is the partner's, in its time. The joiner steps
and realigns first; then both judge the boundaries, and the joiner its servo. -/
def stepSix (e : Int) (number : Nat) (boundary : Int) (s : State) : State :=
  if !s.pair.source ∧ !s.pair.stepped then
    let s := timeStep (-e) true s
    let f := commitFrame s
    let c : CommitSet := { due := some f, changes := [.realign (extensionFor s f (some (boundary / 65536).toNat))] }
    { s with commit := { s.commit with sets := s.commit.sets ++ [c] }, pair := { s.pair with stepped := true } }
  else
    let s := if s.pair.source then s else servoMeasure 3 e s
    let (f, off) := nearBoundary s (boundary + e)
    let near := decide (off ≤ within100)
    let d : Int := if s.pair.source then (f : Int) - number else (number : Int) - f
    let s := setPair (fun p => { p with near := near, delta := if near then d else p.delta }) s
    let locked := s.pair.source || (decide (s.time.state = 2) && decide (e.natAbs ≤ within100))
    if near ∧ locked ∧ s.pair.passed < 6 then endSix (passStep 6 s) else s

/-- TIME: the offset of this engine to the partner, from the latest two stamps of each direction (R347). -/
def execTime (h : LinkHdr) (sent : Int) (latest : Option Stamps) (number : Nat) (boundary : Int) (s : State) :
    Host.Outcome State Fault Refusal :=
  receive h true (fun _ => true) (fun s =>
    let t2 := s.clk.full16
    let s := setLink (fun k => { k with latest := some (sent, t2) }) s
    match latest with
    | none => s
    | some x =>
      let e := ((t2 - sent) - (x.got - x.sent)) / 2 - s.pair.link.asym * 65536 / 2000
      if s.pair.state = 1 ∧ s.pair.step = 6 then stepSix e number boundary s
      else if followsPartner s then servoMeasure 3 e s
      else s) s

/-- HEARTBEAT: the interlock check of step 4 again (R341). -/
def execHeartbeat (h : LinkHdr) (pairState : Nat) (_active drives reads : Bool) (severity : Nat) (s : State) :
    Host.Outcome State Fault Refusal :=
  receive h true (fun _ => true) (fun s =>
    let s := setPair (fun p => { p with peer := some (pairState, drives, reads, severity) }) s
    if s.pair.partnerIn = drives then s else reportLimited Src.pair K.pairWiring 3 0 0 s) s

/-! ### Reconciliation (R96, R150, R274, R327, R328) -/

/-- A frame number of the link that this engine can expect now (R348). -/
def frameExpected (s : State) (f back : Nat) : Bool := decide (s.sys.frameNo ≤ f + back) && decide (f ≤ s.sys.frameNo + 4)

/-- The active engine's emergency state decides on the standby at the boundary after this frame (R150). -/
def takeEmerg (mask : Nat) (s : State) : State :=
  (List.range 4).foldl (fun s n =>
    let e := emergOf s n
    let on := Fx.bit mask n
    let target := match e.due with | some d => d.2 | none => e.asserted
    if target = on then s else putEmerg n { e with due := some (s.sys.frameNo + 1, on) } s)
    (setPair (fun p => { p with partnerEmerg := mask }) s)

/-- RECON: compared with the own one of the frame, when that has been sent. -/
def execRecon (h : LinkHdr) (number : Nat) (crcs : List PortCrc) (emerg : Nat) (figures : List AsrcFig) (s : State) :
    Host.Outcome State Fault Refusal :=
  receive h true (fun s => decide (s.pair.state ≠ 2)) (fun s =>
    if !inCopyOrStep s then s
    else if !frameExpected s (ownFrame s number) 4 then protocolNote s
    else
      let f := ownFrame s number
      let peer := crcs.map fun e => (e.port, e.crc)
      let s := if s.pair.activeOut then s
        else takeEmerg emerg (noteFigures f (figures.map fun e => (e.port, e.rate, e.phase)) s)
      match Tbl.find s.pair.ownRecon f with
      | some own => compareRecon f own peer s
      | none => setPair (fun p => { p with peerRecon := Tbl.put p.peerRecon f peer }) s) s

/-- PKT_RECON. -/
def execPktRecon (h : LinkHdr) (items : List Arrival) (s : State) : Host.Outcome State Fault Refusal :=
  receive h true (fun s => decide (s.pair.state ≠ 2)) (fun s =>
    if inCopyOrStep s then items.foldl (fun s a => peerArrival a s) s else s) s

/-- What DATA answers to a FETCH: nothing where this engine does not hold the item either. -/
def itemWords (s : State) : FetchItem → Option (List Nat)
  | .portSection p f => (inSection s p (ownFrame s f)).map sectionWords
  | .packet id c => match Tbl.find s.net.rx id with
    | some x => (x.placed.find? fun p => decide (p.count = c)).map fun p => p.payload.map (·.toNat)
    | none => none
  | .block n f => match (voiceOf s n).ahead with
    | some (g, xs) => if g = ownFrame s f then some (xs.map fun x => (x % 16777216).toNat) else none
    | none => none

/-- FETCH. -/
def execFetch (h : LinkHdr) (item : FetchItem) (s : State) : Host.Outcome State Fault Refusal :=
  receive h true inCopyOrStep (fun s => match itemWords s item with
    | some ws => sendLink (.data item ws) s
    | none => s) s

/-- Positions of a section from the words of DATA: n words after each flag. -/
def sectionOf (n : Nat) : Nat → Nat → List Nat → Tbl (List Nat × Bool)
  | 0, _, _ => []
  | _ + 1, _, [] => []
  | fuel + 1, p, v :: ws => (p, ws.take n, decide (v ≠ 0)) :: sectionOf n fuel (p + 1) (ws.drop n)

/-- Take an item from the partner (R274, R327, R328). -/
def takeData (item : FetchItem) (words : List Nat) (s : State) : State :=
  let s := setPair (fun p => { p with fetching := p.fetching.erase item }) s
  match item with
  | .portSection p f =>
    let f := ownFrame s f
    let sec : Section61 := { frame := f, mask := useMask s p false, pos := sectionOf (slotsInUse s p false).length (sectionSize s p) 0 words }
    let s := setPair (fun q => { q with reconWait := q.reconWait.erase (p, f) }) s
    if f + 1 ≤ s.sys.frameNo + 1 ∧ s.sys.frameNo ≤ f + 2 then
      putPort p { portOf s p with inRing := Tbl.put (portOf s p).inRing (f % 4) sec } s
    else s
  | .packet id c => match Tbl.find s.net.rx id with
    | none => s
    | some x =>
      let payload : List Byte := words.map fun w => BitVec.ofNat 8 w
      let rows := payloadRows x.cfg.enc x.cfg.channels (payload.length / (x.cfg.channels * (2 + x.cfg.enc))) payload
      let late := decide (c + linkSamples s x.cfg ≤ mediaNow s 0)
      let buf := (rows.zip (List.range rows.length)).foldl (fun t e => Tbl.put t (c + e.2) e.1) x.buf
      let crc := crc32c payload
      let entry : Placed62 := { count := c, samples := rows.length, crc := crc, path := 0, payload := payload }
      if late then s else putRx id { x with buf := buf, placed := entry :: x.placed.filter fun p => decide (p.count ≠ c) } s
  | .block n f =>
    let xs := words.map fun w => Fx.toSigned 24 (w % 16777216)
    if (voiceOf s n).state = 0 then s else putVoice n { voiceOf s n with given := some (ownFrame s f, xs) } s

/-- DATA: a section comes from the active engine only, any other item to the engine that has asked for it. -/
def execData (h : LinkHdr) (item : FetchItem) (words : List Nat) (s : State) : Host.Outcome State Fault Refusal :=
  receive h true (fun s => inCopyOrStep s && (match item with | .portSection _ _ => !s.pair.activeOut | _ => true)) (fun s =>
    match item with
    | .portSection _ _ => takeData item words s
    | i => if s.pair.fetching.contains i then takeData i words s else s) s

/-! ### Commands (R329, R330, R468) -/

/-- This engine takes forwarded commands. -/
def takesCommands (s : State) : Bool := inCopyOrStep s && !s.pair.activeOut

/-- COMMAND: an image that this engine's own checks refuse ends the pairing (R185). -/
def execCommand (h : LinkHdr) (txn slot seq : Nat) (edits : List Edit) (changes : List Change) (s : State) :
    Host.Outcome State Fault Refusal :=
  receive h true takesCommands (fun s =>
    if changes.any (imageFails s) then refusePair true 5 (sendLink (.commandAck txn false false) s)
    else enterCommand txn slot seq edits changes s) s

/-- COMMIT: the apply frame of a forwarded command; one whose frame has passed takes this engine out of step (R330). -/
def execCommit (h : LinkHdr) (txn number : Nat) (s : State) : Host.Outcome State Fault Refusal :=
  receive h true takesCommands (fun s =>
    match s.pair.txns.find? fun t => decide (t.id = txn) with
    | none => protocolBroken s
    | some t =>
      let f := ownFrame s number
      if f ≤ s.sys.frameNo then leaveStep (report Src.pair K.pairCommand 3 (txn % 65536) 0 s)
      else
        let sets := s.commit.sets.map fun (c : CommitSet) => if c.txn = some txn then { c with due := some f, txn := none } else c
        let s := { s with commit := { s.commit with sets := sets } }
        let s := match t.action with
          | some a => { s with scene := { s.scene with actions := Tbl.mapV (fun k (x : Action) =>
              if k = a then { x with state := if x.time.isSome then .handed else x.state, frame := some f, txn := none } else x) s.scene.actions } }
          | none => s
        sendLink (.commandAck txn true true) (finishTxn { t with acked := true, frame := some f } s)) s

/-- The partner holds a command's words (R329, R139, R141): the apply frame is assigned; an action stands armed, and one with a
time waits for its hand-over. -/
def commandHeld (t : Txn) (s : State) : State :=
  let s := setPair (fun p => { p with txns := p.txns.map fun (u : Txn) => if u.id = t.id then { u with acked := true } else u }) s
  match t.action with
  | none => assignFrame t.id (applyFrame s) s
  | some a => match Tbl.find s.scene.actions a with
    | none => s
    | some x =>
      let x : Action := { x with state := .loaded }
      let s := postArmed a x (putAction a x s)
      if x.time.isNone then
        let f := applyFrame s
        assignFrame t.id f (putAction a { x with frame := some f } s)
      else handOver a s

/-- The partner has the apply frame: the host is answered (R329). -/
def commitHeld (t : Txn) (s : State) : State :=
  let f := t.frame.getD 0
  let mine := s.commit.sets.find? fun c => decide (c.txn = some t.id)
  let sets := s.commit.sets.map fun (c : CommitSet) => if c.txn = some t.id then { c with txn := none, answer := none } else c
  let s := finishTxn t { s with commit := { s.commit with sets := sets } }
  match mine.bind (·.answer) with
  | some a => answerAt a f 0 s
  | none => s

/-- COMMAND_ACK. -/
def execCommandAck (h : LinkHdr) (txn : Nat) (ok ofCommit : Bool) (s : State) : Host.Outcome State Fault Refusal :=
  receive h true (fun s => inCopyOrStep s && s.pair.activeOut) (fun s =>
    match s.pair.txns.find? fun t => decide (t.id = txn) with
    | none => s
    | some t =>
      if !ok then
        let s := match s.commit.sets.find? fun c => decide (c.txn = some txn) with | some c => commitSetAlone c s | none => s
        leaveStep s
      else if ofCommit then commitHeld t s
      else if t.acked then s else commandHeld t s) s

/-! ### Signatures, switch-over, identities, the state copy -/

/-- SIGNATURE (R331, R348). -/
def execSignature (h : LinkHdr) (number sap net record : Nat) (invalid : Bool) (detection : Nat) (s : State) :
    Host.Outcome State Fault Refusal :=
  receive h true (fun s => decide (s.pair.state ≠ 2)) (fun s =>
    if inCopyOrStep s ∧ !frameExpected s (ownFrame s number) 64 then protocolNote s
    else if inCopyOrStep s then
      noteSignature (ownFrame s number) (fun x => { x with
        partner := some (sap, net, record), partnerDet := detection, invalid := x.invalid || invalid }) s
    else s) s

/-- SWITCH (R333, R334): a planned one names this engine at its frame; after one of kind FAULT the standby takes over on
PARTNER_ACTIVE, and the former active engine resynchronises. -/
def execSwitch (h : LinkHdr) (fault : Bool) (number : Nat) (s : State) : Host.Outcome State Fault Refusal :=
  receive h true (fun s => fault || !s.pair.activeOut) (fun s =>
    if fault then (if s.pair.activeOut then leaveStep s else setPair (fun p => { p with handover := true }) s)
    else setPair (fun p => { p with switchAt := some (ownFrame s number), forced := decide (p.state ≠ 4) }) s) s

/-- The own identity is this engine's again: its addresses are announced (R278). -/
def resumeOwn (s : State) : State :=
  let s := setPair (fun p => { p with ownId := true }) s
  ((List.range 4).filter fun n => decide (isBlue n = ownBlue s)).foldl (fun s n => gratuitousArp n (mediaAddr s n) s) s

/-- IDENTITY (R278). -/
def execIdentity (h : LinkHdr) (claim blue : Bool) (s : State) : Host.Outcome State Fault Refusal :=
  receive h true (fun _ => true) (fun s =>
    if blue = ownBlue s then (if claim then setPair (fun p => { p with ownId := false }) s else resumeOwn s)
    else if claim then releaseIdentity s
    else if s.pair.state = 4 ∨ s.pair.activeOut then claimIdentity s
    else s) s

/-- STATE (R337, R348): words outside a region of R338 abandon the copy, and the source hears of it. -/
def execState (h : LinkHdr) (item : CopyItem) (s : State) : Host.Outcome State Fault Refusal :=
  receive h true (fun s => decide (s.pair.state = 3) && !s.pair.activeOut) (fun s =>
    match takeItem item s with
    | some s => s
    | none => sendLink (.stateCtrl 3 1) (copyFailed (report Src.pair K.pairSync 3 0 0 s))) s

/-- STATE_CTRL (R337): 0 a round starts, 1 it ends, 2 the final frame, 3 the joiner's result. -/
def execStateCtrl (h : LinkHdr) (kind value : Nat) (s : State) : Host.Outcome State Fault Refusal :=
  receive h true (fun s => decide (3 ≤ s.pair.state) && (s.pair.activeOut == decide (kind = 3))) (fun s =>
    match kind with
    | 0 =>
      if s.pair.state = 3 ∧ s.pair.copying then setPair (fun p => { p with agreed := 0, finalFrame := none }) s
      else if s.pair.state = 4 then leaveStep s
      else startCopy s
    | 1 => setPair (fun p => { p with round := p.round + 1, progress := 1000 }) s
    | 2 => setPair (fun p => { p with finalFrame := some (ownFrame s value) }) s
    | _ => if value = 0 then s else copyFailed s) s

end Sys2Proof.Machine
end

