-- ==== Sys2Proof/Machine/FaultCmds.lean ====
section
/-!
DEFINITION. Fault records, the collector's events and commands, self-test, supervision and the nightly window (13, R490):
the meanings.
-/
namespace Sys2Proof.Machine
open Sys2Proof

/-! ### Records and reactions (R350 to R362) -/

/-- FAULT_N is low (R360). -/
def faultNLow (s : State) : Bool :=
  s.sys.inReset || !s.flt.started || decide (s.clk.raw < s.flt.pinUntil) || !vcoreInWindow s.pwr.vcore || s.flt.table.any (fun e => entryHoldsPin s (e.1 % 256) e.2.sev) ||
  (match s.flt.full with | some v => entryHoldsPin s K.faultTableFull v | none => false)

/-- FAULT_RECORD (R350, R356): a block's record reaches the collector; severities 5 to 7 are never sent. -/
def execFaultRecord (source kind sev count index : Nat) (ended : Bool) (detail : Nat) (s : State) : Host.Outcome State Fault Refusal :=
  .next (if 4 < sev ∨ !K.all.contains kind ∨ (ended ∧ !isCondition kind) then s
    else collect { source := source % 4096, kind := kind, sev := sev, count := count, index := index, ended := ended,
                   detail := detail % 32768, timeNs := s.clk.ns } s)

/-- SAFE_STATE_DELAY (R359): 2 ms after the detection PARTNER_ACTIVE decides whether the safe state applies. -/
def execSafeStateDelay (s : State) : Host.Outcome State Fault Refusal :=
  .next (match s.pair.requestAt with
    | none => s
    | some t =>
      let s := advanceTo (t + msTicks 2) s
      let table := Tbl.mapV (fun _ (e : FaultEntry) =>
        { e with safe := e.safe || (e.safeWait && !s.pair.partnerIn), safeWait := false }) s.flt.table
      { s with flt := { s.flt with table := table }, pair := { s.pair with requestAt := none } })

/-- Mladir runs again (R358): chunked objects are gone (R460), and so is what its control SRAM lost of actions and lists. -/
def mladirBack (actions lists : List Nat) (s : State) : State :=
  let s := { s with
    sys := { s.sys with mladirUp := true, mladirRestarting := false, mladirBeat := s.clk.raw }
    mbx := { s.mbx with objects := [] }
    pwr := { s.pwr with trialAt := s.pwr.trialAt.map fun _ => s.clk.raw } }
  let s := actions.foldl (fun s a => actionFails a St.faulted 0 s) s
  let s := lists.foldl (fun s n => discardList n s) s
  report Src.mladir K.mladirRestart 2 0 0 s

/-- RESET_FUNCTION_DONE (R358). `actions` and `lists` are those whose copies fail their CRC in a restart of Mladir. -/
def execResetFunctionDone (source : Nat) (actions lists : List Nat) (s : State) : Host.Outcome State Fault Refusal :=
  .next (if !s.flt.resets.contains source then s
    else
      let s := if s.flt.resetsDue.contains source then
          beginReset source { s with flt := { s.flt with resetsDue := s.flt.resetsDue.filter (· != source) } }
        else s
      completeReset source (if source = Src.mladir then mladirBack actions lists s else s))

/-- MLADIR_STALL (R143, R362): 50 ms without a heartbeat; the comparator stops committing. -/
def execMladirStall (s : State) : Host.Outcome State Fault Refusal :=
  .next (if !s.sys.mladirUp then s
    else
      let s := advanceTo (s.sys.mladirBeat + msTicks 50) s
      report Src.mladir K.mladirStall 3 0 0 { s with sys := { s.sys with mladirUp := false } })

/-- MLADIR_HEARTBEAT (R362, R449): every 10 ms; after a stall Mladir responds again. -/
def execMladirHeartbeat (s : State) : Host.Outcome State Fault Refusal :=
  .next (if s.sys.inReset ∨ s.sys.mladirRestarting then s
    else { s with sys := { s.sys with
      mladirUp := true, mladirBeat := s.clk.raw, heartbeat := (s.sys.heartbeat + 1) % 2 ^ 32 } })

/-- MLADIR_LOCKSTEP (R362). -/
def execMladirLockstep (s : State) : Host.Outcome State Fault Refusal := .next (report Src.mladir K.mladirLockstep 3 0 0 s)

/-- WATCHDOG (R362): a handshake outside the fronds, with the source that owns it. -/
def execWatchdog (source : Nat) (s : State) : Host.Outcome State Fault Refusal :=
  .next (report (source % 4096) K.watchdog 3 0 0 s)

/-! ### Scrubbing and marches (R364 to R370) -/

/-- A word whose check bits fail stays poisoned (R364); the model keeps those of control SRAM and bulk memory. -/
def poisonWord (m offset : Nat) (s : State) : State :=
  let at_ := if m = 576 then some (0, offset / 4)
    else if m < 25 then (logicalOf s m).map fun l => (1, bulkAddr l offset / 4) else none
  match at_ with
  | some w => if s.mem.poison.contains w then s else { s with mem := { s.mem with poison := w :: s.mem.poison } }
  | none => s

/-- SCRUB_WORD (R364). `mem` is an ID of R367, or above them 600 mailbox, 601 twin-link buffers, 602 page banks. `place` of
an uncorrectable word: 1 a frond's program memory or constant area, which Mladir rewrites from the image copy (R153; log
entry 40), 2 the shadow bank of a free page, 0 elsewhere. -/
def execScrubWord (mem offset : Nat) (correctable : Bool) (place page : Nat) (s : State) : Host.Outcome State Fault Refusal :=
  .next (if !isMemory mem ∧ ¬ (600 ≤ mem ∧ mem ≤ 602) then s
    else
      let (one, s) := takeInjected (fun x => decide (x = (0, mem, offset / 4))) s
      let (two, s) := takeInjected (fun x => decide (x = (1, mem, offset / 4))) s
      let correctable := one || (correctable && !two)
      let note := fun kind sev s => report (memSource mem) kind sev offset (memDetail mem) s
      if correctable then note K.eccCe 1 s
      else match place with
        | 1 => note K.frondRewrite 1 s
        | 2 =>
          let s := if (Tbl.find s.page.status page).isNone then putShadowRec page (Tbl.getD s.page.active page []) s else s
          note K.eccCe 1 s
        | _ => scheduleRepair mem (note K.scrubUe 3 (poisonWord mem offset s)))

/-- A memory that a march cannot mend leaves service (R366, R367). -/
def retireMemory (m : Nat) (s : State) : State :=
  if m < 25 then
    retireBank m { s with sys := { s.sys with spareBank := if s.sys.spareBank = some m then none else s.sys.spareBank } }
  else match frondOfMemory m with
    | some f => if s.sys.retired.contains f then s else failFrond f s
    | none => s

/-- MARCH_DONE (R368): the rows that failed are repaired, the request is answered, and the safe state that the march held is
released. `stays`: the memory still fails after its repair. -/
def execMarchDone (rows : List Nat) (stays : Bool) (badWrites : Nat) (s : State) : Host.Outcome State Fault Refusal :=
  .next (match s.supv.march with
    | none => s
    | some (m, c, q) =>
      let (n, ok, s) := repairRows m rows (badOtp (if rows = [] then 0 else badWrites) s)
      let s := { s with
        supv := { s.supv with march := none }
        flt := { s.flt with marchHold := false, repairs := s.flt.repairs.filter (· != m) } }
      let s := if ok ∧ !stays then s else retireMemory m s
      answer c q 0x0A0C 0 (done [] (u16 rows.length ++ u16 n) (rows.flatMap u16)) s)

/-- BANK_MIGRATION_DONE (R369): the logical bank stands in the spare; the vacated bank is marched, repaired, and is the spare,
or is retired. -/
def execBankMigrationDone (rows : List Nat) (stays : Bool) (badWrites : Nat) (s : State) : Host.Outcome State Fault Refusal :=
  .next (match s.supv.migrating, s.sys.spareBank with
    | some b, some sp =>
      match logicalOf s b with
      | none => { s with supv := { s.supv with migrating := none } }
      | some l =>
        let s := { s with
          sys := { s.sys with bankMap := Tbl.put s.sys.bankMap l sp, spareBank := none }
          supv := { s.supv with migrating := none }
          flt := { s.flt with repairs := s.flt.repairs.filter (· != b) } }
        let s := report (Src.bank b) K.bankMigrated 0 0 0 s
        let (_, ok, s) := repairRows b rows (badOtp (if rows = [] then 0 else badWrites) s)
        let good := ok && !stays
        let s := if good then { s with sys := { s.sys with spareBank := some b } } else retireBank b s
        endItem 2 (if good then 0 else 3) (completeReset (Src.bank b) s)
    | _, _ => s)

/-- FROND_TEST_DONE (R370): a frond that fails is repaired and tested once more. `rows` are the rows its march found. -/
def execFrondTestDone (pass : Bool) (rows : List FailRow) (badWrites : Nat) (s : State) : Host.Outcome State Fault Refusal :=
  .next (match s.supv.testing with
    | none => s
    | some f =>
      if s.sys.spareFrond ≠ some f then s
      else
        let stop := fun (s : State) => { s with supv := { s.supv with testing := none, failedOnce := false, lastFrond := some f } }
        if pass then endItem 3 0 (stop s)
        else if s.supv.failedOnce then endItem 3 3 (failFrond f (stop s))
        else
          let (ok, s) := rows.foldl (fun (ok, s) r =>
            let (done, s) := repairRow (32 + 16 * f + r.part) r.row s
            (ok && done, s)) (true, badOtp (if rows = [] then 0 else badWrites) s)
          if ok then { s with supv := { s.supv with failedOnce := true } } else endItem 3 3 (failFrond f (stop s)))

/-! ### The nightly window (R371 to R374) -/

/-- The start of the next window: the set start and its periods after the latest one. -/
def nextWindow (s : State) : Nat :=
  match s.supv.begun with
  | none => s.supv.start
  | some b => if b < s.supv.start then s.supv.start
    else s.supv.start + ((b - s.supv.start) / max 1 s.supv.periodS / 1000000000 + 1) * s.supv.periodS * 1000000000

/-- Advance to a full time in ns, when it lies ahead. -/
def advanceToFull (t : Nat) (s : State) : State :=
  if s.clk.unset ∨ t ≤ s.clk.full then s else advanceToCount (s.clk.count + ((t - s.clk.full : Nat) : Int) * 65536) s

/-- NIGHTLY_WINDOW_START (R371). `fails` are the store addresses whose read-back fails, `badMove` that a word of the frond's
move fails (log entry 12). A following standby begins with the forwarded start. -/
def execNightlyWindowStart (fails : List Nat) (badMove : Bool) (s : State) : Host.Outcome State Fault Refusal :=
  .next (
    let s := { s with supv := { s.supv with readback := fails, badMove := badMove } }
    if !s.supv.enable ∨ s.supv.step.isSome ∨ followsPartner s then s
    else
      let s := advanceToFull (nextWindow s) s
      if forwards s then
        let cs : List Change := [.setting 0x0A0B []]
        forward { slot := 0xFF, seq := 0, crc := 0 } { changes := cs } [] cs none s
      else beginWindow s)

/-- NIGHTLY_WINDOW_END (R374): items that remain run first in the next window. -/
def execNightlyWindowEnd (s : State) : Host.Outcome State Fault Refusal :=
  .next (match s.supv.step with
    | none => s
    | some i =>
      let s := advanceToFull (s.supv.begun.getD 0 + s.supv.lengthS * 1000000000) s
      let rest := i :: s.supv.todo
      let again := rest.any fun j => s.supv.left.contains j
      let s := { s with
        supv := { s.supv with left := rest }
        port := { s.port with proof := match s.port.proof with | some p => if p.nightly then none else some p | none => none } }
      let s := rest.foldl (fun s j => setResult j 2 s) s
      closeWindow (report Src.collector K.nightlyIncomplete (if again then 2 else 1) 0 0 s))

/-- RAW at which 16 blocks of a proof's input have passed (R239). -/
def proofEnd (s : State) (p : Proof) (port : Nat) : Nat := p.at_ + 16 * 192 * 250000000 / max 1 (portHz s port)

/-- PATH_PROOF_DONE (R239, R372): every input has a result, or 16 blocks have passed, to whose end the time moves on (log entry
70). A proof of the window logs the inputs
that have none; a request is answered. -/
def execPathProofDone (s : State) : Host.Outcome State Fault Refusal :=
  .next (match s.port.proof with
    | none => s
    | some p =>
      let resultOf := fun (e : Nat × Nat) => (Tbl.find (portOf s e.1).markRx e.2).bind fun m => m.result
      let mute := p.ins.filter fun e => (resultOf e).isNone
      let s := mute.foldl (fun s e => advanceTo (max s.clk.raw (proofEnd s p e.1)) s) s
      let wrong := p.ins.any fun e => match resultOf e with | some (c, _) => (resultKind c).isSome | none => false
      let res := proofResults s p.ins
      let ports := Tbl.mapV (fun n (x : Port) =>
        { x with markRx := Tbl.mapV (fun k (m : MarkRx) => if p.ins.contains (n, k) then { m with proving := false } else m) x.markRx }) s.port.port
      let s := { s with port := { s.port with proof := none, port := ports } }
      if p.nightly then
        let s := mute.foldl (fun s e => report (Src.sap e.1) K.pathProofTimeout 2 e.2 0 s) s
        endItem 4 (if mute = [] ∧ !wrong then 0 else 3) s
      else answer p.slot p.seq 0x060A 0 (done [] res) s)

/-! ### Supervised zones and ageing (R375 to R379) -/

/-- DETECTOR_BLOCK (R376): a detector's complete block is judged, and taken into a calibration in progress. -/
def execDetectorBlock (detector : Nat) (s : State) : Host.Outcome State Fault Refusal :=
  .next (match Tbl.find s.blk.pilot detector with
    | none => s
    | some d =>
      if !d.fresh then s
      else
        let s := { s with blk := { s.blk with pilot := Tbl.put s.blk.pilot detector { d with fresh := false } } }
        judgeZone detector d (calibrateBlock detector d s))

def execAgeingHour (s : State) : Host.Outcome State Fault Refusal := .next (ageingHour s)
def execAgeingDay (s : State) : Host.Outcome State Fault Refusal := .next (ageingDay s)

/-! ### FAULT commands (R490) -/

/-- FAULT.LOG_READ (R355): entries from a sequence number on; reading the service log is what keeps it from loss. -/
def execFaultLogRead (r : Req) (log start limit : Nat) (s : State) : Host.Outcome State Fault Refusal :=
  serve { code := 0x0A01 } r (fun _ s =>
    if 1 < log then (s, refuse St.conflict)
    else
      let es := ((if log = 0 then s.flt.log else s.flt.persist).reverse.filter fun e => decide (start ≤ e.seq)).take limit
      let next := match es.getLast? with | some e => e.seq + 1 | none => start
      let s := if log = 0 then { s with flt := { s.flt with readSeq := max s.flt.readSeq (if es = [] then 0 else next) } } else s
      (s, done [] (u32 next ++ u32 (if log = 0 then s.flt.lost else s.flt.persistLost) ++ u16 es.length) (es.flatMap LogEntry.bytes))) s

/-- An uncleared entry as FAULT.ACTIVE lists it. -/
def entryBytes (source kind : Nat) (e : FaultEntry) : List Byte :=
  u16 source ++ u8 kind ++ u8 e.sev ++ u32 e.total ++ e.first.bytes ++ e.latest.bytes

/-- FAULT.ACTIVE (R354, R381): FAULT_TABLE_FULL stands last. -/
def execFaultActive (r : Req) (s : State) : Host.Outcome State Fault Refusal :=
  serve { code := 0x0A02 } r (fun _ s =>
    let es := s.flt.table.map fun e => entryBytes (e.1 / 256) (e.1 % 256) e.2
    let es := es ++ (if s.flt.full.isSome then [entryBytes Src.collector K.faultTableFull s.flt.fullEntry] else [])
    (s, done [] (u16 es.length ++ u8 (Fx.b2n (faultNLow s)) ++ u8 (Fx.b2n (safeInForce s))) es.flatten)) s

/-- FAULT.CLEAR (R354): no entries name every event entry; one that names a condition alone is refused. -/
def execFaultClear (r : Req) (entries : List FaultName) (s : State) : Host.Outcome State Fault Refusal :=
  serve { code := 0x0A03, reach := .here } r (fun _ s =>
    let held := fun k => Tbl.has s.flt.table k || (decide (k = faultKey Src.collector K.faultTableFull) && s.flt.full.isSome)
    let keys := if entries = [] then (s.flt.table.map (·.1)).filter fun k => !isCondition (k % 256)
      else (entries.map fun e => faultKey e.source e.kind).filter held
    let stay := keys.filter fun k => isCondition (k % 256)
    if entries.length = 1 ∧ stay ≠ [] then (s, refuse St.conflict)
    else
      let s := (keys.filter fun k => !isCondition (k % 256)).foldl (fun s k => clearEntry k s) s
      (s, done [] (u16 stay.length))) s

/-- A reaction entry with log set for severities 2 to 4 (R356). -/
def withLog (v : Nat) : Nat := v ||| 0x01041000

/-- FAULT.REACTION (R356). -/
def execFaultReaction (r : Req) (op : Nat) (entries : List Reaction) (s : State) : Host.Outcome State Fault Refusal :=
  serve (settingCmd 0x0A04 op none) r (fun r s =>
    if op = 1 ∧ entries.any (fun e => decide (2 ^ 30 ≤ e.value)) then badRequest s
    else sharedSetting r 0x0A04 op (fun _ =>
      let cl := ((List.range entries.length).zip entries).flatMap fun (i, e) =>
        if withLog e.value = e.value then []
        else [({ field := 7, entry := i, requested := e.value, applied := withLog e.value } : Clamp)]
      .ok ([.setting 0x0A04 (entries.flatMap fun e => [(e.kind : Int), (withLog e.value : Int)])], cl))
      (fun s => (List.range 256).flatMap fun k => u32 (reactionOf s k)) s) s

/-- FAULT.PIN_LEVEL (R360). -/
def execFaultPinLevel (r : Req) (op level : Nat) (s : State) : Host.Outcome State Fault Refusal :=
  serve { code := 0x0A05, reach := if op = 1 then .here else .read } r (readOrSet op (fun s =>
    let (v, cl) := clampField 1 0 1 4 level
    ({ s with flt := { s.flt with pinLevel := v.toNat } }, cl)) (fun s => u8 s.flt.pinLevel)) s

/-- FAULT.RETRY_LIMIT (R38). -/
def execFaultRetryLimit (r : Req) (op limit : Nat) (s : State) : Host.Outcome State Fault Refusal :=
  serve (settingCmd 0x0A06 op none) r (fun r s => sharedSetting r 0x0A06 op (fun _ =>
    let (v, cl) := clampField 1 0 1 64 limit
    .ok ([.setting 0x0A06 [v]], cl)) (fun s => u8 s.flt.retryLimit) s) s

/-! ### SUPV commands (R375, R376) -/

/-- The meter is a pilot-tone detector (R100; log entry 18). -/
def isDetector (s : State) (n : Nat) : Bool := decide (3 ≤ effGet s (0x800 + n) 0)

/-- SUPV.ZONE (R375). -/
def execSupvZone (r : Req) (detector high low hyst declared : Nat) (s : State) : Host.Outcome State Fault Refusal :=
  serve { code := 0x0A07, reach := .shared, needs := some Fn.supervision } r (fun r s =>
    if !isDetector s detector then (s, refuse St.noResource)
    else
      let (h, c1) := clampField 1 0 105 400 high
      let (l, c2) := clampField 3 0 25 95 low
      let (y, c3) := clampField 5 0 1 20 hyst
      let (d, c4) := clampField 7 0 1 100 declared
      changeNow r 0x0A07 [.setting 0x0A07 [detector, h, l, y, d]] (c1 ++ c2 ++ c3 ++ c4) (fun _ => []) s) s

/-- SUPV.CALIBRATE (R376): the answer follows the sixteenth block. -/
def execSupvCalibrate (r : Req) (detector : Nat) (s : State) : Host.Outcome State Fault Refusal :=
  serve { code := 0x0A08, reach := .shared, needs := some Fn.supervision } r (fun r s =>
    let d := Tbl.getD s.blk.pilot detector {}
    if !isDetector s detector then (s, refuse St.noResource)
    else if (zoneOf s detector).state = 0 ∨ !d.present then (s, refuse St.notReady)
    else
      let z := zoneOf s detector
      let s := putZone detector { z with calFor := z.calFor ++ [(r.slot, r.seq)] } s
      let cs : List Change := [.setting 0x0A08 [detector]]
      (if forwards s then forward r { changes := cs } [] cs none s else applyChanges cs s, { later := true })) s

/-- One zone of SUPV.STATUS: the amplitude in 0.01 dB (R100). -/
def zoneBytes (s : State) (n : Nat) : List Byte :=
  let d := Tbl.getD s.blk.pilot n {}
  u8 (zoneOf s n).state ++ u8 (Fx.b2n d.present) ++ u16 d.ratio ++ s16 (meterLevel (levelOf d.amp))

/-- SUPV.STATUS (R381). -/
def execSupvStatus (r : Req) (first count : Nat) (s : State) : Host.Outcome State Fault Refusal :=
  serve { code := 0x0A09 } r (fun _ s =>
    if 256 < first + count then (s, refuse St.noResource)
    else (s, done [] ((List.range count).flatMap fun i => zoneBytes s (first + i)))) s

/-- SUPV.NIGHTLY (R371, R373). -/
def execSupvNightly (r : Req) (op enable : Nat) (start : NetTime) (period length segments : Nat) (s : State) :
    Host.Outcome State Fault Refusal :=
  let report := fun (s : State) => u8 (Fx.b2n s.supv.enable) ++ ntNs s.supv.start ++ u32 s.supv.periodS ++ u32 s.supv.lengthS ++
    u16 s.supv.segments ++ s.supv.last.flatMap u8 ++ ntNs s.supv.lastEnd
  serve (settingCmd 0x0A0A op (some Fn.supervision)) r (fun r s =>
    if op ≠ 1 then sharedSetting r 0x0A0A op (fun _ => .ok ([], [])) report s
    else if isNextFrame start then badRequest s
    else withTime start (fun t r s =>
      sharedSetting r 0x0A0A 1 (fun _ =>
        if 1 < enable then .error (refuse St.conflict)
        else
          let (p, c1) := clampField 14 0 3600 604800 period
          let (l, c2) := clampField 18 0 600 14400 length
          let (n, c3) := clampField 22 0 0 4096 segments
          .ok ([.setting 0x0A0A [enable, (t.getD 0 : Nat), p, l, n]], c1 ++ c2 ++ c3)) report s) r s) s

/-! ### TEST commands (R367, R368, R371, R380) -/

/-- TEST.NIGHTLY_NOW (R371): the window's items at once; the answer follows the last one. -/
def execTestNightlyNow (r : Req) (s : State) : Host.Outcome State Fault Refusal :=
  serve { code := 0x0A0B, reach := .shared, expert := true, maint := true, needs := some Fn.supervision } r (fun r s =>
    if s.supv.step.isSome ∨ s.supv.asked.isSome then (s, refuse St.notReady)
    else
      let s := { s with supv := { s.supv with asked := some (r.slot, r.seq) } }
      let cs : List Change := [.setting 0x0A0B []]
      (if forwards s then forward r { changes := cs } [] cs none s else beginWindow s, { later := true })) s

/-- A memory that is the spare bank or lies in the spare frond (R368). -/
def isSpareMemory (s : State) (m : Nat) : Bool :=
  decide (s.sys.spareBank = some m) || (match frondOfMemory m with | some f => decide (s.sys.spareFrond = some f) | none => false)

/-- TEST.MARCH (R368): on a memory in service it holds every SAP output in the safe state. -/
def execTestMarch (r : Req) (mem : Nat) (s : State) : Host.Outcome State Fault Refusal :=
  serve { code := 0x0A0C, reach := .here, expert := true, maint := !isSpareMemory s mem } r (fun r s =>
    let busy := s.supv.march.isSome || s.supv.migrating.isSome || s.supv.testing.isSome
    if !isMemory mem ∨ busy then (s, refuse St.conflict)
    else ({ s with
      supv := { s.supv with march := some (mem, r.slot, r.seq) }
      flt := { s.flt with marchHold := !isSpareMemory s mem } }, { later := true })) s

/-- TEST.REPAIRS (R367). -/
def execTestRepairs (r : Req) (s : State) : Host.Outcome State Fault Refusal :=
  serve { code := 0x0A0D, expert := true } r (fun _ s =>
    let n := s.supv.otp.length
    (s, done [] (u16 n ++ u16 (1024 - n))
      (s.supv.otp.flatMap (fun e => u32 e.1) ++ memoryIds.flatMap fun m => u8 (sparesOf m - sparesUsed s m)))) s

/-- The element that a fault of TEST.INJECT names exists (R380, R490). -/
def injectable (fault element place : Nat) : Bool :=
  match fault with
  | 0 | 1 => isMemory element
  | 2 => decide (element < 512)
  | 3 => decide (element < 32) && decide (place < 4)
  | 4 => true
  | 5 => true
  | _ => false

/-- TEST.INJECT (R380): the collector logs INJECTED; an uncorrectable error stands in its word and a CRC error of the twin link
hits at once; the other faults wait for their detectors (log entry 82). -/
def execTestInject (r : Req) (fault element place : Nat) (s : State) : Host.Outcome State Fault Refusal :=
  serve { code := 0x0A0E, reach := .here, expert := true, maint := true } r (fun _ s =>
    if !injectable fault element place then (s, refuse St.conflict)
    else
      let s := report Src.collector K.injected 0 0 0 s
      let told := u32 s.flt.seq
      let s := if fault = 5 then badMessage true s
        else
          { s with supv := { s.supv with injected := s.supv.injected ++ [(fault, element, place)] } }
      (if fault = 1 then poisonWord element (4 * place) s else s, done [] told)) s

end Sys2Proof.Machine
end

