-- ==== Sys2Proof/WellFormed.lean ====
section
/-!
DEFINITION. Which commands are well formed: every operand within the width that its field has in the manual.
-/
namespace Sys2Proof

/-- A request header names one of the eight slots and fits its fields. -/
def Req.wf (q : Req) : Bool := decide (q.slot < 8) && decide (q.seq < 2 ^ 32) && decide (q.crc < 2 ^ 32)

/-- A move field within its widths (R201). -/
def Move.wf (m : Move) : Bool :=
  decide (m.kind < 8) && decide (m.reg < 4) && decide (m.ptr < 8) && decide (m.post < 4) && decide (m.shift < 4)

def MacFields.wf (f : MacFields) : Bool := decide (f.ad < 4) && decide (f.sa < 4) && decide (f.sb < 4)
def DmacFields.wf (f : DmacFields) : Bool := decide (f.pair < 2) && decide (f.sharedIdx < 2)
def BmovFields.wf (f : BmovFields) : Bool :=
  decide (f.srcPtr < 8) && decide (f.srcSpace < 4) && decide (f.dstPtr < 8) && decide (f.dstSpace < 4) && decide (f.ring < 16) &&
  decide (f.flag < 4)

/-- A word that the mover finds failing names a source position of a frame, its logical bulk address and a bank. -/
def MoveError.wf (e : MoveError) : Bool :=
  decide (e.src < 0x20000) && decide (e.pos < 32) && decide (e.addr < 0x0C000000) && decide (e.bank < 25) && decide (e.outcome < 3)

def DelayError.wf (e : DelayError) : Bool := decide (e.pos < 32) && decide (e.addr < 0x0C000000) && decide (e.bank < 25)

/-- What the checks of a run find: locations of R350. -/
def RunChecks.wf (e : RunChecks) : Bool :=
  (match e.flagged with | some v => decide (v < 2 ^ 32) | none => true) && (e.corrected.all fun v => decide (v < 2 ^ 32)) &&
  e.delays.all DelayError.wf

def RouteOp.wf (e : RouteOp) : Bool :=
  decide (e.op < 256) && decide (e.flags < 256) && decide (e.len < 65536) && decide (e.src < 2 ^ 32) && decide (e.sink < 2 ^ 32)

def Pair.wf (e : Pair) : Bool := decide (e.id < 65536) && decide (-2147483648 ≤ e.value) && decide (e.value < 2147483648)

/-- A signed 32-bit field. -/
def s16ok (v : Int) : Bool := decide (-32768 ≤ v) && decide (v < 32768)
def s32ok (v : Int) : Bool := decide (-2147483648 ≤ v) && decide (v < 2147483648)

def GainOp.wf (e : GainOp) : Bool :=
  decide (e.lane < 65536) && decide (e.input < 65536) && s32ok e.level && decide (e.flags < 256) && decide (e.prec < 256)

def BusSet.wf (b : BusSet) : Bool :=
  s32ok b.trim && decide (b.flags < 256) && decide (b.ramp < 65536) && s32ok b.threshold && s32ok b.knee &&
    decide (b.release < 2 ^ 32) && s32ok b.step && decide (b.timeout < 2 ^ 32)

def NetTime.wf (t : NetTime) : Bool := decide (t.sec < 2 ^ 64) && decide (t.ns < 2 ^ 32)

def PortFields.wf (f : PortFields) : Bool :=
  decide (f.format < 256) && decide (f.width < 256) && decide (f.slots < 256) && decide (f.role < 256) && decide (f.gen < 256) &&
    decide (f.rate < 256) && decide (f.flags < 256)

def PortSlot.wf (e : PortSlot) : Bool := decide (e.port < 256) && decide (e.slot < 256)

def ExpectFields.wf (e : ExpectFields) : Bool :=
  decide (e.flags < 256) && decide (e.sender < 2 ^ 32) && decide (e.port < 256) && decide (e.slot < 256) && decide (e.tag < 65536)

def GenFields.wf (g : GenFields) : Bool :=
  decide (g.n < 65536) && decide (g.d < 65536) && decide (g.len < 65536) && decide (g.phase < 256) && decide (g.start < 256)

def StreamFields.wf (f : StreamFields) : Bool :=
  decide (f.first < 65536) && decide (f.channels < 256) && decide (f.enc < 256) && decide (f.ptime < 256) && decide (f.ptype < 256)

def StreamPath.wf (p : StreamPath) : Bool :=
  decide (p.port < 256) && decide (p.udp < 65536) && decide (p.dst < 2 ^ 32) && decide (p.src < 2 ^ 32)

def GateFields.wf (g : GateFields) : Bool := decide (g.op < 256) && decide (g.states < 256) && decide (g.interval < 2 ^ 32)

def NetFields.wf (f : NetFields) : Bool :=
  decide (f.speed < 256) && decide (f.fec < 256) && decide (f.flags < 256) && decide (f.ip < 2 ^ 32) && decide (f.prefixLen < 256) &&
    decide (f.gateway < 2 ^ 32) && decide (f.vlan < 65536) && decide (f.ttl < 256) && decide (f.seril < 65536)

def ClassFields.wf (f : ClassFields) : Bool := decide (f.pcp < 256) && decide (f.dscp < 256)

def EntryFields.wf (e : EntryFields) : Bool :=
  decide (e.valid < 256) && decide (e.port < 256) && decide (e.udp < 65536) && decide (e.dst < 2 ^ 32) && decide (e.src < 2 ^ 32) &&
    decide (e.stream < 65536) && decide (e.path < 256)

/-- A signed field of 8 and of 64 bits. -/
def s8ok (v : Int) : Bool := decide (-128 ≤ v) && decide (v < 128)
def s64ok (v : Int) : Bool := decide (-9223372036854775808 ≤ v) && decide (v < 9223372036854775808)

def PtpMsg.wf : PtpMsg → Bool
  | .bad => true
  | .announce src gm p1 cls acc var p2 steps utc _ _ =>
    decide (src < 2 ^ 80) && decide (gm < 2 ^ 64) && decide (p1 < 256) && decide (cls < 256) && decide (acc < 256) &&
      decide (var < 65536) && decide (p2 < 256) && decide (steps < 65536) && decide (-32768 ≤ utc) && decide (utc < 32768)
  | .syncMsg src seq _ t1 corr => decide (src < 2 ^ 80) && decide (seq < 65536) && decide (0 ≤ t1) && s64ok corr
  | .followUp src seq t1 corr => decide (src < 2 ^ 80) && decide (seq < 65536) && decide (0 ≤ t1) && s64ok corr
  | .delayReq src seq => decide (src < 2 ^ 80) && decide (seq < 65536)
  | .delayResp src seq q t4 corr =>
    decide (src < 2 ^ 80) && decide (seq < 65536) && decide (q < 2 ^ 80) && decide (0 ≤ t4) && s64ok corr
  | .pdelayReq src seq => decide (src < 2 ^ 80) && decide (seq < 65536)
  | .pdelayResp src seq q _ t2 corr =>
    decide (src < 2 ^ 80) && decide (seq < 65536) && decide (q < 2 ^ 80) && decide (0 ≤ t2) && s64ok corr
  | .pdelayFollowUp src seq q t3 corr =>
    decide (src < 2 ^ 80) && decide (seq < 65536) && decide (q < 2 ^ 80) && decide (0 ≤ t3) && s64ok corr
  | .management src seq action target =>
    decide (src < 2 ^ 80) && decide (seq < 65536) && decide (action < 16) && decide (target < 65536)

def RefFields.wf (f : RefFields) : Bool := decide (f.priority < 256) && decide (f.window < 65536) && decide (f.restore < 65536)

def PtpFields.wf (f : PtpFields) : Bool :=
  decide (f.ports < 256) && decide (f.profile < 256) && decide (f.domain < 256) && s8ok f.logSync && s8ok f.logAnnounce &&
    decide (f.announceTimeout < 256) && s8ok f.logDelayReq && decide (f.priority1 < 256) && decide (f.priority2 < 256) &&
    decide (f.mechanism < 256) && decide (f.role < 256) && decide (f.flags < 256) && decide (f.holdoverLimit < 2 ^ 32) &&
    decide (f.asym.length = 5) && f.asym.all s32ok

def TriggerFields.wf (f : TriggerFields) : Bool :=
  decide (f.action < 256) && decide (f.pin < 256) && decide (f.polarity < 256) && f.time.wf && decide (f.period < 2 ^ 64) &&
    decide (f.width < 2 ^ 32)

def ServoFields.wf (f : ServoFields) : Bool :=
  decide (f.stepThr < 2 ^ 32) && decide (f.slope < 2 ^ 32) && decide (f.bw.length = 4) && (f.bw.all fun v => decide (v < 2 ^ 32)) &&
    s32ok f.damping && decide (f.gains.length = 4) && (f.gains.all fun g => decide (g.1 < 2 ^ 32) && decide (g.2 < 2 ^ 32)) &&
    decide (f.alignTol < 2 ^ 32) && decide (f.avgWindow < 2 ^ 32)

def LinkHdr.wf (h : LinkHdr) : Bool := decide (h.seq < 65536) && decide (h.ack < 65536) && decide (h.frame < 2 ^ 32)
/-- Stamps lie within the 80 bits of a full time. -/
def Stamps.wf (t : Stamps) : Bool := decide (0 ≤ t.sent) && decide (t.sent < 2 ^ 80) && decide (0 ≤ t.got) && decide (t.got < 2 ^ 80)
def PortCrc.wf (e : PortCrc) : Bool := decide (e.port < 96) && decide (e.crc < 2 ^ 32)
def AsrcFig.wf (e : AsrcFig) : Bool := decide (e.port < 96) && decide (e.rate < 2 ^ 32) && decide (e.phase < 2 ^ 32)
def Hello.wf (h : Hello) : Bool :=
  decide (h.serial < 2 ^ 64) && decide (h.ordering.length = 16) && decide (h.revision < 65536) && decide (h.series < 256) &&
    decide (h.version < 65536) && decide (h.build < 2 ^ 32) && decide (h.seril < 65536) && decide (h.state < 6) &&
    decide (h.sender < 2 ^ 32) && decide (h.addrs.length = 5) && h.addrs.all fun a => decide (a < 2 ^ 32)
def FetchItem.wf : FetchItem → Bool
  | .portSection port frame => decide (port < 96) && decide (frame < 2 ^ 48)
  | .packet stream count => decide (stream < 65536) && decide (count < 2 ^ 64)
  | .block voice frame => decide (voice < 256) && decide (frame < 2 ^ 48)
def Arrival.wf (a : Arrival) : Bool := a.item.wf && decide (a.crc < 2 ^ 32)
/-- A derived word that COMMAND carries (R329): a page number of 16 bits, a field ID of 32, a value of 64. -/
def Edit.wf (e : Edit) : Bool := decide (e.page < 65536) && decide (e.field < 2 ^ 32) && s64ok e.value
def Change.wf : Change → Bool
  | .port p _ | .enable p _ | .markRaw p _ _ | .expect p _ _ => decide (p < 96)
  | .clkgen g _ => decide (g < 16)
  | .gates n _ _ _ => decide (n < 5)
  | .rate code => decide (code < 6)
  | .emergAssign n _ _ | .emergClear n => decide (n < 4)
  | .trigger n _ => decide (n < 16)
  | .play v _ _ _ _ _ | .voiceQueue v _ _ | .voiceStop v => decide (v < 256)
  | _ => true
def Machine.CopyItem.wf : Machine.CopyItem → Bool
  | .port n _ _ _ _ _ => decide (n < 96)
  | .voice n _ => decide (n < 256)
  | _ => true

def FaultName.wf (e : FaultName) : Bool := decide (e.source < 65536) && decide (e.kind < 256)
def Reaction.wf (e : Reaction) : Bool := decide (e.kind < 256) && decide (e.value < 2 ^ 32)
def FailRow.wf (e : FailRow) : Bool := decide (e.part < 13) && decide (e.row < 8192)
def Completion.wf (e : Completion) : Bool :=
  decide (e.ctrl < 64) && decide (e.cid < 65536) && decide (e.status < 65536) && decide (e.entry.length = 16)
def CtrlFound.wf (e : CtrlFound) : Bool := decide (e.ctrl < 65536) && decide (e.link < 256)
def Identify.wf (e : Identify) : Bool :=
  decide (e.version < 2 ^ 32) && decide (e.mqes < 65536) && decide (e.blocks < 2 ^ 64) && decide (e.nsid < 2 ^ 32)
def FoundObject.wf (e : FoundObject) : Bool := decide (e.index < 2 ^ 22)
def ReadFault.wf (e : ReadFault) : Bool := decide (e.chain < 2 ^ 64) && decide (e.copy < 2) && decide (e.result < 4)
def MoverOp.wf (e : MoverOp) : Bool := decide (e.sink < 2 ^ 32) && decide (e.src < 2 ^ 32) && decide (e.len < 65536) && decide (e.prev < 256)
def StageReading.wf (e : StageReading) : Bool := decide (e.ma < 2 ^ 32) && s16ok e.temp
def Machine.FoundExtent.wf (e : Machine.FoundExtent) : Bool := decide (e.index < 2 ^ 22)

/-- A command is well formed when every operand fits its field. -/
def Instr.wellFormed : Instr → Bool
  | .frameTick _ e moves => (e.late.all fun v => decide (v < 65536)) && moves.all MoveError.wf
  | .sampleTick _ => true
  | .subFrameTick => true
  | .servoInterval => true
  | .taskStart _ core checks => decide (core < 4) && checks.wf
  | .taskRetry _ core loc checks => decide (core < 4) && decide (loc < 2 ^ 32) && checks.wf
  | .taskOverrun frond core => decide (frond < 32) && decide (core < 4)
  | .laneTerm lane input err word => decide (lane < 512) && decide (input < 2048) && decide (err < 256) && word.wf
  | .stepTimeout lane input => decide (lane < 512) && decide (input < 2048)
  | .nop frond core x y => decide (frond < 32) && decide (core < 4) && x.wf && y.wf
  | .mac frond core fields x y => decide (frond < 32) && decide (core < 4) && fields.wf && x.wf && y.wf
  | .dmac frond core fields x y => decide (frond < 32) && decide (core < 4) && fields.wf && x.wf && y.wf
  | .add frond core ad as x y => decide (frond < 32) && decide (core < 4) && decide (ad < 4) && decide (as < 4) && x.wf && y.wf
  | .sub frond core ad as x y => decide (frond < 32) && decide (core < 4) && decide (ad < 4) && decide (as < 4) && x.wf && y.wf
  | .mov frond core ad as x y => decide (frond < 32) && decide (core < 4) && decide (ad < 4) && decide (as < 4) && x.wf && y.wf
  | .add24 frond core ad as x y => decide (frond < 32) && decide (core < 4) && decide (ad < 4) && decide (as < 4) && x.wf && y.wf
  | .clr frond core ad x y => decide (frond < 32) && decide (core < 4) && decide (ad < 4) && x.wf && y.wf
  | .neg frond core ad x y => decide (frond < 32) && decide (core < 4) && decide (ad < 4) && x.wf && y.wf
  | .abs frond core ad x y => decide (frond < 32) && decide (core < 4) && decide (ad < 4) && x.wf && y.wf
  | .max frond core ad as x y => decide (frond < 32) && decide (core < 4) && decide (ad < 4) && decide (as < 4) && x.wf && y.wf
  | .min frond core ad as x y => decide (frond < 32) && decide (core < 4) && decide (ad < 4) && decide (as < 4) && x.wf && y.wf
  | .ash frond core ad imm x y => decide (frond < 32) && decide (core < 4) && decide (ad < 4) && x.wf && y.wf && decide (-64 ≤ imm) && decide (imm < 64)
  | .ashr frond core ad rs x y => decide (frond < 32) && decide (core < 4) && decide (ad < 4) && decide (rs < 4) && x.wf && y.wf
  | .rnd frond core ad x y => decide (frond < 32) && decide (core < 4) && decide (ad < 4) && x.wf && y.wf
  | .addd frond core ad rs x y => decide (frond < 32) && decide (core < 4) && decide (ad < 4) && decide (rs < 4) && x.wf && y.wf
  | .subd frond core ad rs x y => decide (frond < 32) && decide (core < 4) && decide (ad < 4) && decide (rs < 4) && x.wf && y.wf
  | .log2 frond core ad as x y => decide (frond < 32) && decide (core < 4) && decide (ad < 4) && decide (as < 4) && x.wf && y.wf
  | .exp2 frond core ad as x y => decide (frond < 32) && decide (core < 4) && decide (ad < 4) && decide (as < 4) && x.wf && y.wf
  | .cmp frond core ad as x y => decide (frond < 32) && decide (core < 4) && decide (ad < 4) && decide (as < 4) && x.wf && y.wf
  | .cmov frond core ad as cond x y => decide (frond < 32) && decide (core < 4) && decide (ad < 4) && decide (as < 4) && decide (cond < 16) && x.wf && y.wf
  | .xfr frond core rs as x y => decide (frond < 32) && decide (core < 4) && decide (rs < 4) && decide (as < 4) && x.wf && y.wf
  | .ldi frond core code imm => decide (frond < 32) && decide (core < 4) && decide (code < 32) && decide (imm < 16777216)
  | .br frond core cond offset => decide (frond < 32) && decide (core < 4) && decide (cond < 16) && decide (-16384 ≤ offset) && decide (offset < 16384)
  | .call frond core cond offset => decide (frond < 32) && decide (core < 4) && decide (cond < 16) && decide (-16384 ≤ offset) && decide (offset < 16384)
  | .rts frond core cond => decide (frond < 32) && decide (core < 4) && decide (cond < 16)
  | .doLoop frond core reg count stop => decide (frond < 32) && decide (core < 4) && decide (count < 65536) && decide (stop < 65536) && decide (stop < 16384) && (match reg with | some r => decide (r < 4) && decide (count = 0) | none => true)
  | .vmac frond core ad pa pb _ _ _ elems => decide (frond < 32) && decide (core < 4) && decide (ad < 4) && decide (pa < 8) && decide (pb < 8) && decide (elems < 2 ^ 32)
  | .bmovSynchronous frond core fields run => decide (frond < 32) && decide (core < 4) && fields.wf && decide (run.elems < 2 ^ 32)
  | .bmovPosted frond core post => decide (frond < 32) && decide (core < 4) && post.fields.wf && decide (post.run.elems < 2 ^ 32)
  | .endRun frond core => decide (frond < 32) && decide (core < 4)
  | .rete frond core => decide (frond < 32) && decide (core < 4)
  | .swset frond core mask => decide (frond < 32) && decide (core < 4) && decide (mask < 16777216)
  | .swclr frond core mask => decide (frond < 32) && decide (core < 4) && decide (mask < 16777216)
  | .movr frond core dst src => decide (frond < 32) && decide (core < 4) && decide (dst < 32) && decide (src < 32)
  | .modp frond core ptr amount => decide (frond < 32) && decide (core < 4) && decide (ptr < 8) && decide (-16384 ≤ amount) && decide (amount < 16384)
  | .waitb frond core mask => decide (frond < 32) && decide (core < 4) && decide (mask < 16)
  | .clrb frond core mask => decide (frond < 32) && decide (core < 4) && decide (mask < 16)
  | .bulkCompletion frond core => decide (frond < 32) && decide (core < 4)
  | .doorbell frond core => decide (frond < 32) && decide (core < 4)
  | .portFrameStartEdge port phase words violation _ _ => decide (port < 96) && decide (phase < 256) && (words.all fun v => decide (v < 4294967296)) && decide (violation < 256)
  | .rateMeasurementDone port => decide (port < 96)
  | .rateLoss port => decide (port < 96)
  | .holdTimeout port _ => decide (port < 96)
  | .markBlock port slot => decide (port < 96) && decide (slot < 32)
  | .pathProofDone => true
  | .asrcLocked page => decide (page < 65536)
  | .portRestartDone port => decide (port < 96)
  | .emergAssert input => decide (input < 256)
  | .emergRelease input => decide (input < 256)
  | .emergMismatch input => decide (input < 256)
  | .macFrameReceived net kind _ => decide (net < 5) && decide (kind < 4)
  | .pathUpdate => true
  | .packetRelease => true
  | .mediaLinkUp net mbps => decide (net < 5) && decide (mbps < 65536)
  | .mediaLinkDown net => decide (net < 5)
  | .gateIntervalEnd net => decide (net < 5)
  | .gateListStart net => decide (net < 5)
  | .verifyTimeout net => decide (net < 5)
  | .igmpQuery net version group sources => decide (net < 5) && decide (version < 4) && decide (group < 2 ^ 32) && (sources.all fun v => decide (v < 4294967296))
  | .igmpReportRepeat net group => decide (net < 5) && decide (group < 2 ^ 32)
  | .arpRequest net hw sender target => decide (net < 5) && decide (hw < 2 ^ 48) && decide (sender < 2 ^ 32) && decide (target < 2 ^ 32)
  | .icmpEcho net hw src dst ident seq _ => decide (net < 5) && decide (hw < 2 ^ 48) && decide (src < 2 ^ 32) && decide (dst < 2 ^ 32) && decide (ident < 65536) && decide (seq < 65536)
  | .addressDefence net addr => decide (net < 5) && decide (addr < 2 ^ 32)
  | .identityClaim => true
  | .net4StepDown => true
  | .net4StepUp => true
  | .reconcilePoint stream count => decide (stream < 65536) && decide (count < 2 ^ 64)
  | .ptpEventMessage net msg => decide (net < 5) && msg.wf
  | .ppsInPulse => true
  | .phaseAverageInterval cand phase _ => decide (cand < 16) && decide (-9223372036854775808 ≤ phase) && decide (phase < 9223372036854775808)
  | .referenceTimeout cand _ => decide (cand < 16)
  | .qualificationExpiry cand => decide (cand < 16)
  | .refWaitToRestoreExpiry cand => decide (cand < 16)
  | .holdoverSecond => true
  | .modelRecord => true
  | .modelStore => true
  | .temperatureRead source value => decide (source < 4) && decide (-32768 ≤ value) && decide (value < 32768)
  | .pllLock hz => decide (hz < 2 ^ 32)
  | .timeWrap => true
  | .triggerHandover trigger => decide (trigger < 16)
  | .triggerFire trigger => decide (trigger < 16)
  | .actionHandover action => decide (action < 65536)
  | .sceneLoadDone action _ ecc => decide (action < 65536) && (match ecc with | some v => decide (v < 65536) | none => true)
  | .reseedDone page _ => decide (page < 65536)
  | .linkTrained rx tx => decide (rx < 16) && decide (tx < 16)
  | .laneLockLost lane _ => decide (lane < 4)
  | .laneRejoin lane _ => decide (lane < 4)
  | .retransmissionTimer => true
  | .deliveryFailure => true
  | .ackInterval => true
  | .heartbeatInterval => true
  | .heartbeatTimeout _ => true
  | .timeInterval => true
  | .linkAck h => h.wf
  | .linkNak h expected => h.wf && decide (expected < 65536)
  | .lanes h active fromCount => h.wf && decide (active < 16) && decide (fromCount < 2 ^ 32)
  | .hello h told => h.wf && told.wf
  | .verdict h reached _ why => h.wf && decide (reached < 8) && decide (why < 8)
  | .config h part edits changes => h.wf && decide (part < 8) && edits.all Edit.wf && changes.all Change.wf
  | .configHash h _ => h.wf
  | .time h _ _ number _ => h.wf && decide (number < 2 ^ 48)
  | .heartbeat h pairState _ _ _ severity => h.wf && decide (pairState < 8) && decide (severity < 8)
  | .recon h number crcs emerg figures => h.wf && decide (number < 2 ^ 48) && crcs.all PortCrc.wf && decide (emerg < 16) && figures.all AsrcFig.wf
  | .pktRecon h items => h.wf && items.all Arrival.wf
  | .fetch h item => h.wf && item.wf
  | .data h item words => h.wf && item.wf && (words.all fun v => decide (v < 4294967296))
  | .command h txn slot seq edits changes => h.wf && decide (txn < 2 ^ 32) && decide (slot < 256) && decide (seq < 2 ^ 32) && edits.all Edit.wf && changes.all Change.wf
  | .commit h txn number => h.wf && decide (txn < 2 ^ 32) && decide (number < 2 ^ 48)
  | .commandAck h txn _ _ => h.wf && decide (txn < 2 ^ 32)
  | .signature h number sap net record _ detection => h.wf && decide (number < 2 ^ 48) && decide (sap < 2 ^ 64) && decide (net < 2 ^ 64) && decide (record < 2 ^ 64) && decide (detection < 8)
  | .switch h _ number => h.wf && decide (number < 2 ^ 48)
  | .identity h _ _ => h.wf
  | .state h item => h.wf && item.wf
  | .stateCtrl h kind value => h.wf && decide (kind < 4) && decide (value < 2 ^ 48)
  | .handshakeTimeTimeout => true
  | .refusedRetry => true
  | .syncRetry => true
  | .waitToRestoreExpiry => true
  | .alternateStart => true
  | .unsteppedTakeover => true
  | .faultRecord source kind sev count index _ detail => decide (source < 65536) && decide (kind < 256) && decide (sev < 8) && decide (count < 256) && decide (index < 2 ^ 48) && decide (detail < 65536)
  | .safeStateDelay => true
  | .resetFunctionDone source actions lists => decide (source < 65536) && (actions.all fun v => decide (v < 65536)) && (lists.all fun v => decide (v < 256))
  | .mladirStall => true
  | .watchdog source => decide (source < 65536)
  | .scrubWord mem offset _ place page => decide (mem < 65536) && decide (offset < 2 ^ 32) && decide (place < 4) && decide (page < 65536)
  | .nightlyWindowStart fails _ => (fails.all fun v => decide (v < 18446744073709551616))
  | .nightlyWindowEnd => true
  | .bankMigrationDone rows _ badWrites => (rows.all fun v => decide (v < 65536)) && decide (badWrites < 256)
  | .frondTestDone _ rows badWrites => rows.all FailRow.wf && decide (badWrites < 256)
  | .detectorBlock detector => decide (detector < 256)
  | .ageingHour => true
  | .ageingDay => true
  | .nvmeCompletion e => e.wf
  | .commandTimeout tag => decide (tag < 65536)
  | .abortExpiry tag => decide (tag < 65536)
  | .controllerResetDone ctrl _ => decide (ctrl < 256)
  | .completionPoll found fatal => found.all Completion.wf && (fatal.all fun v => decide (v < 256))
  | .smartPoll ctrl _ => decide (ctrl < 256)
  | .peatLink ctrl => decide (ctrl < 256)
  | .namespaceLost ctrl _ => decide (ctrl < 256)
  | .namespaceIdentified ctrl told _ _ extents objects => decide (ctrl < 256) && told.wf && extents.all Machine.FoundExtent.wf && objects.all FoundObject.wf
  | .cursorIdleExpiry cursor => decide (cursor < 256)
  | .feedLost _ => true
  | .feedReturned _ => true
  | .stageSample stages => stages.all StageReading.wf
  | .railCheck uv => (uv.all fun v => decide (v < 4294967296))
  | .tjSample tj => decide (-32768 ≤ tj) && decide (tj < 32768)
  | .lastGasp cause => decide (cause < 4)
  | .coarseTimeUpdate => true
  | .vauxPowerOnReset => true
  | .resetNAssert => true
  | .resetNRelease en pref badBanks badFronds => decide (en < 8) && decide (pref < 8) && (badBanks.all fun v => decide (v < 256)) && (badFronds.all fun v => decide (v < 32))
  | .functionReady code => decide (code < 256)
  | .servoHandoff => true
  | .fwConfirm => true
  | .bootGo go total offset length crc _ => decide (go < 2 ^ 32) && decide (total < 2 ^ 32) && decide (offset < 2 ^ 32) && decide (length < 2 ^ 32) && decide (crc < 2 ^ 32)
  | .mbxRequest slot _ _ => decide (slot < 8)
  | .ringPoll _ => true
  | .progressInterval slot seq => decide (slot < 8) && decide (seq < 2 ^ 32)
  | .clientLivenessExpiry slot => decide (slot < 8)
  | .heldResultExpiry slot seq => decide (slot < 8) && decide (seq < 2 ^ 32)
  | .objectAbandon handle => decide (handle < 2 ^ 32)
  | .spiTransaction _ words => decide (words < 65536)
  | .serilDatagram ip port _ _ => decide (ip < 2 ^ 32) && decide (port < 65536)
  | .sessionExpiry id => decide (id < 2 ^ 32)
  | .pcieReset => true
  | .dmaDescriptorEnd ch _ _ _ => decide (ch < 256)
  | .arbTurn g _ => decide (g < 256)
  | .arbStarve g req => decide (g < 256) && decide (req < 256)
  | .setAliasWrite offset value _ => decide (offset < 2 ^ 32) && decide (value < 2 ^ 32)
  | .clearAliasWrite offset value _ => decide (offset < 2 ^ 32) && decide (value < 2 ^ 32)
  | .sysRemapWrite master value => decide (master < 256) && decide (value < 2 ^ 32)
  | .mbxClaimWrite path tag => decide (path < 2) && decide (tag < 2 ^ 32)
  | .mbxReleaseWrite path value => decide (path < 2) && decide (value < 2 ^ 32)
  | .mbxDoorbellWrite path value _ => decide (path < 2) && decide (value < 2 ^ 32)
  | .intStatusClear path value fired => decide (path < 2) && decide (value < 2 ^ 32) && decide (fired < 2 ^ 32)
  | .intSetWrite path value => decide (path < 2) && decide (value < 2 ^ 32)
  | .semAcquire master n tag => decide (master < 256) && decide (n < 256) && decide (tag < 256)
  | .semRelease master n tag => decide (master < 256) && decide (n < 256) && decide (tag < 256)
  | .dmaGo path ch => decide (path < 3) && decide (ch < 256)
  | .dmaAbort path ch => decide (path < 3) && decide (ch < 256)
  | .arbFreezeWrite path value => decide (path < 2) && decide (value < 2 ^ 32)
  | .trigFiredClear path value => decide (path < 2) && decide (value < 2 ^ 32)
  | .pwrFlagsClear path value => decide (path < 2) && decide (value < 2 ^ 32)
  | .arbHogClear _ value => decide (value < 2 ^ 32)
  | .arbStarveClear g _ value => decide (g < 256) && decide (value < 2 ^ 32)
  | .latchedRead path offset => decide (path < 3) && decide (offset < 2 ^ 32)
  | .registerWrite path offset value enables _ => decide (path < 2) && decide (offset < 2 ^ 32) && decide (value < 2 ^ 32) && decide (enables < 16)
  | .sysIdentify r => r.wf
  | .sysStatus r => r.wf
  | .sysRate r code => r.wf && decide (code < 256)
  | .sysFrameSize r size => r.wf && decide (size < 256)
  | .sysMemorySplit r op sizes => r.wf && decide (op < 256) && (sizes.all fun v => decide (v < 4294967296))
  | .sysMaintenance r op => r.wf && decide (op < 256)
  | .sysClient r op secs => r.wf && decide (op < 256) && decide (secs < 2 ^ 32)
  | .sysResultRead r of_ offset => r.wf && decide (of_ < 2 ^ 32) && decide (offset < 2 ^ 32)
  | .sysEventsRead r => r.wf
  | .sysEvents r op mask => r.wf && decide (op < 256) && decide (mask < 2 ^ 256)
  | .sysSessionOpen seq key ip port _ _ => decide (seq < 2 ^ 32) && decide (key < 16) && decide (ip < 2 ^ 32) && decide (port < 65536)
  | .sysSessionClose r => r.wf
  | .sysLastApplied r origin former of_ => r.wf && decide (origin < 2 ^ 64) && decide (former < 256) && decide (of_ < 2 ^ 32)
  | .sysObjectChunk r handle offset _ => r.wf && decide (handle < 2 ^ 32) && decide (offset < 2 ^ 32)
  | .sysObjectCommit r handle length crc => r.wf && decide (handle < 2 ^ 32) && decide (length < 2 ^ 32) && decide (crc < 2 ^ 32)
  | .sysObjectAbort r handle => r.wf && decide (handle < 2 ^ 32)
  | .routeConnect r list src sink len flags => r.wf && decide (list < 256) && decide (src < 2 ^ 32) && decide (sink < 2 ^ 32) && decide (len < 65536) && decide (flags < 256)
  | .routeDisconnect r list sink => r.wf && decide (list < 256) && decide (sink < 2 ^ 32)
  | .routeBatch r list entries => r.wf && decide (list < 256) && entries.all RouteOp.wf
  | .routeQuery r sink => r.wf && decide (sink < 2 ^ 32)
  | .routeFanout r src next => r.wf && decide (src < 2 ^ 32) && decide (next < 2 ^ 32)
  | .routeCount r => r.wf
  | .routeLatency r start stop => r.wf && decide (start < 2 ^ 32) && decide (stop < 2 ^ 32)
  | .routeXfadeDefault r op len => r.wf && decide (op < 256) && decide (len < 65536)
  | .blockCreate r list type stage structural pairs => r.wf && decide (list < 256) && decide (type < 256) && decide (stage < 256) && decide (structural < 256) && pairs.all Pair.wf
  | .blockDelete r list page flags => r.wf && decide (list < 256) && decide (page < 65536) && decide (flags < 256)
  | .blockReshape r list page pairs => r.wf && decide (list < 256) && decide (page < 65536) && pairs.all Pair.wf
  | .blockParam r list page pairs => r.wf && decide (list < 256) && decide (page < 65536) && pairs.all Pair.wf
  | .blockParamRead r page bank => r.wf && decide (page < 65536) && decide (bank < 256)
  | .blockTaps r list total page => r.wf && decide (list < 256) && decide (total < 2 ^ 32) && decide (page < 65536)
  | .blockMeterRead r meters => r.wf && (meters.all fun v => decide (v < 65536))
  | .stripMeterRead r kind first count => r.wf && decide (kind < 256) && decide (first < 65536) && decide (count < 65536)
  | .mixSelect r list input src len _ hold => r.wf && decide (list < 256) && decide (input < 65536) && decide (src < 2 ^ 32) && decide (len < 65536) && decide (hold < 2 ^ 32)
  | .mixGain r list entry => r.wf && decide (list < 256) && entry.wf
  | .mixGainBatch r list entries => r.wf && decide (list < 256) && entries.all GainOp.wf
  | .mixBus r list lane b => r.wf && decide (list < 256) && decide (lane < 65536) && b.wf
  | .mixPrecedence r list lane level _ attack release triggers => r.wf && decide (list < 256) && decide (lane < 65536) && decide (level < 256) && decide (attack < 2 ^ 32) && decide (release < 2 ^ 32) && (triggers.all fun v => decide (v < 4294967296))
  | .mixFlag r list set clear => r.wf && decide (list < 256) && decide (set < 2 ^ 256) && decide (clear < 2 ^ 256)
  | .mixQuery r kind lane input => r.wf && decide (kind < 256) && decide (lane < 65536) && decide (input < 65536)
  | .mixBusStatus r lane => r.wf && decide (lane < 65536)
  | .sceneStore r total number flags _ => r.wf && decide (total < 2 ^ 32) && decide (number < 65536) && decide (flags < 256)
  | .sceneCapture r number flags _ selector first last => r.wf && decide (number < 65536) && decide (flags < 256) && decide (selector < 256) && decide (first < 2 ^ 32) && decide (last < 65536)
  | .sceneDelete r number => r.wf && decide (number < 65536)
  | .sceneDirectory r first => r.wf && decide (first < 65536)
  | .sceneRecall r number flags => r.wf && decide (number < 65536) && decide (flags < 256)
  | .sceneArm r number flags at_ => r.wf && decide (number < 65536) && decide (flags < 256) && at_.wf
  | .sceneDisarm r action => r.wf && decide (action < 65536)
  | .sceneStatus r => r.wf
  | .sceneLateWindow r op window => r.wf && decide (op < 256) && decide (window < 2 ^ 32)
  | .sceneArea r op size number => r.wf && decide (op < 256) && decide (size < 2 ^ 32) && decide (number < 65536)
  | .sceneEmergAssign r input number release => r.wf && decide (input < 256) && decide (number < 65536) && decide (release < 256)
  | .sceneEmergClear r input => r.wf && decide (input < 256)
  | .sceneListOpen r => r.wf
  | .sceneListCommit r list flags at_ => r.wf && decide (list < 256) && decide (flags < 256) && at_.wf
  | .sceneListDiscard r list => r.wf && decide (list < 256)
  | .portConfig r port fields => r.wf && decide (port < 256) && fields.wf
  | .portEnable r port dirs => r.wf && decide (port < 256) && decide (dirs < 256)
  | .portMask r list port dir mask count => r.wf && decide (list < 256) && decide (port < 256) && decide (dir < 256) && decide (mask < 2 ^ 32) && decide (count < 256)
  | .portStatus r first count => r.wf && decide (first < 256) && decide (count < 256)
  | .portRate r op port threshold => r.wf && decide (op < 256) && decide (port < 256) && decide (threshold < 2 ^ 32)
  | .portTimestamps r op port length => r.wf && decide (op < 256) && decide (port < 256) && decide (length < 65536)
  | .portMclk r output gen mult => r.wf && decide (output < 256) && decide (gen < 256) && decide (mult < 65536)
  | .portMark r port dir mask mode sender tags => r.wf && decide (port < 256) && decide (dir < 256) && decide (mask < 2 ^ 32) && decide (mode < 256) && decide (sender < 2 ^ 32) && (tags.all fun v => decide (v < 65536))
  | .portExpect r port slot fields => r.wf && decide (port < 256) && decide (slot < 256) && fields.wf
  | .portProof r outs ins => r.wf && outs.all PortSlot.wf && ins.all PortSlot.wf
  | .portClkgen r op gen fields => r.wf && decide (op < 256) && decide (gen < 256) && fields.wf
  | .portMarkRaw r list port slot _ => r.wf && decide (list < 256) && decide (port < 256) && decide (slot < 256)
  | .netConfig r port fields => r.wf && decide (port < 256) && fields.wf
  | .netStatus r port => r.wf && decide (port < 256)
  | .streamTx r list stream fields offset ssrc paths => r.wf && decide (list < 256) && decide (stream < 65536) && fields.wf && decide (offset < 2 ^ 32) && decide (ssrc < 2 ^ 32) && paths.all StreamPath.wf
  | .streamRx r list stream fields linkUs lossMs flags paths _ => r.wf && decide (list < 256) && decide (stream < 65536) && fields.wf && decide (linkUs < 2 ^ 32) && decide (lossMs < 2 ^ 32) && decide (flags < 256) && paths.all StreamPath.wf
  | .streamDelete r list stream dir => r.wf && decide (list < 256) && decide (stream < 65536) && decide (dir < 256)
  | .streamStatus r stream dir => r.wf && decide (stream < 65536) && decide (dir < 256)
  | .streamSdp r stream => r.wf && decide (stream < 65536)
  | .netClasses r op classes queue => r.wf && decide (op < 256) && classes.all ClassFields.wf && decide (queue < 256)
  | .netGates r port op base cycle entries => r.wf && decide (port < 256) && decide (op < 256) && base.wf && decide (cycle < 2 ^ 32) && entries.all GateFields.wf
  | .netPreempt r op port enable verify verifyMs frag => r.wf && decide (op < 256) && decide (port < 256) && decide (enable < 256) && decide (verify < 256) && decide (verifyMs < 256) && decide (frag < 256)
  | .netStreamTable r op first count entries => r.wf && decide (op < 256) && decide (first < 65536) && decide (count < 65536) && entries.all EntryFields.wf
  | .netHashRead r port => r.wf && decide (port < 256)
  | .timeStatus r => r.wf
  | .timeNow r => r.wf
  | .timeSet r at_ => r.wf && at_.wf
  | .timeReferences r op cands port => r.wf && decide (op < 256) && cands.all RefFields.wf && decide (port < 256)
  | .timePtp r op fields => r.wf && decide (op < 256) && fields.wf
  | .timeTrigger r trigger op fields => r.wf && decide (trigger < 256) && decide (op < 256) && fields.wf
  | .timeHoldover r op coeffs => r.wf && decide (op < 256) && (coeffs.all fun v => decide (-9223372036854775808 ≤ v) && decide (v < 9223372036854775808))
  | .clockRealign r op => r.wf && decide (op < 256)
  | .clockOutputs r op w0 w1 pps width => r.wf && decide (op < 256) && decide (w0 < 256) && decide (w1 < 256) && decide (pps < 256) && decide (width < 2 ^ 32)
  | .timeServo r op fields => r.wf && decide (op < 256) && fields.wf
  | .timeDirect r op rate offset => r.wf && decide (op < 256) && decide (-9223372036854775808 ≤ rate) && decide (rate < 9223372036854775808) && decide (offset < 2 ^ 64)
  | .clockPhaseStep r mode amount => r.wf && decide (mode < 256) && decide (-2147483648 ≤ amount) && decide (amount < 2147483648)
  | .pairConfig r op enable mode adopting restore => r.wf && decide (op < 256) && decide (enable < 256) && decide (mode < 256) && decide (adopting < 256) && decide (restore < 2 ^ 32)
  | .pairStatus r flags => r.wf && decide (flags < 256)
  | .pairSwitch r flags => r.wf && decide (flags < 256)
  | .pairRetry r => r.wf
  | .pairLink r op timeout interval retx asym => r.wf && decide (op < 256) && decide (timeout < 2 ^ 32) && decide (interval < 2 ^ 32) && decide (retx < 65536) && decide (-32768 ≤ asym) && decide (asym < 32768)
  | .pairResync r => r.wf
  | .pairSignatures r => r.wf
  | .faultLogRead r log start limit => r.wf && decide (log < 256) && decide (start < 2 ^ 32) && decide (limit < 65536)
  | .faultActive r => r.wf
  | .faultClear r entries => r.wf && entries.all FaultName.wf
  | .faultReaction r op entries => r.wf && decide (op < 256) && entries.all Reaction.wf
  | .faultPinLevel r op level => r.wf && decide (op < 256) && decide (level < 256)
  | .faultRetryLimit r op limit => r.wf && decide (op < 256) && decide (limit < 256)
  | .supvZone r detector high low hyst declared => r.wf && decide (detector < 256) && decide (high < 65536) && decide (low < 65536) && decide (hyst < 65536) && decide (declared < 256)
  | .supvCalibrate r detector => r.wf && decide (detector < 256)
  | .supvStatus r first count => r.wf && decide (first < 256) && decide (count < 256)
  | .supvNightly r op enable start period length segments => r.wf && decide (op < 256) && decide (enable < 256) && start.wf && decide (period < 2 ^ 32) && decide (length < 2 ^ 32) && decide (segments < 65536)
  | .testNightlyNow r => r.wf
  | .testMarch r mem => r.wf && decide (mem < 65536)
  | .testRepairs r => r.wf
  | .testInject r fault element place => r.wf && decide (fault < 256) && decide (element < 65536) && decide (place < 2 ^ 32)
  | .peatStatus r => r.wf
  | .peatFormat r ctrl group copy code base flags => r.wf && decide (ctrl < 256) && decide (group < 256) && decide (copy < 256) && decide (code < 256) && decide (base < 2 ^ 32) && decide (flags < 256)
  | .peatTrack r first count group arming => r.wf && decide (first < 65536) && decide (count < 65536) && decide (group < 256) && decide (arming < 256)
  | .peatRetention r op days => r.wf && decide (op < 256) && decide (days < 65536)
  | .peatHold r op group first last start stop => r.wf && decide (op < 256) && decide (group < 256) && decide (first < 2 ^ 32) && decide (last < 2 ^ 32) && start.wf && stop.wf
  | .peatChainHead r group => r.wf && decide (group < 256)
  | .peatCursorOpen r group copy kind at_ num flags tracks => r.wf && decide (group < 256) && decide (copy < 256) && decide (kind < 256) && at_.wf && decide (num < 2 ^ 64) && decide (flags < 256) && decide (tracks < 2 ^ 2048)
  | .peatRead r cursor token faults => r.wf && decide (cursor < 256) && decide (token < 2 ^ 64) && faults.all ReadFault.wf
  | .peatCursorClose r cursor => r.wf && decide (cursor < 256)
  | .peatClipStore r total clip rate => r.wf && decide (total < 2 ^ 32) && decide (clip < 65536) && decide (rate < 256)
  | .peatClipDelete r clip => r.wf && decide (clip < 65536)
  | .peatClipList r first => r.wf && decide (first < 65536)
  | .peatPin r clip op => r.wf && decide (clip < 65536) && decide (op < 256)
  | .peatPlay r voice clip flags at_ gain => r.wf && decide (voice < 256) && decide (clip < 65536) && decide (flags < 256) && at_.wf && decide (-2147483648 ≤ gain) && decide (gain < 2147483648)
  | .peatQueue r voice clip len => r.wf && decide (voice < 256) && decide (clip < 65536) && decide (len < 65536)
  | .peatStop r voice => r.wf && decide (voice < 256)
  | .peatQueues r op queues depth timeout => r.wf && decide (op < 256) && decide (queues < 256) && decide (depth < 65536) && decide (timeout < 2 ^ 32)
  | .peatPassthrough r ctrl queue _ _ => r.wf && decide (ctrl < 256) && decide (queue < 256)
  | .expertMoverRead r by_ first count => r.wf && decide (by_ < 256) && decide (first < 2 ^ 32) && decide (count < 2 ^ 32)
  | .expertMoverWrite r list entries => r.wf && decide (list < 256) && entries.all MoverOp.wf
  | .expertMixRead r lane first count => r.wf && decide (lane < 65536) && decide (first < 65536) && decide (count < 65536)
  | .expertMixWrite r list lane first words => r.wf && decide (list < 256) && decide (lane < 65536) && decide (first < 65536) && (words.all fun v => decide (v < 281474976710656))
  | .expertCoefWrite r list page first words => r.wf && decide (list < 256) && decide (page < 65536) && decide (first < 2 ^ 32) && (words.all fun v => decide (v < 4294967296))
  | .expertCoefRead r page first count => r.wf && decide (page < 65536) && decide (first < 2 ^ 32) && decide (count < 65536)
  | .expertPageRead r page bank input => r.wf && decide (page < 65536) && decide (bank < 256) && decide (input < 256)
  | .expertPageWrite r list page _ => r.wf && decide (list < 256) && decide (page < 65536)
  | .expertImageLoad r total => r.wf && decide (total < 2 ^ 32)
  | .expertImageUnload r image => r.wf && decide (image < 2 ^ 32)
  | .expertImageList r => r.wf
  | .expertInstanceCreate r list image => r.wf && decide (list < 256) && decide (image < 2 ^ 32)
  | .expertInstanceDelete r list page flags => r.wf && decide (list < 256) && decide (page < 65536) && decide (flags < 256)
  | .expertPlacement r => r.wf
  | .expertTaskStats r => r.wf
  | .expertFrondRead r frond mem offset count => r.wf && decide (frond < 256) && decide (mem < 256) && decide (offset < 2 ^ 32) && decide (count < 65536)
  | .expertMemRead r space addr length => r.wf && decide (space < 256) && decide (addr < 2 ^ 32) && decide (length < 2 ^ 32)
  | .expertMemWrite r space addr length _ => r.wf && decide (space < 256) && decide (addr < 2 ^ 32) && decide (length < 2 ^ 32)
  | .expertDma r count _ _ => r.wf && decide (count < 65536)
  | .expertArbRead r group => r.wf && decide (group < 256)
  | .expertArbWrite r op group first vals => r.wf && decide (op < 256) && decide (group < 256) && decide (first < 65536) && (vals.all fun v => decide (v < 4294967296))
  | .powerStatus r => r.wf
  | .powerSlackTarget r op target => r.wf && decide (op < 256) && decide (target < 65536)
  | .powerSlackReport r => r.wf
  | .powerAgeing r => r.wf
  | .powerVcore r op uv => r.wf && decide (op < 256) && decide (uv < 2 ^ 32)
  | .secureKey r op key rights _ => r.wf && decide (op < 256) && decide (key < 256) && decide (rights < 256)
  | .secureFwUpdate r total => r.wf && decide (total < 2 ^ 32)
  | .secureFwStatus r => r.wf
  | .secureImageSelect r which => r.wf && decide (which < 256)
  | .secureRollbackRead r => r.wf
  | .mladirHeartbeat => true
  | .mladirLockstep => true
  | .ptpMessageInterval net kind => decide (net < 5) && decide (kind < 4)
  | .net4LinkChange _ mbps => decide (mbps < 65536)
  | .frequencyMonitor cand _ _ => decide (cand < 16)
  | .triggerPulseEnd trigger => decide (trigger < 16)
  | .rootPortLinkUp found => found.all CtrlFound.wf
  | .rootPortInboundRequest ctrl _ => decide (ctrl < 256)
  | .marchDone rows _ badWrites => (rows.all fun v => decide (v < 65536)) && decide (badWrites < 256)
  | .feedSenseSample a b => decide (a < 2 ^ 32) && decide (b < 2 ^ 32)
  | .vauxPowerOn => true
  | .hostDeliveryTimeout => true
  | .msixControlWrite _ masks => decide (masks < 2 ^ 32)
  | .twlBadMessage _ => true
  | .alignmentBlock lane _ => decide (lane < 4)
  | .tapInstruction which => decide (which < 8)

end Sys2Proof
end

