-- ==== Sys2Proof/Machine/FrondWord.lean ====
section
/-!
DEFINITION. The 48-bit words of a frond's program (08: R200 to R206): how an instruction is encoded, what a word spells,
and the fetch of the word at a core's address.
-/
namespace Sys2Proof.Machine
open Sys2Proof

/-! ### Encoding (R200 to R202, R206) -/

/-- The bits of a move field (R201). -/
def moveBits (m : Move) : Nat := m.kind * 2 ^ 9 + m.reg * 2 ^ 7 + m.ptr * 2 ^ 4 + m.post * 2 ^ 2 + m.shift

/-- A parallel instruction: operation code, operation fields from bit 24 on, the two moves (R200). -/
def parWord (op fields : Nat) (x y : Move) : Nat := op * 2 ^ 42 + fields * 2 ^ 24 + moveBits x * 2 ^ 12 + moveBits y

/-- The operation fields Ad, As and Rs (R202). -/
def opFields (ad as rs : Nat) : Nat := ad * 2 ^ 16 + as * 2 ^ 14 + rs * 2 ^ 12

/-- The operation fields of MAC (R202). -/
def macBits (m : MacFields) : Nat :=
  m.ad * 2 ^ 16 + m.sa * 2 ^ 14 + m.sb * 2 ^ 12 + Fx.b2n m.negate * 2 ^ 11 + Fx.b2n m.accumulate * 2 ^ 10 + Fx.b2n m.saUnsigned * 2 ^ 9 +
  Fx.b2n m.sbUnsigned * 2 ^ 8

/-- The operation fields of DMAC (R202). -/
def dmacBits (m : DmacFields) : Nat :=
  m.pair * 2 ^ 17 + Fx.b2n m.sharedY * 2 ^ 16 + m.sharedIdx * 2 ^ 15 + Fx.b2n m.neg0 * 2 ^ 14 + Fx.b2n m.acc0 * 2 ^ 13 +
  Fx.b2n m.neg1 * 2 ^ 12 + Fx.b2n m.acc1 * 2 ^ 11 + Fx.b2n m.uns0 * 2 ^ 10 + Fx.b2n m.uns1 * 2 ^ 9

/-- A single-purpose instruction: its class code and its fields (R206). -/
def classWord (cls fields : Nat) : Nat := 2 ^ 47 + cls * 2 ^ 44 + fields

/-- The fields of a BMOV: its kind, 1 synchronous or 2 posted (R206). -/
def bmovBits (kind : Nat) (m : BmovFields) : Nat :=
  kind * 2 ^ 42 + m.srcPtr * 2 ^ 39 + m.srcSpace * 2 ^ 37 + m.dstPtr * 2 ^ 34 + m.dstSpace * 2 ^ 32 + m.ring * 2 ^ 28 + m.flag * 2 ^ 24

/-- The word of a frond instruction; none for another command. A DO whose count is a register's has zeros for the
immediate count, and the other way round. -/
def encodeFrond : Instr → Option Nat
  | .nop _ _ x y => some (parWord 0x00 0 x y)
  | .mac _ _ m x y => some (parWord 0x01 (macBits m) x y)
  | .dmac _ _ m x y => some (parWord 0x02 (dmacBits m) x y)
  | .add _ _ ad as x y => some (parWord 0x03 (opFields ad as 0) x y)
  | .sub _ _ ad as x y => some (parWord 0x04 (opFields ad as 0) x y)
  | .mov _ _ ad as x y => some (parWord 0x05 (opFields ad as 0) x y)
  | .add24 _ _ ad as x y => some (parWord 0x06 (opFields ad as 0) x y)
  | .clr _ _ ad x y => some (parWord 0x07 (opFields ad 0 0) x y)
  | .neg _ _ ad x y => some (parWord 0x08 (opFields ad 0 0) x y)
  | .abs _ _ ad x y => some (parWord 0x09 (opFields ad 0 0) x y)
  | .max _ _ ad as x y => some (parWord 0x0A (opFields ad as 0) x y)
  | .min _ _ ad as x y => some (parWord 0x0B (opFields ad as 0) x y)
  | .ash _ _ ad imm x y => some (parWord 0x0C (opFields ad 0 0 + Fx.toUnsigned 7 imm * 2) x y)
  | .ashr _ _ ad rs x y => some (parWord 0x0D (opFields ad 0 rs) x y)
  | .rnd _ _ ad x y => some (parWord 0x0E (opFields ad 0 0) x y)
  | .addd _ _ ad rs x y => some (parWord 0x0F (opFields ad 0 rs) x y)
  | .subd _ _ ad rs x y => some (parWord 0x10 (opFields ad 0 rs) x y)
  | .log2 _ _ ad as x y => some (parWord 0x11 (opFields ad as 0) x y)
  | .exp2 _ _ ad as x y => some (parWord 0x12 (opFields ad as 0) x y)
  | .cmp _ _ ad as x y => some (parWord 0x13 (opFields ad as 0) x y)
  | .cmov _ _ ad as cond x y => some (parWord 0x14 (opFields ad as 0 + cond * 2 ^ 8) x y)
  | .xfr _ _ rs as x y => some (parWord 0x15 (opFields 0 as rs) x y)
  | .ldi _ _ code imm => some (classWord 0 (code * 2 ^ 39 + imm))
  | .br _ _ cond offset => some (classWord 1 (cond * 2 ^ 40 + Fx.toUnsigned 15 offset))
  | .call _ _ cond offset => some (classWord 1 (cond * 2 ^ 40 + 1 * 2 ^ 38 + Fx.toUnsigned 15 offset))
  | .rts _ _ cond => some (classWord 1 (cond * 2 ^ 40 + 2 * 2 ^ 38))
  | .doLoop _ _ none count stop => some (classWord 2 (count * 2 ^ 24 + stop))
  | .doLoop _ _ (some r) _ stop => some (classWord 2 (1 * 2 ^ 42 + r * 2 ^ 40 + stop))
  | .vmac _ _ ad pa pb negate ux uy _ =>
    some (classWord 3 (ad * 2 ^ 40 + pa * 2 ^ 37 + pb * 2 ^ 34 + Fx.b2n negate * 2 ^ 33 + Fx.b2n ux * 2 ^ 32 + Fx.b2n uy * 2 ^ 31))
  | .bmovSynchronous _ _ m _ => some (classWord 3 (bmovBits 1 m))
  | .bmovPosted _ _ m => some (classWord 3 (bmovBits 2 m.fields))
  | .endRun _ _ => some endWord
  | .rete _ _ => some (classWord 4 (1 * 2 ^ 40))
  | .swset _ _ mask => some (classWord 4 (2 * 2 ^ 40 + mask))
  | .swclr _ _ mask => some (classWord 4 (3 * 2 ^ 40 + mask))
  | .movr _ _ dst src => some (classWord 4 (4 * 2 ^ 40 + dst * 2 ^ 35 + src * 2 ^ 30))
  | .modp _ _ ptr amount => some (classWord 4 (5 * 2 ^ 40 + ptr * 2 ^ 37 + Fx.toUnsigned 15 amount))
  | .waitb _ _ mask => some (classWord 4 (6 * 2 ^ 40 + mask))
  | .clrb _ _ mask => some (classWord 4 (7 * 2 ^ 40 + mask))
  | _ => none

/-! ### Decoding -/

/-- A move field (R201). -/
def moveOf (w : Nat) : Move :=
  { kind := Fx.bits w 11 9, reg := Fx.bits w 8 7, ptr := Fx.bits w 6 4, post := Fx.bits w 3 2, shift := Fx.bits w 1 0 }

def macOf (w : Nat) : MacFields :=
  { ad := Fx.bits w 41 40, sa := Fx.bits w 39 38, sb := Fx.bits w 37 36, negate := Fx.bit w 35, accumulate := Fx.bit w 34
    saUnsigned := Fx.bit w 33, sbUnsigned := Fx.bit w 32 }

def dmacOf (w : Nat) : DmacFields :=
  { pair := Fx.bits w 41 41, sharedY := Fx.bit w 40, sharedIdx := Fx.bits w 39 39, neg0 := Fx.bit w 38, acc0 := Fx.bit w 37
    neg1 := Fx.bit w 36, acc1 := Fx.bit w 35, uns0 := Fx.bit w 34, uns1 := Fx.bit w 33 }

def bmovOf (w : Nat) : BmovFields :=
  { srcPtr := Fx.bits w 41 39, srcSpace := Fx.bits w 38 37, dstPtr := Fx.bits w 36 34, dstSpace := Fx.bits w 33 32
    ring := Fx.bits w 31 28, flag := Fx.bits w 25 24 }

/-- The instruction of an operation code (R202); codes 0x16 to 0x1F are illegal. -/
def parInstr (f c w : Nat) : Option Instr :=
  let x := moveOf (Fx.bits w 23 12)
  let y := moveOf (Fx.bits w 11 0)
  let ad := Fx.bits w 41 40
  let as := Fx.bits w 39 38
  let rs := Fx.bits w 37 36
  match Fx.bits w 46 42 with
  | 0x00 => some (.nop f c x y)
  | 0x01 => some (.mac f c (macOf w) x y)
  | 0x02 => some (.dmac f c (dmacOf w) x y)
  | 0x03 => some (.add f c ad as x y)
  | 0x04 => some (.sub f c ad as x y)
  | 0x05 => some (.mov f c ad as x y)
  | 0x06 => some (.add24 f c ad as x y)
  | 0x07 => some (.clr f c ad x y)
  | 0x08 => some (.neg f c ad x y)
  | 0x09 => some (.abs f c ad x y)
  | 0x0A => some (.max f c ad as x y)
  | 0x0B => some (.min f c ad as x y)
  | 0x0C => some (.ash f c ad (Fx.toSigned 7 (Fx.bits w 31 25)) x y)
  | 0x0D => some (.ashr f c ad rs x y)
  | 0x0E => some (.rnd f c ad x y)
  | 0x0F => some (.addd f c ad rs x y)
  | 0x10 => some (.subd f c ad rs x y)
  | 0x11 => some (.log2 f c ad as x y)
  | 0x12 => some (.exp2 f c ad as x y)
  | 0x13 => some (.cmp f c ad as x y)
  | 0x14 => some (.cmov f c ad as (Fx.bits w 35 32) x y)
  | 0x15 => some (.xfr f c rs as x y)
  | _ => none

/-- The instruction of a single-purpose class (R206); class codes 5 to 7 are illegal. -/
def classInstr (f c w : Nat) : Option Instr :=
  match Fx.bits w 46 44 with
  | 0 => some (.ldi f c (Fx.bits w 43 39) (Fx.bits w 23 0))
  | 1 => match Fx.bits w 39 38 with
    | 0 => some (.br f c (Fx.bits w 43 40) (Fx.toSigned 15 (Fx.bits w 14 0)))
    | 1 => some (.call f c (Fx.bits w 43 40) (Fx.toSigned 15 (Fx.bits w 14 0)))
    | 2 => some (.rts f c (Fx.bits w 43 40))
    | _ => none
  | 2 => match Fx.bits w 43 42 with
    | 0 => some (.doLoop f c none (Fx.bits w 39 24) (Fx.bits w 13 0))
    | 1 => some (.doLoop f c (some (Fx.bits w 41 40)) 0 (Fx.bits w 13 0))
    | _ => none
  | 3 => match Fx.bits w 43 42 with
    | 0 => some (.vmac f c (Fx.bits w 41 40) (Fx.bits w 39 37) (Fx.bits w 36 34) (Fx.bit w 33) (Fx.bit w 32) (Fx.bit w 31) 0)
    | 1 => some (.bmovSynchronous f c (bmovOf w) {})
    | 2 => some (.bmovPosted f c { fields := bmovOf w })
    | _ => none
  | 4 => match Fx.bits w 43 40 with
    | 0 => some (.endRun f c)
    | 1 => some (.rete f c)
    | 2 => some (.swset f c (Fx.bits w 23 0))
    | 3 => some (.swclr f c (Fx.bits w 23 0))
    | 4 => some (.movr f c (Fx.bits w 39 35) (Fx.bits w 34 30))
    | 5 => some (.modp f c (Fx.bits w 39 37) (Fx.toSigned 15 (Fx.bits w 14 0)))
    | 6 => some (.waitb f c (Fx.bits w 3 0))
    | 7 => some (.clrb f c (Fx.bits w 3 0))
    | _ => none
  | _ => none

/-- A word without the field that a DO's count source leaves unread: the register beside an immediate count, the immediate
count beside a register (R206; log entry 43). -/
def readBits (w : Nat) : Nat :=
  if Fx.bits w 47 42 = 0x28 then w - Fx.bits w 41 40 * 2 ^ 40
  else if Fx.bits w 47 42 = 0x29 then w - Fx.bits w 39 24 * 2 ^ 24
  else w

/-- What a program word spells for core c of frond f (R200, R206): none for a reserved code and for a word with a bit set
that no field takes (R202, R206; log entry 43). The rest of R221 is judged where the instruction executes. -/
def decodeFrond (f c w : Nat) : Option Instr :=
  let i := if Fx.bit w 47 then classInstr f c w else parInstr f c w
  match i with
  | some i => if encodeFrond i = some (readBits w) then some i else none
  | none => none

/-! ### The fetch -/

/-- The program word at a core's address. -/
def wordAt (s : State) (f c : Nat) : Nat := (s.frond.progWord f c (coreOf s f c).main.pc).toNat

/-- The word at the core's address spells instruction i, whose count of elements done (VMAC, BMOV) is no part of the word. -/
def frondFetch (s : State) (f c : Nat) (i : Instr) : Bool :=
  i.wellFormed && match decodeFrond f c (wordAt s f c) with
    | some j => encodeFrond j == encodeFrond i
    | none => false

/-- A core executes the instruction at its address (R156, R200). A fetch outside the image's code and a word that spells
no instruction stop the run (R166, R221); an instruction other than the one that stands there does not happen now (log
entry 2). -/
def atWord (f c : Nat) (i : Instr) (go : State → State) (s : State) : State :=
  match runningOn s f c with
  | none => s
  | some (p, t, k) =>
    if !inRun k.main.pc t.codeLo t.codeLen then stopRun f p K.taskBounds s
    else if frondFetch s f c i then go s
    else if (decodeFrond f c (wordAt s f c)).isNone then stopRun f p K.taskBounds s
    else s

end Sys2Proof.Machine
end

