-- ==== Sys2Proof/Machine/FrondIsa.lean ====
section
/-!
DEFINITION. The instructions of a frond core (08: R192 to R220): what each does to the core that executes it.
-/
namespace Sys2Proof.Machine
open Sys2Proof

/-! ### The parallel class (R202) -/

def execNop (frond core : Nat) (x y : Move) (s : State) : Host.Outcome State Fault Refusal :=
  .next (atWord frond core (.nop frond core x y) (fun s => parallel frond core x y some s) s)

/-- MAC: Ad written with, or changed by, the exact product (R192). -/
def execMac (frond core : Nat) (fields : MacFields) (x y : Move) (s : State) : Host.Outcome State Fault Refusal :=
  .next (atWord frond core (.mac frond core fields x y) (fun s => parallel frond core x y (fun b =>
    some (b.mac fields.ad (product (b.dat fields.sa) fields.saUnsigned (b.dat fields.sb) fields.sbUnsigned) fields.negate fields.accumulate)) s) s)

/-- DMAC: two halves sharing a signed operand (R202). -/
def execDmac (frond core : Nat) (fields : DmacFields) (x y : Move) (s : State) : Host.Outcome State Fault Refusal :=
  let sh := (if fields.sharedY then 2 else 0) + fields.sharedIdx
  let o := if fields.sharedY then 0 else 2
  .next (atWord frond core (.dmac frond core fields x y) (fun s => parallel frond core x y (fun b =>
    let p0 := product (b.dat sh) false (b.dat o) fields.uns0
    let p1 := product (b.dat sh) false (b.dat (o + 1)) fields.uns1
    some ((b.mac (2 * fields.pair) p0 fields.neg0 fields.acc0).mac (2 * fields.pair + 1) p1 fields.neg1 fields.acc1)) s) s)

def execAdd (frond core ad as : Nat) (x y : Move) (s : State) : Host.Outcome State Fault Refusal :=
  .next (atWord frond core (.add frond core ad as x y) (fun s => parallel frond core x y (fun b => some (b.opResult ad ((b.fast ad).toInt + (b.source ad as).toInt))) s) s)

def execSub (frond core ad as : Nat) (x y : Move) (s : State) : Host.Outcome State Fault Refusal :=
  .next (atWord frond core (.sub frond core ad as x y) (fun s => parallel frond core x y (fun b => some (b.opResult ad ((b.fast ad).toInt - (b.source ad as).toInt))) s) s)

def execMov (frond core ad as : Nat) (x y : Move) (s : State) : Host.Outcome State Fault Refusal :=
  .next (atWord frond core (.mov frond core ad as x y) (fun s => parallel frond core x y (fun b => some (b.opResult ad (b.source ad as).toInt)) s) s)

/-- ADD24: the source shifted arithmetically right by 24. -/
def execAdd24 (frond core ad as : Nat) (x y : Move) (s : State) : Host.Outcome State Fault Refusal :=
  .next (atWord frond core (.add24 frond core ad as x y) (fun s => parallel frond core x y (fun b => some (b.opResult ad ((b.fast ad).toInt + (b.source ad as).toInt / 2 ^ 24))) s) s)

def execClr (frond core ad : Nat) (x y : Move) (s : State) : Host.Outcome State Fault Refusal :=
  .next (atWord frond core (.clr frond core ad x y) (fun s => parallel frond core x y (fun b => some (b.opResult ad 0)) s) s)

def execNeg (frond core ad : Nat) (x y : Move) (s : State) : Host.Outcome State Fault Refusal :=
  .next (atWord frond core (.neg frond core ad x y) (fun s => parallel frond core x y (fun b => some (b.opResult ad (-(b.fast ad).toInt))) s) s)

def execAbs (frond core ad : Nat) (x y : Move) (s : State) : Host.Outcome State Fault Refusal :=
  .next (atWord frond core (.abs frond core ad x y) (fun s => parallel frond core x y (fun b => some (b.opResult ad (b.fast ad).toInt.natAbs)) s) s)

def execMax (frond core ad as : Nat) (x y : Move) (s : State) : Host.Outcome State Fault Refusal :=
  .next (atWord frond core (.max frond core ad as x y) (fun s => parallel frond core x y (fun b => some (b.opResult ad (max (b.fast ad).toInt (b.source ad as).toInt))) s) s)

def execMin (frond core ad as : Nat) (x y : Move) (s : State) : Host.Outcome State Fault Refusal :=
  .next (atWord frond core (.min frond core ad as x y) (fun s => parallel frond core x y (fun b => some (b.opResult ad (min (b.fast ad).toInt (b.source ad as).toInt))) s) s)

/-- A shift of an accumulator by a signed count, which acts within −56 to 56 (R203). -/
def shiftAcc (v : W56) (count : Int) : Int :=
  let n := Fx.clamp (-56) 56 count
  if 0 ≤ n then v.toInt * 2 ^ n.toNat else v.toInt / 2 ^ (-n).toNat

/-- ASH: the count is a signed 7-bit immediate. -/
def execAsh (frond core ad : Nat) (imm : Int) (x y : Move) (s : State) : Host.Outcome State Fault Refusal :=
  .next (atWord frond core (.ash frond core ad imm x y) (fun s => parallel frond core x y (fun b => some (b.opResult ad (shiftAcc (b.fast ad) imm))) s) s)

/-- ASHR: the count is bits [6:0] of Rs, signed. -/
def execAshr (frond core ad rs : Nat) (x y : Move) (s : State) : Host.Outcome State Fault Refusal :=
  .next (atWord frond core (.ashr frond core ad rs x y) (fun s => parallel frond core x y (fun b =>
    some (b.opResult ad (shiftAcc (b.fast ad) (Fx.toSigned 7 ((b.dat rs).toNat % 128))))) s) s)

/-- RND: rounded and ranged in place, bits [23:0] cleared (R194). -/
def execRnd (frond core ad : Nat) (x y : Move) (s : State) : Host.Outcome State Fault Refusal :=
  .next (atWord frond core (.rnd frond core ad x y) (fun s => parallel frond core x y (fun b =>
    let (w, ss) := storeSingle b.truncates b.wraps (b.fast ad) 0
    let b := b.opResult ad (loadSingle w).toInt
    some (if ss then b.swLater 0 0x10 else b)) s) s)

def execAddd (frond core ad rs : Nat) (x y : Move) (s : State) : Host.Outcome State Fault Refusal :=
  .next (atWord frond core (.addd frond core ad rs x y) (fun s => parallel frond core x y (fun b => some (b.opResult ad ((b.fast ad).toInt + (b.dat rs).toInt * 2 ^ 24))) s) s)

def execSubd (frond core ad rs : Nat) (x y : Move) (s : State) : Host.Outcome State Fault Refusal :=
  .next (atWord frond core (.subd frond core ad rs x y) (fun s => parallel frond core x y (fun b => some (b.opResult ad ((b.fast ad).toInt - (b.dat rs).toInt * 2 ^ 24))) s) s)

/-- A late result with its flags and AV (R192, R207, R208). -/
def Bank.lateResult (b : Bank) (i : Nat) (v : Int) : Bank :=
  let (w, av) := satAcc v
  let b := (b.putLate i w).swLater 7 (zneOf w)
  if av then b.swLater 0 0x20 else b

/-- LOG2 (R204): the error within its bound is a free value (log entry 5). -/
def execLog2 (frond core ad as : Nat) (x y : Move) (s : State) : Host.Outcome State Fault Refusal :=
  .next (atWord frond core (.log2 frond core ad as x y) (fun s => parallel frond core x y (fun b => some (b.lateResult ad (log2Value (b.slow as) (Config.log2Error (b.slow as))))) s) s)

/-- EXP2 (R204): the error within its bound is a free value (log entry 5). -/
def execExp2 (frond core ad as : Nat) (x y : Move) (s : State) : Host.Outcome State Fault Refusal :=
  .next (atWord frond core (.exp2 frond core ad as x y) (fun s => parallel frond core x y (fun b => some (b.lateResult ad (exp2Value (b.slow as) (Config.exp2Error (b.slow as))))) s) s)

/-- CMP: the flags of the difference; nothing is written. -/
def execCmp (frond core ad as : Nat) (x y : Move) (s : State) : Host.Outcome State Fault Refusal :=
  .next (atWord frond core (.cmp frond core ad as x y) (fun s => parallel frond core x y (fun b =>
    some (b.swLater 7 (zneOf (satAcc ((b.slow ad).toInt - (b.slow as).toInt)).1))) s) s)

/-- CMOV: Ad = As when the condition holds; codes above 10 are illegal (R205). -/
def execCmov (frond core ad as cond : Nat) (x y : Move) (s : State) : Host.Outcome State Fault Refusal :=
  .next (atWord frond core (.cmov frond core ad as cond x y) (fun s => parallel frond core x y (fun b =>
    if 10 < cond then none
    else if b.cond cond then some (b.opResult ad (b.slow as).toInt) else some b) s) s)

/-- XFR: Rs = As stored with shift 0 (R194). -/
def execXfr (frond core rs as : Nat) (x y : Move) (s : State) : Host.Outcome State Fault Refusal :=
  .next (atWord frond core (.xfr frond core rs as x y) (fun s => parallel frond core x y (fun b =>
    let (w, ss) := storeSingle b.truncates b.wraps (b.slow as) 0
    let b := b.putData rs w
    some (if ss then b.swLater 0 0x10 else b)) s) s)

/-! ### Registers (R206) -/

def execLdi (frond core code imm : Nat) (s : State) : Host.Outcome State Fault Refusal :=
  .next (atWord frond core (.ldi frond core code imm) (fun s => issue frond core .plain false (fun _ k b =>
    (b.writeReg code (BitVec.ofNat 24 imm)).map fun b => k.retire b.advance 1) s) s)

/-- MOVR: any readable register to any writable one (R191). -/
def execMovr (frond core dst src : Nat) (s : State) : Host.Outcome State Fault Refusal :=
  .next (atWord frond core (.movr frond core dst src) (fun s => issue frond core .plain false (fun _ k b =>
    match k.readReg (portBusy s frond) b src with
    | some v => (b.writeReg dst v).map fun b => k.retire b.advance 1
    | none => none) s) s)

/-- MODP: the amount added under the modifier's mode. -/
def execModp (frond core ptr : Nat) (amount : Int) (s : State) : Host.Outcome State Fault Refusal :=
  .next (atWord frond core (.modp frond core ptr amount) (fun s => issue frond core .plain false (fun _ k b =>
    let m := b.m.getD ptr 0
    if modLegal m then some (k.retire (({ b with p := b.p.set ptr (moveBy (b.p.getD ptr 0) m amount) }).advance) 1) else none) s) s)

/-- SWSET: the RW fields of the mask are set (R189, R207). -/
def execSwset (frond core mask : Nat) (s : State) : Host.Outcome State Fault Refusal :=
  .next (atWord frond core (.swset frond core mask) (fun s => issue frond core .plain false (fun _ k b =>
    let w : W24 := BitVec.ofNat 24 mask
    let b := ({ b with sw := b.sw ||| (w &&& 0x003300) }).swLater 0 (w &&& 0x37).toNat
    some (k.retire b.advance 1)) s) s)

/-- SWCLR: the RW fields of the mask are cleared (R189, R207). -/
def execSwclr (frond core mask : Nat) (s : State) : Host.Outcome State Fault Refusal :=
  .next (atWord frond core (.swclr frond core mask) (fun s => issue frond core .plain false (fun _ k b =>
    let w : W24 := BitVec.ofNat 24 mask
    let b := ({ b with sw := b.sw &&& ~~~(w &&& 0x003300) }).swLater (w &&& 0x37).toNat 0
    some (k.retire b.advance 1)) s) s)

/-! ### Flow and loops (R210 to R215) -/

/-- Where a flow instruction goes: its own address plus its offset. -/
def flowTarget (b : Bank) (offset : Int) : Option Nat :=
  let a := (b.pc : Int) + offset
  if 0 ≤ a then some a.toNat else none

/-- BR: a taken branch out of loops pops them (R213). A target outside the image's code stops the run. -/
def execBr (frond core cond : Nat) (offset : Int) (s : State) : Host.Outcome State Fault Refusal :=
  .next (atWord frond core (.br frond core cond offset) (fun s => issue frond core .flow false (fun t k b =>
    if 10 < cond then none
    else if b.cond cond then
      match flowTarget b offset with
      | some a => if inRun a t.codeLo t.codeLen then
          some (k.retire (({ b with loops := popOutside a b.loops }).branch (some a)) 1) else none
      | none => none
    else some (k.retire (b.branch none) 1)) s) s)

/-- CALL: pushes its address + 2 (R214). -/
def execCall (frond core cond : Nat) (offset : Int) (s : State) : Host.Outcome State Fault Refusal :=
  .next (atWord frond core (.call frond core cond offset) (fun s => issue frond core .flow false (fun t k b =>
    if 10 < cond ∨ 4 ≤ b.calls.length then none
    else if b.cond cond then
      match flowTarget b offset with
      | some a => if inRun a t.codeLo t.codeLen then
          some (k.retire (({ b with calls := (b.pc + 2) :: b.calls }).branch (some a)) 1) else none
      | none => none
    else some (k.retire (b.branch none) 1)) s) s)

/-- RTS: pops the call stack (R214). -/
def execRts (frond core cond : Nat) (s : State) : Host.Outcome State Fault Refusal :=
  .next (atWord frond core (.rts frond core cond) (fun s => issue frond core .flow false (fun _ k b =>
    match b.calls with
    | [] => none
    | a :: rest =>
      if 10 < cond then none
      else if b.cond cond then some (k.retire (({ b with calls := rest }).branch (some a)) 1)
      else some (k.retire (b.branch none) 1)) s) s)

/-- DO: pushes a loop unless its count is zero (R210). `stop` is the end offset. -/
def execDoLoop (frond core : Nat) (reg : Option Nat) (count stop : Nat) (s : State) : Host.Outcome State Fault Refusal :=
  .next (atWord frond core (.doLoop frond core reg count stop) (fun s => issue frond core .ender false (fun _ k b =>
    let n := match reg with | some r => (b.dat r).toNat | none => count
    if stop = 0 ∨ 8191 < stop ∨ 4 ≤ b.loops.length then none
    else if n = 0 then some (k.retire { b with time := b.time + 1, pc := b.pc + stop + 1 } 1)
    else
      let b := { b with
        l := b.l.set b.loops.length (BitVec.ofNat 24 n)
        loops := { start := b.pc + 1, stop := b.pc + stop } :: b.loops }
      some (k.retire { b with time := b.time + 1, pc := b.pc + 1 } 1)) s) s)

/-- END commits the run, once its posted transfers are complete; it is illegal inside a handler (R162, R215). It counts
too, and a run that it takes past its count is stopped (R165). -/
def execEndRun (frond core : Nat) (s : State) : Host.Outcome State Fault Refusal :=
  .next (atWord frond core (.endRun frond core) (fun s => match runningOn s frond core with
    | none => s
    | some (p, t, k) =>
      let b := k.main.settle
      if !mayIssue t b .ender false || k.handler then stopRun frond p K.taskBounds s
      else
        let k := { k with main := b, instrs := k.instrs + 1, waitTick := false }
        if pastLimit s t k then stopRun frond p K.taskOverrun (putCore frond core k s)
        else if k.queue = [] then commitRun frond core p (putCore frond core k s)
        else putCore frond core { k with run := .ending p } s) s)

/-- RETE swaps the banks back; outside a handler it is illegal (R170, R215). -/
def execRete (frond core : Nat) (s : State) : Host.Outcome State Fault Refusal :=
  .next (atWord frond core (.rete frond core) (fun s => issue frond core .ender false (fun _ k b =>
    if k.handler then
      some { k with main := k.shadow, shadow := { b with time := b.time + 1 }, handler := false, instrs := k.instrs + 1 }
    else none) s) s)

/-! ### Long instructions (R216 to R220) -/

/-- The pointers of a long instruction after one element, the second one's post-modify after the first one's (R216,
R217). -/
def pairStep (m p : List W24) (a b : Nat) : List W24 :=
  let p := p.set a (moveByMod (p.getD a 0) (m.getD a 0))
  p.set b (moveByMod (p.getD b 0) (m.getD b 0))

/-- Every element of a long instruction with these pointers finds its two addresses good. -/
def pairAllowed (ok : Nat → Nat → Bool) (m : List W24) (a b : Nat) : Nat → List W24 → Bool
  | 0, _ => true
  | n + 1, p => ok (p.getD a 0).toNat (p.getD b 0).toNat && pairAllowed ok m a b n (pairStep m p a b)

/-- Its modifiers are legal, when it has an element to move past (R190, R221). -/
def pairLegal (m : List W24) (a b n : Nat) : Bool := decide (n = 0) || (modLegal (m.getD a 0) && modLegal (m.getD b 0))

/-- One element of a VMAC (R216). -/
def vmacStep (rdx rdy : Nat → W24) (ad pa pb : Nat) (negate ux uy : Bool) (b : Bank) : Bank :=
  let prod := product (rdx (b.p.getD pa 0).toNat) ux (rdy (b.p.getD pb 0).toNat) uy
  let v := (b.slow ad).toInt + (if negate then -prod else prod)
  let (w, av) := satAcc v
  let b := { b with acc := b.acc.set ad w, p := pairStep b.m b.p pa pb, l := b.l.set 3 (b.l.getD 3 0 - 1) }
  let b := b.swLater 7 (zneOf w)
  if av then b.swLater 0 0x20 else b

def vmacRun (step : Bank → Bank) : Nat → Bank → Bank
  | 0, b => b
  | n + 1, b => vmacRun step n (step b)

/-- Every element of a VMAC reads words that the run may read (R166). -/
def vmacAllowed (t : ExpertTask) (bsz : Nat) (b : Bank) (pa pb n : Nat) : Bool :=
  pairAllowed (fun x y => mayRead t bsz false x && mayRead t bsz true y) b.m pa pb n b.p

/-- The bank before a VMAC: the accumulator with everything issued so far, as VMAC accumulates onto it. A LOG2 or EXP2 in
flight to it still lands, and replaces what VMAC writes (R208). -/
def Bank.folded (b : Bank) (ad : Nat) : Bank :=
  { b with acc := b.acc.set ad (b.fast ad), pend := b.pend.filter fun p => p.target != .acc ad || p.late }

/-- VMAC (R216): `elems` elements are done before an event is taken; when fewer than N are, the instruction stands and is
issued again (R172, R220). -/
def execVmac (frond core ad pa pb : Nat) (negate ux uy : Bool) (elems : Nat) (s : State) : Host.Outcome State Fault Refusal :=
  let fr := s.frond
  let bsz := s.sys.b
  .next (atWord frond core (.vmac frond core ad pa pb negate ux uy elems) (fun s => issue frond core .long false (fun t k b =>
    let n := (b.l.getD 3 0).toNat
    let m := min n elems
    if 4 ≤ b.loops.length ∨ !pairLegal b.m pa pb n then none
    else if !vmacAllowed t bsz b pa pb m then none
    else if n = 0 then some (k.retire b.advance 4)
    else
      let b := vmacRun (vmacStep (fun a => fr.read frond core false a) (fun a => fr.read frond core true a) ad pa pb negate ux uy)
        m (b.folded ad)
      if m = n then some (k.retire b.advance (n + 4)) else some (k.retire b (m + 4))) s) s)

/-- One element of a BMOV between X and Y spaces (R217). -/
def bmovStep (f c p : Nat) (m : BmovFields) (s : State) : State :=
  let k := coreOf s f c
  let b := k.main
  let w := s.frond.read f c (decide (m.srcSpace = 1)) (b.p.getD m.srcPtr 0).toNat
  let dst := b.p.getD m.dstPtr 0
  let b := { b with p := pairStep b.m b.p m.srcPtr m.dstPtr, l := b.l.set 3 (b.l.getD 3 0 - 1) }
  writeWords f c p [(decide (m.dstSpace = 1), dst.toNat, w)] (putCore f c { k with main := b } s)

def bmovRun (f c p : Nat) (m : BmovFields) : Nat → State → State
  | 0, s => s
  | n + 1, s => bmovRun f c p m n (bmovStep f c p m s)

/-- Every element of a BMOV between X and Y lies within the run's rights (R166). -/
def bmovAllowed (t : ExpertTask) (bsz : Nat) (m : BmovFields) (b : Bank) (n : Nat) : Bool :=
  pairAllowed (fun x y => mayRead t bsz (decide (m.srcSpace = 1)) x && mayWrite t bsz (decide (m.dstSpace = 1)) y)
    b.m m.srcPtr m.dstPtr n b.p

/-- A BMOV may issue: its place, its spaces, and the loop depth (R212, R217, R221). -/
def bmovIssues (t : ExpertTask) (b : Bank) (m : BmovFields) : Bool :=
  mayIssue t b .long false && decide (b.loops.length < 4) && decide (m.srcSpace ≤ 2) && decide (m.dstSpace ≤ 2) &&
  !(decide (m.srcSpace = 2) && decide (m.dstSpace = 2))

/-- A BMOV between X and Y spaces moves N words, at most 4,096, whether its word asks for a posted transfer or not (R217):
`elems` of them before an event is taken (R172, R220). -/
def bmovBetween (f c p : Nat) (t : ExpertTask) (k : Core) (m : BmovFields) (elems : Nat) (s : State) : State :=
  let b := k.main.settle
  let n := min (b.l.getD 3 0).toNat 4096
  let j := min n elems
  if !pairLegal b.m m.srcPtr m.dstPtr n || !bmovAllowed t s.sys.b m b j then stopRun f p K.taskBounds s
  else
    let s := bmovRun f c p m j (putCore f c { k with main := b } s)
    let k := coreOf s f c
    goOn f c t (if j = n then k.retire k.main.advance (n + 3) else k.retire k.main (j + 3)) s

/-- A synchronous transfer of bulk words (R173, R217, R218): some of them, in whole bursts of 16, before an event is taken. A
word that only the second read brings is logged; one that fails twice raises a flag on the run (R174). -/
def bmovBulk (f c p : Nat) (t : ExpertTask) (k : Core) (m : BmovFields) (run : BmovRun) (s : State) : State :=
  let b := k.main.settle
  let n := (b.l.getD 3 0).toNat
  match bulkXfer t b m n false with
  | none => stopRun f p K.taskBounds s
  | some (r, x) =>
    let j := if n ≤ run.elems then n else run.elems / 16 * 16
    let x := { x with words := j, fails := run.fails }
    if !xferAllowed t s.sys.b x j (BitVec.ofNat 24 x.addr) then stopRun f p K.taskBounds s
    else
      let bad := readFails s r x
      let s := ((bad.filter fun e => !e.2).map (·.1)).foldl (bulkMasked f r x) s
      if bad.any (·.2) then let (loc, s) := drawFree 32 s; raiseFlag p loc s
      else
        let s := bulkWords f c p r x j s
        let b := bulkPointers { b with l := b.l.set 3 (BitVec.ofNat 24 (n - j)) } m j
        let k := { k with bulkWords := k.bulkWords + j }
        goOn f c t (k.retire (if j = n then b.advance else b) 3) s

/-- A synchronous BMOV (R217, R218). -/
def execBmovSynchronous (frond core : Nat) (fields : BmovFields) (run : BmovRun) (s : State) : Host.Outcome State Fault Refusal :=
  .next (atWord frond core (.bmovSynchronous frond core fields run) (fun s => match runningOn s frond core with
    | none => s
    | some (p, t, k) =>
      if !bmovIssues t k.main.settle fields then stopRun frond p K.taskBounds s
      else if fields.srcSpace < 2 ∧ fields.dstSpace < 2 then bmovBetween frond core p t k fields run.elems s
      else bmovBulk frond core p t k fields run s) s)

/-- Enter a posted transfer, or hold the core while the frond's queue of four is full (R173). -/
def postXfer (f c p : Nat) (t : ExpertTask) (k : Core) (x : BulkXfer) (s : State) : State :=
  let x := { x with order := portNext s f }
  let k := { k with bulkWords := k.bulkWords + x.words }
  if portBusy s f < 4 then goOn f c t { k with queue := k.queue ++ [x] } s
  else putCore f c { k with sync := some x, run := .heldQueue p } s

/-- A posted BMOV (R218): pointers move and L3 clears at issue, its flag clears, and the transfer is queued. Between X and Y
spaces it has the effect of R217. -/
def execBmovPosted (frond core : Nat) (post : BmovPost) (s : State) : Host.Outcome State Fault Refusal :=
  let bsz := s.sys.b
  let fields := post.fields
  .next (atWord frond core (.bmovPosted frond core post) (fun s => match runningOn s frond core with
    | none => s
    | some (p, t, k) =>
      let b := k.main.settle
      let n := (b.l.getD 3 0).toNat
      if !bmovIssues t b fields then stopRun frond p K.taskBounds s
      else if fields.srcSpace < 2 ∧ fields.dstSpace < 2 then bmovBetween frond core p t k fields post.run.elems s
      else match bulkXfer t b fields n true with
        | none => stopRun frond p K.taskBounds s
        | some (_, x) =>
          if !xferAllowed t bsz x n (BitVec.ofNat 24 x.addr) then stopRun frond p K.taskBounds s
          else
            let b := bulkPointers { b with l := b.l.set 3 0 } fields n
            postXfer frond core p t ({ k with flags := Fx.setBit k.flags fields.flag false }.retire b.advance 1) { x with fails := post.run.fails } s) s)

/-- WAITB holds the core until every flag of its mask is set (R218). -/
def execWaitb (frond core mask : Nat) (s : State) : Host.Outcome State Fault Refusal :=
  .next (atWord frond core (.waitb frond core mask) (fun s => match runningOn s frond core with
    | none => s
    | some (p, t, k) =>
      let b := k.main.settle
      if !mayIssue t b .plain true then stopRun frond p K.taskBounds s
      else
        let k := k.retire b.advance 1
        if k.flags &&& mask = mask then goOn frond core t k s
        else putCore frond core { k with run := .heldFlags p mask } s) s)

def execClrb (frond core mask : Nat) (s : State) : Host.Outcome State Fault Refusal :=
  .next (atWord frond core (.clrb frond core mask) (fun s => issue frond core .plain false (fun _ k b =>
    some ({ k with flags := k.flags &&& (15 - mask % 16) }.retire b.advance 1)) s) s)

/-- What a core goes on with once a posted transfer of its run is complete (R162, R169, R218). -/
def afterTransfer (f c p : Nat) (t : ExpertTask) (k : Core) (s : State) : State :=
  match k.run with
  | .ending _ => if k.queue = [] then commitRun f c p (putCore f c k s) else putCore f c k s
  | .heldFlags q m => if k.flags &&& m = m then goOn f c t { k with run := .task q } s else putCore f c k s
  | _ => goOn f c t k s

/-- The oldest posted transfer of a frond's bulk port completes, of the core named (R169, R173, R218): its words are moved, its
flag is set, bulk completion is raised when enabled, and whatever waited for it goes on. A word that fails
twice raises a flag on the run (R174). -/
def execBulkCompletion (frond core : Nat) (s : State) : Host.Outcome State Fault Refusal :=
  .next (let k := coreOf s frond core
    match k.run.page, k.queue with
    | some p, x :: rest =>
      match Tbl.find s.frond.tasks p with
      | none => s
      | some t =>
        if (portQueue s frond).any fun y => decide (y.order < x.order) then s
        else match t.rings[x.ring]? with
        | none => s
        | some r =>
          let bad := readFails s r x
          let s := ((bad.filter fun e => !e.2).map (·.1)).foldl (bulkMasked frond r x) s
          let s := if bad.any (·.2) then let (loc, s) := drawFree 32 s; raiseFlag p loc s
            else
              let s := bulkWords frond core p r x x.words s
              let k := { k with queue := rest, flags := Fx.setBit k.flags x.flag true }
              let k := if k.taskSw.getLsbD 13 ∧ t.dmaHandler.isSome then { k with waitBulk := true } else k
              afterTransfer frond core p t k s
          freeEntries frond s
    | _, _ => s)

end Sys2Proof.Machine
end

