-- ==== Sys2Proof/Machine/PairCmds.lean ====
section
/-!
DEFINITION. The PAIR commands (R349, R488) and the timers of pairing: the handshake's (R324, R326), the state copy's (R339),
wait-to-restore (R340), the alternate's start (R321) and the takeover out of step (R336).
-/
namespace Sys2Proof.Machine
open Sys2Proof

/-! ### Commands -/

/-- PAIR.CONFIG (R340). -/
def execPairConfig (r : Req) (op enable mode adopting restore : Nat) (s : State) : Host.Outcome State Fault Refusal :=
  serve { code := 0x0901 } r (fun r s =>
    match (if op = 1 then gate none s else none) with
    | some e => (s, e)
    | none =>
      sharedSetting r 0x0901 op (fun _ =>
        if 1 < enable ∨ 1 < mode ∨ 1 < adopting then .error (refuse St.conflict)
        else
          let (w, cl) := clampField 5 0 10 1800 restore
          .ok ([.setting 0x0901 [enable, mode, adopting, w]], cl))
        (fun s => u8 (Fx.b2n s.pair.enable) ++ u8 (Fx.b2n (!s.pair.autoReturn)) ++ u8 (Fx.b2n s.pair.adopt) ++ u8 0 ++
          u32 s.pair.restoreS) s) s

/-- Seconds of the wait-to-restore that remain (R340). -/
def restoreLeft (s : State) : Nat :=
  match s.pair.restoreAt with
  | some t => s.pair.restoreS - (s.clk.raw - t) / 250000000
  | none => 0

/-- Scene bodies that are still to be copied (R325). -/
def bodiesLeft (s : State) : Nat :=
  (s.pair.txns.filter fun t => t.changes.any fun c => match c with | .sceneBody _ _ _ _ => true | _ => false).length

/-- The role byte: active, and the preferred unit (R488). -/
def roleByte (s : State) : Nat := Fx.b2n s.pair.activeOut + 2 * Fx.b2n s.sys.pairPref

/-- PAIR.STATUS (R349, R488, R489). -/
def execPairStatus (r : Req) (flags : Nat) (s : State) : Host.Outcome State Fault Refusal :=
  serve { code := 0x0902 } r (withFlags 1 flags fun _ s =>
    let p := s.pair
    (s, done [] (u8 p.state ++ u8 (roleByte s) ++ u8 p.reason ++ u8 p.link.txSet ++ u8 p.link.rxSet ++ [0, 0, 0] ++
        u64 ((p.partner.map (·.serial)).getD 0) ++ s64 p.delta ++ configHash s ++ padTo 32 p.partnerHash ++ u16 p.progress ++
        u32 (restoreLeft s) ++ u32 (bodiesLeft s))
      (if Fx.bit flags 0 then configImage s else []))) s

/-- A planned or forced switch-over starts (R333): its frame. -/
def startSwitch (forced : Bool) (s : State) : Nat × State :=
  let f := applyFrame s
  (f, sendLink (.switch false (linkFrame s f)) (setPair (fun p => { p with switchAt := some f, forced := forced, giveUp := 0 }) s))

/-- PAIR.SWITCH (R333): refused unless the engines are IN_STEP; with FORCE in the maintenance state. -/
def execPairSwitch (r : Req) (flags : Nat) (s : State) : Host.Outcome State Fault Refusal :=
  let force := Fx.bit flags 0
  serve { code := 0x0903, reach := if force then .here else .shared, maint := force } r (withFlags 1 flags fun _ s =>
    if isStandby s then (s, refuse St.notReady (reason 0x08 0))
    else if !s.sys.pairEn ∨ (!force ∧ s.pair.state ≠ 4) then (s, refuse St.notReady (reason 0x09 Fn.pair))
    else
      let (f, s) := startSwitch (force && decide (s.pair.state ≠ 4)) s
      (s, done [] (fnB f))) s

/-- PAIR.RETRY (R326): after a refusal. -/
def execPairRetry (r : Req) (s : State) : Host.Outcome State Fault Refusal :=
  serve { code := 0x0904, reach := .here } r (fun _ s =>
    if s.pair.state = 2 then (startHandshake none s, done [] []) else (s, refuse St.conflict)) s

/-- The floor of the heartbeat timeout in µs: two retry windows and a sample period, rounded up (R347). -/
def heartbeatFloor (s : State) : Nat := 40 + Fx.ceilDiv 1000000 (fsOf s.sys.rate)

/-- PAIR.LINK (R347). -/
def execPairLink (r : Req) (op timeout interval retx : Nat) (asym : Int) (s : State) : Host.Outcome State Fault Refusal :=
  serve { code := 0x0905, expert := true } r (fun r s =>
    match (if op = 1 then gate none s else none) with
    | some e => (s, e)
    | none =>
      sharedSetting r 0x0905 op (fun s =>
        let (t, c1) := clampField 1 0 (heartbeatFloor s) 100000 timeout
        let (i, c2) := clampField 5 0 10 (t / 4) interval
        let (x, c3) := clampField 9 0 4 9 retx
        let (a, c4) := clampField 11 0 (-5000) 5000 asym
        .ok ([.setting 0x0905 [t, i, x, a]], c1 ++ c2 ++ c3 ++ c4))
        (fun s => linkBody s ++ u32 s.pair.link.retx ++ u32 s.pair.link.crcFail ++ u32 s.pair.link.laneDrops ++
          u32 s.pair.link.protocol) s) s

/-- PAIR.RESYNC (R339): while the pair is IN_STEP or OUT_OF_STEP. -/
def execPairResync (r : Req) (s : State) : Host.Outcome State Fault Refusal :=
  serve { code := 0x0906, reach := .here, expert := true } r (fun _ s =>
    if s.pair.state = 4 then (leaveStep s, done [] [])
    else if s.pair.state = 5 then (startCopy s, done [] [])
    else (s, refuse St.conflict)) s

/-- A record of PAIR.SIGNATURES (R488): 57 bytes. -/
def SigRec.bytes (x : SigRec) : List Byte :=
  let three := fun (o : Option (Nat × Nat × Nat)) => let v := o.getD (0, 0, 0); u64 v.1 ++ u64 v.2.1 ++ u64 v.2.2
  fnB x.frame ++ three x.own ++ three x.partner ++ u8 x.result

/-- PAIR.SIGNATURES (R349): the last 64 pairs, in ascending frames. -/
def execPairSignatures (r : Req) (s : State) : Host.Outcome State Fault Refusal :=
  serve { code := 0x0907, expert := true } r (fun _ s =>
    (s, done [] (u8 s.pair.sigs.length) (s.pair.sigs.reverse.flatMap SigRec.bytes))) s

/-! ### Timers -/

/-- HANDSHAKE_TIME_TIMEOUT (R324): step 6 takes at most 10 s. -/
def execHandshakeTimeTimeout (s : State) : Host.Outcome State Fault Refusal :=
  .next (if s.pair.state = 1 ∧ s.pair.step = 6 then refusePair true 6 (advanceTo (s.pair.stepSince + msTicks 10000) s) else s)

/-- REFUSED_RETRY (R326): 10 s after a TIME refusal. -/
def execRefusedRetry (s : State) : Host.Outcome State Fault Refusal :=
  .next (if s.pair.state = 2 ∧ s.pair.reason = 6 ∧ s.pair.link.up then
      startHandshake none (advanceTo (s.pair.refusedAt + msTicks 10000) s)
    else s)

/-- SYNC_RETRY (R339): 60 s after three failed copies. -/
def execSyncRetry (s : State) : Host.Outcome State Fault Refusal :=
  .next (if s.pair.state = 5 ∧ s.pair.link.up then startCopy (advanceTo (s.pair.copyFailAt + msTicks 60000) s) else s)

/-- WAIT_TO_RESTORE_EXPIRY (R340, R278): the active engine gives the partner's identity back; when the partner is the
preferred unit, control returns to it under AUTO, and PAIR_RESTORED is posted under MANUAL. -/
def execWaitToRestoreExpiry (s : State) : Host.Outcome State Fault Refusal :=
  .next (match s.pair.restoreAt with
    | none => s
    | some t =>
      if s.pair.state ≠ 4 then s
      else
        let s := setPair (fun p => { p with restoreAt := none }) (advanceTo (t + msTicks (1000 * s.pair.restoreS)) s)
        if !s.pair.activeOut then s
        else
          let held := (partnerPorts s).any fun n => (netOf s n).claimed
          let s := if held then sendLink (.identity false (!ownBlue s)) (releaseIdentity s) else s
          if s.sys.pairPref then s
          else if s.pair.autoReturn then (startSwitch false s).2
          else postEvent Ev.pairRestored none 0 [] s)

/-- ALTERNATE_START (R321): ports and router ready, PARTNER_ACTIVE low at every tick for 2 s. -/
def execAlternateStart (s : State) : Host.Outcome State Fault Refusal :=
  .next (if s.sys.pairEn ∧ !s.sys.pairPref ∧ !s.pair.placed ∧ !s.pair.activeOut ∧ !s.pair.partnerIn ∧ s.pair.state ≠ 2 ∧
      mayServe s ∧ 1 ≤ s.pair.lowTicks then raiseActive (advanceTo (s.pair.lowSince + msTicks 2000) s)
    else s)

/-- The engine has been IN_STEP within the last 1 ms (R335). -/
def recentlyInStep (s : State) : Bool :=
  match s.pair.stepAt with
  | some t => decide (s.clk.raw ≤ t + msTicks 1)
  | none => false

/-- UNSTEPPED_TAKEOVER (R336): PARTNER_ACTIVE low at every tick for 4 ms, and ACTIVE rises at a tick (R242); the flag UNSTEPPED is index bit 0. -/
def execUnsteppedTakeover (s : State) : Host.Outcome State Fault Refusal :=
  .next (if s.sys.pairEn ∧ s.pair.placed ∧ !s.pair.activeOut ∧ !s.pair.partnerIn ∧ 1 ≤ s.pair.lowTicks ∧ s.pair.state ≠ 2 then
      let s' := advanceTo (s.pair.lowSince + msTicks 4) s
      if s'.pair.state = 4 ∨ recentlyInStep s' then s
      else raiseActive (silenceOutputs (report Src.pair K.pairTakeover 3 1 0 (toTick s')))
    else s)

end Sys2Proof.Machine
end

