-- ==== Sys2Proof/Machine/PeatCmds.lean ====
section
/-!
DEFINITION. The NVMe root port's events (R382 to R388, R392, R414), host read-out (R410 to R412) and the PEAT commands
(R415, R491): the meanings.
-/
namespace Sys2Proof.Machine
open Sys2Proof

/-! ### Completions (R386, R387, R397, R414) -/

/-- A partner violation of a controller (R414): logged when it starts, then at most once per second. -/
def violation (c kind sev : Nat) (s : State) : State := reportLimited (Src.nvme c) kind sev 0 0 s

/-- Free a tag. -/
def freeTag (tag : Nat) (s : State) : State := { s with peat := { s.peat with cmds := Tbl.erase s.peat.cmds tag } }

/-- A write of a segment is durable (R385, R397). -/
def segmentDurable (g k chain : Nat) (s : State) : State :=
  let x := writeOf s g
  let cp := x.copy k
  match Tbl.find cp.segs chain with
  | some sg => freeSegment g chain (putWrite g (x.setCopy k { cp with segs := Tbl.put cp.segs chain { sg with durable := true } }) s)
  | none => s

/-- A block has been fetched into the player cache (R407). -/
def blockFetched (clip block : Nat) (s : State) : State :=
  if !Tbl.has s.peat.clip clip ∨ (s.peat.cache.any fun b => decide (b.clip = clip) && decide (b.index = block)) then s
  else { s with peat := { s.peat with cache := s.peat.cache ++ [{ clip := clip, index := block, used := s.sys.frameNo }] } }

/-- A command completes without error: its tag goes to those that wait. -/
def commandDone (c : NvmeCmd) (bytes : List Byte) (s : State) : State :=
  match c.for_ with
  | .fetch clip block _ => blockFetched clip block s
  | .segment g k chain => segmentDurable g k chain s
  | .extent _ _ => s
  | .object kind id version => objectDone c kind id version bytes s
  | .label _ => s
  | .other _ _ => s

/-- A command completes with an error (R414): reads are tried once more, then on the other copy, and then given up; writes
are tried twice more at the same address, and then their namespace is lost. -/
def commandFails (tag : Nat) (c : NvmeCmd) (s : State) : State :=
  match c.opcode with
  | 1 =>
    let s := violation c.ctrl K.peatCmdError 2 s
    if c.retries < 2 then sendTag tag { c with retries := c.retries + 1 } s else loseController c.ctrl s
  | 2 =>
    let s := violation c.ctrl K.peatCmdError 1 s
    match c.for_ with
    | .fetch clip block copy =>
      if c.retries = 0 then sendTag tag { c with retries := 1 } s
      else if c.retries = 1 then fetchBlock clip block (1 - copy) c.order 2 (freeTag tag s)
      else freeTag tag s
    | .object kind id version =>
      if c.retries = 0 then sendTag tag { c with retries := 1 } s else objectFails c.index kind id version (freeTag tag s)
    | _ => freeTag tag s
  | _ => freeTag tag s

/-- A completion queue entry (R386). -/
def takeCompletion (e : Completion) (s : State) : State :=
  if e.badPhase then resetController e.ctrl (violation e.ctrl K.peatProtocol 2 s)
  else
    let tag := e.cid % 4096
    match Tbl.find s.peat.cmds tag with
    | none => violation e.ctrl K.peatProtocol 2 s
    | some c =>
      if c.ctrl ≠ e.ctrl ∨ c.gen ≠ e.cid / 4096 then violation e.ctrl K.peatProtocol 2 s
      else
        let s := match c.for_ with
          | .other slot seq => answer slot seq 0x0B12 0 (done [] (padTo 16 e.entry) e.bytes) (freeTag tag s)
          | _ => if e.status = 0 then commandDone c e.bytes (freeTag tag s) else commandFails tag c s
        finishWaits (finishStores (serveWaiting s))

/-- NVME_COMPLETION (R386). -/
def execNvmeCompletion (e : Completion) (s : State) : Host.Outcome State Fault Refusal := .next (takeCompletion e s)

/-- COMMAND_TIMEOUT (R388): Peat sends Abort, an admin command that names the command identifier. -/
def execCommandTimeout (tag : Nat) (s : State) : Host.Outcome State Fault Refusal :=
  .next (match Tbl.find s.peat.cmds tag with
    | none => s
    | some c =>
      if c.aborted.isSome ∨ !ctrlTakes s c.ctrl then s
      else
        let s := advanceTo (c.sentAt + msTicks s.peat.timeoutMs) s
        let s := report (Src.nvme c.ctrl) K.peatCmdTimeout 2 0 0 s
        { s with
          peat := { s.peat with cmds := Tbl.put s.peat.cmds tag { c with aborted := some s.clk.raw } }
          out := s.out ++ [.nvmeAdmin c.ctrl 8 (c.gen * 4096 + tag)] })

/-- ABORT_EXPIRY (R388): 1 s after Abort. -/
def execAbortExpiry (tag : Nat) (s : State) : Host.Outcome State Fault Refusal :=
  .next (match Tbl.find s.peat.cmds tag with
    | none => s
    | some c => match c.aborted with
      | none => s
      | some t => if (ctrlOf s c.ctrl).resetting then s else resetController c.ctrl (advanceTo (t + msTicks 1000) s))

/-- CONTROLLER_RESET_DONE (R384, R388): what was in flight is issued again at the same addresses. -/
def execControllerResetDone (ctrl : Nat) (ok : Bool) (s : State) : Host.Outcome State Fault Refusal :=
  .next (let c := ctrlOf s ctrl
    if !c.resetting then s
    else
      let s := putCtrl ctrl { c with resetting := false } s
      if ok then serveWaiting (reissueAll ctrl s) else loseController ctrl s)

/-- COMPLETION_POLL (R384, R414): every 1 ms. `found` are the entries on the queues, `fatal` the controllers with CSTS.CFS set. -/
def execCompletionPoll (found : List Completion) (fatal : List Nat) (s : State) : Host.Outcome State Fault Refusal :=
  .next (let s := found.foldl (fun s e => takeCompletion e s) s
    (fatal.filter fun c => ctrlTakes s c).foldl (fun s c => resetController c (violation c K.peatCmdError 3 s)) s)

/-- SMART_POLL (R384, R414): every 60 s. -/
def execSmartPoll (ctrl : Nat) (warning : Bool) (s : State) : Host.Outcome State Fault Refusal :=
  .next (if warning && decide ((ctrlOf s ctrl).state = 1) then violation ctrl K.peatCmdError 2 s else s)

/-- PEAT_LINK (R414): the controller's commands are held. -/
def execPeatLink (ctrl : Nat) (s : State) : Host.Outcome State Fault Refusal :=
  .next (let c := ctrlOf s ctrl
    if !c.linkUp then s
    else report (Src.nvme ctrl) K.peatLink 2 0 0 (putCtrl ctrl { c with linkUp := false, downAt := s.clk.raw } s))

/-- NAMESPACE_LOST (R392): its link has been down for more than 1 s, or its capacity, its namespace ID or its label has
changed. -/
def execNamespaceLost (ctrl : Nat) (changed : Bool) (s : State) : Host.Outcome State Fault Refusal :=
  .next (let c := ctrlOf s ctrl
    if c.state ≠ 1 then s
    else if changed then loseController ctrl s
    else if c.linkUp then s
    else loseController ctrl (advanceTo (c.downAt + msTicks 1000 + 1) s))

/-- ROOT_PORT_LINK_UP (R382): enumeration finds controllers; those beyond 64 are reported and not used. -/
def execRootPortLinkUp (found : List CtrlFound) (s : State) : Host.Outcome State Fault Refusal :=
  .next (serveWaiting (found.foldl (fun s f =>
    let c := ctrlOf s f.ctrl
    putCtrl f.ctrl { c with linkUp := decide (f.ctrl < 64), link := f.link } s) s))

/-- ROOT_PORT_INBOUND_REQUEST (R383, R414): a request outside the granted buffers is answered Unsupported Request. What a
granted one brings is told with its completion. -/
def execRootPortInboundRequest (ctrl : Nat) (granted : Bool) (s : State) : Host.Outcome State Fault Refusal :=
  .next (if granted then s else resetController ctrl (violation ctrl K.peatProtocol 3 s))

/-! ### Identification (R385, R391, R392, R404, R405) -/

/-- Whole extents of a capacity in bytes (R389): the label area takes 1 MiB. -/
def wholeExtents (bytes : Nat) : Nat := (bytes - 1048576) / 1073741824

/-- What R385 asks of a controller. -/
def supported (t : Identify) : Bool :=
  decide (0x10400 ≤ t.version) && t.nvm && decide (63 ≤ t.mqes) && t.sgl && (decide (t.dataSize = 512) || decide (t.dataSize = 4096)) &&
  decide (t.metaSize = 0) && (decide (t.mdtsKiB = 0) || decide (64 ≤ t.mdtsKiB)) && decide (2148532224 ≤ t.blocks * t.dataSize)

/-- Magic and CRC of an object header (R405). -/
def objectOk (o : FoundObject) : Bool :=
  decide (o.header.length = 64) && decide (o.header.take 4 = [0x50, 0x4F, 0x42, 0x4A]) &&
  decide (fromLE (o.header.drop 60) = crc32c (o.header.take 60)) && decide (fromLE ((o.header.drop 12).take 8) = o.body.length) &&
  decide (fromLE ((o.header.drop 20).take 4) = crc32c o.body)

/-- Enter an object that an extent of the system group holds (R134, R405). -/
def enterObject (o : FoundObject) (s : State) : State :=
  let g := fun at_ n => fromLE ((o.header.drop at_).take n)
  let kind := g 4 1
  let id := g 6 2
  let v := g 8 4
  let newer := !(s.peat.objects.any fun e => decide (e.2.1 = kind) && decide (e.2.2.1 = id) && decide (v < e.2.2.2))
  if !objectOk o ∨ !newer then s
  else
    let s := freeVersions kind id (· != v) s
    let s := { s with peat := { s.peat with objects := Tbl.put s.peat.objects o.index (kind, id, v) } }
    if kind = 1 then
      let old : Clip := Tbl.getD s.peat.clip id { rate := 0, samples := 0, version := 0, crc := 0 }
      let new : Clip := { old with rate := g 5 1, samples := o.body.length / 3, version := v, crc := crc32c o.body, body := o.body }
      if v ≤ old.version then s else { s with peat := { s.peat with clip := Tbl.put s.peat.clip id new } }
    else
      let old : SceneEntry := Tbl.getD s.scene.dir id {}
      let new : SceneEntry := { old with name := (o.body.drop 16).take 32, version := v, crc := crc32c o.body, body := o.body }
      if v ≤ old.version then s else { s with scene := { s.scene with dir := Tbl.put s.scene.dir id new } }

/-- What a copy of the system group that came back lacks is written into it (R397). -/
def fillObjects (k : Nat) (s : State) : State :=
  let have_ := fun kind id v => s.peat.objects.any fun o => decide (o.2 = (kind, id, v)) && ownsExtent s 0 k o.1
  let s := s.peat.clip.foldl (fun s c => if have_ 1 c.1 c.2.version then s else writeObject 1 c.2.rate c.1 c.2.version c.2.body k s) s
  let s := s.scene.dir.foldl (fun s e => if e.2.persistent || have_ 2 e.1 e.2.version then s else writeObject 2 0 e.1 e.2.version e.2.body k s) s
  s.peat.storing.foldl (fun s x =>
    if have_ x.kind x.id x.version then s else writeObject x.kind (if x.kind = 1 then x.tag else 0) x.id x.version x.body k s) s

/-- A namespace is put to use: a group that this engine knows of takes its copy back, another is recovered (R392, R404). -/
def useNamespace (i : Nat) (n : Namespace) (found : List FoundExtent) (objects : List FoundObject) (s : State) : State :=
  let known := Tbl.find s.peat.ns i
  let copyKnown := !(nsOfCopy s n.group n.copy).isEmpty
  let n := match known with | some o => { n with holds := o.holds, anchorSeq := o.anchorSeq, anchorHash := o.anchorHash } | none => n
  let s := { s with peat := { s.peat with ns := Tbl.put s.peat.ns i n, storeId := n.storeId } }
  if n.group = 0 then
    let s := { s with peat := { s.peat with objects := Tbl.keep (fun e _ => !(decide (n.base ≤ e) && decide (e < n.base + n.extents))) s.peat.objects } }
    let s := objects.foldl (fun s o => enterObject o s) s
    if known.isSome then fillObjects n.copy s else s
  else
    let x := writeOf s n.group
    let s := putWrite n.group { x with segCode := n.segCode, mirrored := x.mirrored || decide (n.copy = 1) } s
    match known with
    | some _ =>
      let back := (nsOfCopy s n.group n.copy).all fun e => !e.2.lost
      let s := writeLabel i n s
      if back && ((writeOf s n.group).copy n.copy).lost then catchUp n.group n.copy s else s
    | none => if copyKnown then s else recoverCopy n.group n.copy found s

/-- NAMESPACE_IDENTIFIED (R385): what Identify told, the label copies as they read back, what the extents of the copy hold,
and the objects of an extent of the system group. -/
def execNamespaceIdentified (ctrl : Nat) (told : Identify) (labelA labelB : List Byte) (extents : List FoundExtent)
    (objects : List FoundObject) (s : State) : Host.Outcome State Fault Refusal :=
  .next (let c := ctrlOf s ctrl
    if 64 ≤ ctrl ∨ !c.linkUp then s
    else if !supported told then
      violation ctrl K.peatProtocol 2 (putCtrl ctrl { c with state := 2 } s)
    else if c.state = 1 ∧ (c.capacity ≠ told.blocks * told.dataSize ∨ c.nsId ≠ told.nsid) then loseController ctrl s
    else
      let s := putCtrl ctrl { c with
        state := 1, queues := min s.peat.queues (max 1 told.queues), depth := min s.peat.depth (told.mqes + 1)
        dealloc := told.dealloc, capacity := told.blocks * told.dataSize, nsId := told.nsid, resetting := false } s
      let mine := s.peat.ns.find? fun e => decide (e.2.ctrl = ctrl)
      let s := match bestLabel labelA labelB, mine with
        | none, some _ => loseController ctrl s
        | none, none => s
        | some (i, n), _ =>
          match Tbl.find s.peat.ns i with
          | some o => if o.lost then useNamespace i { n with ctrl := ctrl } extents objects s else s
          | none => if i < 64 ∧ mine.isNone then useNamespace i { n with ctrl := ctrl } extents objects s else s
      followPeat (serveWaiting s))

/-- CURSOR_IDLE_EXPIRY (R412). -/
def execCursorIdleExpiry (cursor : Nat) (s : State) : Host.Outcome State Fault Refusal :=
  .next (match Tbl.find s.peat.cursor cursor with
    | some c =>
      if c.expired ≠ 0 then s
      else
        let s := advanceTo (c.readAt + msTicks (s.peat.idleS * 1000)) s
        { s with peat := { s.peat with cursor := Tbl.put s.peat.cursor cursor { c with expired := 1 } } }
    | none => s)

/-! ### Status, namespaces, tracks (R415) -/

/-- Extents of a namespace that hold nothing. -/
def extentsFree (s : State) (n : Namespace) : Nat :=
  let in_ := fun i => decide (n.base ≤ i) && decide (i < n.base + n.extents)
  let used := if n.group = 0 then (s.peat.objects.filter fun o => in_ o.1).length
    else (((writeOf s n.group).copy n.copy).extents.filter fun e => in_ e.index).length
  n.extents - used

/-- The record of a controller's namespace in PEAT.STATUS (R491). -/
def nsRecord (s : State) (c : Nat) : List Byte :=
  let x := ctrlOf s c
  match s.peat.ns.find? fun e => decide (e.2.ctrl = c) with
  | some (_, n) => u8 x.state ++ u8 n.group ++ u8 n.copy ++ u8 x.link ++ u32 n.base ++ u32 n.extents ++ u32 (extentsFree s n)
  | none => u8 x.state ++ u8 0 ++ u8 0 ++ u8 x.link ++ u32 0 ++ u32 0 ++ u32 0

/-- Staging time of an assigned track in ms (R394). -/
def stagingMs (s : State) : Nat := if s.peat.shares = 0 then 0 else shareSamples s * 1000 / (fsNow s).toNat

/-- PEAT.STATUS (R415, R491). -/
def execPeatStatus (r : Req) (s : State) : Host.Outcome State Fault Refusal :=
  serve { code := 0x0B01 } r (fun _ s =>
    let head := u8 s.peat.ctrl.length ++ u8 s.peat.ns.length ++ u16 s.peat.cmds.length ++ u32 s.peat.gaps ++
      u32 ((cacheBlocks s - s.peat.cache.length) * 64)
    let tracks := (List.range 2048).flatMap fun n => match Tbl.find s.peat.track n with
      | some t => u8 t.group ++ u8 (Fx.b2n t.armed) ++ u16 0 ++ u32 (stagingMs s)
      | none => u8 0 ++ u8 0 ++ u16 0 ++ u32 0
    (s, done [] head ((List.range 64).flatMap (nsRecord s) ++ tracks))) s

/-- Two ranges of extents meet. -/
def rangesMeet (a n b m : Nat) : Bool := decide (a < b + m) && decide (b < a + n)

/-- Why PEAT.FORMAT is refused (R389, R390, R413). -/
def formatRefusal (ctrl group copy code base : Nat) (reformat : Bool) (s : State) : Option Reply :=
  let c := ctrlOf s ctrl
  let mine := s.peat.ns.find? fun e => decide (e.2.ctrl = ctrl)
  let others := s.peat.ns.filter fun e => decide (e.2.ctrl ≠ ctrl)
  let n := min (wholeExtents c.capacity) (4194304 - base)
  if c.state ≠ 1 ∨ 15 < group ∨ 1 < copy ∨ 4194303 < base then some (refuse St.noResource)
  else if 1 < code then some (refuse St.conflict)
  else if mine.isSome && !reformat then some (refuse St.conflict)
  else if mine.isSome && !inMaint s then some (refuse St.denied)
  else if mine.any fun e => e.2.holds.any fun h => rangesMeet e.2.base e.2.extents h.1 (h.2.1 + 1 - h.1) then some (refuse St.conflict)
  else if others.any fun e => rangesMeet base n e.2.base e.2.extents || (decide (e.2.group = group) && decide (e.2.segCode ≠ code)) then
    some (refuse St.conflict)
  else if 32 ≤ (others.filter fun e => decide (e.2.group = group) && decide (e.2.copy = copy)).length ∨ 64 ≤ others.length then
    some (refuse St.noResource)
  else none

/-- The group that a namespace joins: afresh when it is its first; a copy that comes to a group with a record copies that
record (R390, R397). -/
def joinGroup (group copy code : Nat) (s : State) : State :=
  let alone := !(s.peat.ns.any fun e => decide (e.2.group = group))
  let firstOfCopy := (nsOfCopy s group copy).isEmpty
  if group = 0 then s
  else if alone then putWrite group { segCode := code, mirrored := decide (copy = 1) } s
  else if firstOfCopy then
    let x := writeOf s group
    let x := { x with mirrored := x.mirrored || decide (copy = 1) }
    putWrite group (x.setCopy copy { lost := true, catchUp := ((x.copy (1 - copy)).segs.map (·.1)) }) s
  else s

/-- A namespace leaves the group that it was labelled into. -/
def leaveGroup (ctrl : Nat) (s : State) : State :=
  match s.peat.ns.find? fun e => decide (e.2.ctrl = ctrl) with
  | none => s
  | some (i, n) =>
    let in_ := fun e => decide (n.base ≤ e) && decide (e < n.base + n.extents)
    let x := writeOf s n.group
    let cp := x.copy n.copy
    let cp := { cp with extents := cp.extents.filter fun e => !in_ e.index, segs := Tbl.keep (fun _ (g : Seg) => !in_ (g.addr / 1073741824)) cp.segs }
    let p := { s.peat with ns := Tbl.erase s.peat.ns i, objects := Tbl.keep (fun e _ => !in_ e) s.peat.objects }
    if n.group = 0 then { s with peat := p } else putWrite n.group (x.setCopy n.copy cp) { s with peat := p }

/-- PEAT.FORMAT (R389 to R391, R413): answered when the label is written. Extents beyond index 4,194,303 stay unused. -/
def execPeatFormat (r : Req) (ctrl group copy code base flags : Nat) (s : State) : Host.Outcome State Fault Refusal :=
  serve { code := 0x0B02, reach := .here, needs := some Fn.peat } r (withFlags 1 flags fun r s =>
    match formatRefusal ctrl group copy code base (Fx.bit flags 0) s with
    | some e => (s, e)
    | none =>
      let s := joinGroup group copy code (leaveGroup ctrl s)
      let (id, s) := if s.peat.storeId = 0 ∧ s.peat.ns = [] then drawFree 64 s else (s.peat.storeId, s)
      let i := ((List.range 64).find? fun i => !Tbl.has s.peat.ns i).getD 0
      let n : Namespace := {
        ctrl := ctrl, group := group, copy := copy, segCode := code, base := base, storeId := id, generation := 0
        extents := min (wholeExtents (ctrlOf s ctrl).capacity) (4194304 - base), holds := holdsOf s group }
      let s := writeLabel i n { s with peat := { s.peat with storeId := id } }
      let s := if group = 0 then fillObjects copy s
        else if ((writeOf s group).copy copy).lost then catchUp group copy s else drainGroup group s
      let w : PeatWait := { slot := r.slot, seq := r.seq, code := 0x0B02, group := group, started := true, ns := [i], data := u32 n.extents }
      ({ s with peat := { s.peat with waits := s.peat.waits ++ [w] } }, { later := true })) s

/-- Some track's share would fall below two segment payloads (R394). `groups` are those of the assigned tracks. -/
def sharesShort (s : State) (groups : List Nat) : Bool :=
  groups.any fun g => decide (shareOf s groups.length < 2 * segSamples (writeOf s g).segCode)

/-- The groups of the assigned tracks after PEAT.TRACK. -/
def groupsAfter (s : State) (first count group : Nat) : List Nat :=
  let rest := (s.peat.track.filter fun e => !(decide (first ≤ e.1) && decide (e.1 < first + count))).map (·.2.group)
  if group = 0 then rest else rest ++ List.replicate count group

/-- Players and recorder tracks are not offered at 176.4 and 192 kHz (R4, R5). -/
def offersPeat (s : State) : Bool := decide (fam s ≠ 2)

/-- PEAT.TRACK (R393, R394): the assignment is this engine's own and stands at once; arming goes to its boundary. -/
def execPeatTrack (r : Req) (first count group arming : Nat) (s : State) : Host.Outcome State Fault Refusal :=
  serve { code := 0x0B03, reach := if arming = 2 then .here else .shared, needs := some Fn.peat } r (fun r s =>
    if !offersPeat s then (s, refuse St.noResource)
    else if 2048 < first + count ∨ 15 < group ∨ (group ≠ 0 ∧ !(s.peat.ns.any fun e => decide (e.2.group = group))) then (s, refuse St.noResource)
    else if 2 < arming ∨ (group = 0 ∧ arming = 1) then (s, refuse St.conflict)
    else if sharesShort s (groupsAfter s first count group) then (s, refuse St.noResource)
    else
      let s := applyTracks first count group 2 s
      if arming = 2 then (s, done [] (fnB (commitFrame s)))
      else changeAt r 0x0B03 [.tracks first count 16 arming] [] [] s) s

/-- PEAT.RETENTION (R401). -/
def execPeatRetention (r : Req) (op days : Nat) (s : State) : Host.Outcome State Fault Refusal :=
  serve { code := 0x0B04, reach := if op = 1 then .here else .read, needs := if op = 1 then some Fn.peat else none } r
    (readOrSet op (fun s =>
      let (v, cl) := clampField 1 0 0 3650 days
      ((List.range 16).foldl (fun s g => drainGroup g s) { s with peat := { s.peat with retention := v.toNat } }, cl))
      (fun s => u16 s.peat.retention)) s

/-- Put a request among those that wait for the labels of a group. -/
def holdWait (r : Req) (g : Nat) (s : State) : State :=
  let w : PeatWait := { slot := r.slot, seq := r.seq, code := 0x0B05, group := g }
  { s with peat := { s.peat with waits := s.peat.waits ++ [w] } }

/-- PEAT.HOLD by time (R403): forwarded, so both stores hold the same period. -/
def holdByTime (r : Req) (g start stop : Nat) (s : State) : State × Reply :=
  if stop < start then (s, refuse St.conflict)
  else if 256 ≤ (holdsOf s g).length ∧ (extentsAt s g start stop).isSome then (s, refuse St.noResource)
  else
    let cs : List Change := [.holdTime g start stop]
    let s := holdWait r g s
    if forwards s then (forward r { changes := cs } [] cs none s, { later := true })
    else (applyChanges cs s, { later := true })

/-- PEAT.HOLD (R403): 0 list, 1 by extents, 2 by time, 3 clear in the maintenance state. It answers once every label is
written. -/
def execPeatHold (r : Req) (op group first last : Nat) (start stop : NetTime) (s : State) : Host.Outcome State Fault Refusal :=
  serve { code := 0x0B05, reach := if op = 0 then .read else if op = 2 then .shared else .here, maint := decide (op = 3)
          needs := some Fn.peat } r (fun r s =>
    if !(s.peat.ns.any fun e => decide (e.2.group = group)) then (s, refuse St.noResource)
    else match op with
      | 0 => (s, holdReport (holdsOf s group))
      | 1 =>
        if last < first then (s, refuse St.conflict)
        else if 4194303 < last ∨ 256 ≤ (holdsOf s group).length then (s, refuse St.noResource)
        else (placeHold group first last (holdWait r group s), { later := true })
      | 2 => withTime start (fun a => withTime stop fun b r s => match a, b with
          | some a, some b => holdByTime r group a b s
          | _, _ => badRequest s) r s
      | 3 =>
        if (holdsOf s group).any fun h => decide (h.1 = first) && decide (h.2.1 = last) then
          (clearHold group first last (holdWait r group s), { later := true })
        else (s, refuse St.conflict)
      | _ => (s, refuse St.conflict)) s

/-- Latest chain sequence of a copy. -/
def copyHead (s : State) (g k : Nat) : Nat :=
  match ((writeOf s g).copy k).segs.getLast? with
  | some e => e.1
  | none => match (nsOfCopy s g k).head? with | some n => n.2.anchorSeq | none => 0

/-- PEAT.CHAIN_HEAD (R400): each copy that the group has. -/
def execPeatChainHead (r : Req) (group : Nat) (s : State) : Host.Outcome State Fault Refusal :=
  serve { code := 0x0B06, needs := some Fn.peat } r (fun _ s =>
    let x := writeOf s group
    (s, done [] (([0, 1].filter fun k => !(nsOfCopy s group k).isEmpty).flatMap fun k =>
      u64 (copyHead s group k) ++ padTo 32 (x.copy k).hash))) s

/-! ### Host read-out (R410 to R412) -/

/-- Cursors that are alive. -/
def cursorAlive (s : State) (n : Nat) : Bool := match Tbl.find s.peat.cursor n with | some c => decide (c.expired = 0) | none => false

/-- Open a cursor at a first chain sequence. -/
def openCursor (group copy : Nat) (tracks : Option Nat) (token : Nat) (s : State) : State × Reply :=
  match (List.range 16).find? fun n => !cursorAlive s n with
  | none => (s, refuse St.noResource)
  | some n =>
    let c : Cursor := { group := group, copy := copy, tracks := tracks, token := token, readAt := s.clk.raw }
    ({ s with peat := { s.peat with cursor := Tbl.put s.peat.cursor n c } }, done [] (u8 n ++ u64 token))

/-- PEAT.CURSOR_OPEN (R410). -/
def execPeatCursorOpen (r : Req) (group copy kind : Nat) (at_ : NetTime) (num flags tracks : Nat) (s : State) :
    Host.Outcome State Fault Refusal :=
  serve { code := 0x0B07, reach := .here, needs := some Fn.peat } r (withFlags 1 flags fun r s =>
    let go := fun (time : Nat) (s : State) =>
      match cursorStart (writeOf s group) copy kind time num with
      | some tok => openCursor group copy (if Fx.bit flags 0 then none else some tracks) tok s
      | none => (s, refuse St.noResource)
    if group = 0 ∨ (nsOfCopy s group copy).isEmpty then (s, refuse St.noResource)
    else if 2 < kind then (s, refuse St.conflict)
    else if kind = 0 then withTime at_ (fun t _ s => match t with | some t => go t s | none => badRequest s) r s
    else go 0 s) s

/-- What a read finds broken in the record (R404): each segment returned with a broken chain. -/
def readLogs (faults : List ReadFault) (first next : Nat) (s : State) : State :=
  (faults.filter fun f => decide (f.result = 2) && decide (first ≤ f.chain) && decide (f.chain < next)).foldl
    (fun s _ => report Src.peat K.peatChain 3 0 0 s) s

/-- A page of a cursor that begins at a token (R411): read again it ends where it ended before. -/
def cursorPage (n : Nat) (c : Cursor) (token : Nat) (faults : List ReadFault) (s : State) : State × Reply :=
  let x := writeOf s c.group
  if x.a.lost && (!x.mirrored || x.b.lost) then (s, refuse St.faulted)
  else
    let again := decide (c.prev = some token)
    let x := if again then { x with chainSeq := c.token - 1 } else x
    let (bs, count, next) := readPage (faults.map fun f => (f.chain, f.copy, f.result)) x c token
    let next := if again then c.token else next
    let c := { c with prev := some token, token := next, readAt := s.clk.raw }
    let s := readLogs faults token next { s with peat := { s.peat with cursor := Tbl.put s.peat.cursor n c } }
    (s, done [] (u64 next ++ u32 bs.length ++ u16 count) bs)

/-- PEAT.READ (R411): `faults` are the segments that the device returns wrong (log entry 12). An expired cursor tells its
reason in a code that the manual does not give. -/
def execPeatRead (r : Req) (cursor token : Nat) (faults : List ReadFault) (s : State) : Host.Outcome State Fault Refusal :=
  serve { code := 0x0B08 } r (fun _ s =>
    match Tbl.find s.peat.cursor cursor with
    | none => (s, refuse St.expired)
    | some c =>
      if c.expired ≠ 0 then (s, refuse St.expired (Config.expiredReason c.expired % 2 ^ 32))
      else if token = c.token ∨ c.prev = some token then cursorPage cursor c token faults s
      else (s, refuse St.expired)) s

/-- PEAT.CURSOR_CLOSE (R415): of no cursor it does nothing. -/
def execPeatCursorClose (r : Req) (cursor : Nat) (s : State) : Host.Outcome State Fault Refusal :=
  serve { code := 0x0B09, reach := .here, needs := some Fn.peat } r (fun _ s =>
    ({ s with peat := { s.peat with cursor := Tbl.erase s.peat.cursor cursor } }, done [] [])) s

/-! ### Clips and voices (R405 to R409) -/

/-- A voice plays, has armed or has queued a clip, or is to. -/
def clipInUse (s : State) (id : Nat) : Bool :=
  (s.peat.voice.any fun e => (e.2.queue.any fun q => decide (q.1 = id)) || (e.2.after.any fun q => decide (q.1 = id)) ||
    (match e.2.next with | some (c, _, _) => decide (c = id) | none => false)) ||
  s.commit.sets.any fun c => c.changes.any fun x => match x with
    | .play _ k _ _ _ _ => decide (k = id)
    | .voiceQueue _ k _ => decide (k = id)
    | _ => false

/-- PEAT.CLIP_STORE (R405, R476). -/
def execPeatClipStore (r : Req) (total clip rate : Nat) (s : State) : Host.Outcome State Fault Refusal :=
  serve { code := 0x0B0A, reach := .shared, needs := some Fn.peat } r (fun r s =>
    if clip = 0 ∨ 1073741760 < total then (s, refuse St.noResource)
    else if 5 < rate then (s, refuse St.conflict)
    else openObject r (.clip clip rate) total s) s

/-- The COMMIT of a clip (R405): whole samples, a version beside the one before. -/
def commitClip (r : Req) (code clip rate : Nat) (bs : List Byte) (s : State) : State × Reply :=
  if bs.length = 0 ∨ bs.length % 3 ≠ 0 then (s, refuse St.badLen)
  else if !isReady s Fn.peat then (s, refuse St.notReady (reason 0x09 Fn.peat))
  else if clipInUse s clip ∨ (Tbl.getD s.peat.clip clip { rate := 0, samples := 0, version := 0, crc := 0 }).pinned then (s, refuse St.conflict)
  else if (systemCopies s).isEmpty then (s, refuse St.faulted)
  else if !objectRoom s then (s, refuse St.noResource)
  else changeNow r code [.clipStore clip rate bs] []
    (fun s => u32 (storedVersion s 1 clip)) s

/-- PEAT.CLIP_DELETE (R415): refused for a clip that is absent, pinned or in use. -/
def execPeatClipDelete (r : Req) (clip : Nat) (s : State) : Host.Outcome State Fault Refusal :=
  serve { code := 0x0B0B, reach := .shared, needs := some Fn.peat } r (fun r s =>
    match Tbl.find s.peat.clip clip with
    | none => (s, refuse St.conflict)
    | some c =>
      if c.pinned ∨ clipInUse s clip then (s, refuse St.conflict)
      else changeNow r 0x0B0B [.clipDrop clip] [] (fun _ => []) s) s

/-- PEAT.CLIP_LIST (R415, R491). -/
def execPeatClipList (r : Req) (first : Nat) (s : State) : Host.Outcome State Fault Refusal :=
  serve { code := 0x0B0C, needs := some Fn.peat } r (fun _ s =>
    let cs := s.peat.clip.filter fun e => decide (first ≤ e.1)
    (s, done [] (u16 cs.length) (cs.flatMap fun e =>
      u16 e.1 ++ u8 e.2.rate ++ u8 (Fx.b2n e.2.pinned) ++ u32 e.2.samples ++ u32 e.2.version ++ u32 e.2.crc))) s

/-- Pinned clips stay within 24 MiB and leave 4 MiB of the cache (R409). -/
def pinFits (s : State) (c : Clip) : Bool :=
  let pinned := s.peat.clip.filter fun e => e.2.pinned
  let bytes := (pinned.map fun e => e.2.samples * 3).foldl (· + ·) (c.samples * 3)
  decide (bytes ≤ 25165824) && decide (64 + clipBlocks c ≤ cacheBlocks s)

/-- PEAT.PIN (R409). -/
def execPeatPin (r : Req) (clip op : Nat) (s : State) : Host.Outcome State Fault Refusal :=
  serve { code := 0x0B0D, reach := .here, needs := some Fn.peat } r (fun _ s =>
    match Tbl.find s.peat.clip clip with
    | none => (s, refuse St.noResource)
    | some c =>
      let put := fun (p : Bool) =>
        { s with peat := { s.peat with clip := Tbl.put s.peat.clip clip { c with pinned := p }
                                       cache := s.peat.cache.filter fun b => b.clip != clip } }
      match op with
      | 0 => (put false, done [] [])
      | 1 => if c.pinned ∨ pinFits s c then (put true, done [] []) else (s, refuse St.noResource)
      | _ => (s, refuse St.conflict)) s

/-- A start of a voice stands among the commits that wait. -/
def playPending (s : State) (n : Nat) : Bool :=
  s.commit.sets.any fun c => c.changes.any fun x => match x with | .play v _ _ _ _ _ => decide (v = n) | _ => false

/-- The first capture-frame position that a start can reach which commits at a frame (R60, R406). -/
def firstReach (s : State) (f : Nat) : Nat :=
  gridMediaCount s (s.clk.boundaryJ + (f - s.sys.frameNo) * s.sys.b) - (if s.sys.pairEn then 2 else 1) * s.sys.b

/-- A start that comes late (R142, R406): LATE with its lateness at the commit's frame. -/
def playLate (r : Req) (c : Change) (ns : Nat) (s : State) : State × Reply :=
  let set : CommitSet := { changes := [c] }
  if forwards s then
    let a : Answer := { code := 0x0B0E, slot := r.slot, seq := r.seq, status := St.late, detail := min ns (2 ^ 32 - 1) }
    (forward r { set with answer := some a } [] [c] none s, { later := true })
  else
    let f := commitFrame s
    ({ s with commit := { s.commit with sets := s.commit.sets ++ [{ set with due := some f }] } },
     { status := St.late, detail := min ns (2 ^ 32 - 1), data := fnB f })

/-- A start at a time that is still ahead: ACCEPTED; COMMAND_DONE tells when the voice has started (R456). -/
def playAccepted (r : Req) (n : Nat) (c : Change) (s : State) : State × Reply :=
  let s := dropStart n s
  let s := { s with peat := { s.peat with playFor := Tbl.put s.peat.playFor n (r.slot, r.seq) } }
  let rep : Reply := { status := St.accepted, data := fnB 0 }
  if forwards s then (forward r { changes := [c] } [] [c] none s, rep)
  else ({ s with commit := { s.commit with sets := s.commit.sets ++ [{ changes := [c], due := some (commitFrame s) }] } }, rep)

/-- PEAT.PLAY (R406, R407, R409). -/
def playVoice (r : Req) (n clip flags : Nat) (time : Option Nat) (level : Int) (s : State) : State × Reply :=
  match Tbl.find s.peat.clip clip with
  | none => (s, refuse St.noResource)
  | some c =>
    if !offersPeat s then (s, refuse St.noResource) else
    let always := Fx.bit flags 0
    let replace := Fx.bit flags 1
    let change : Change := .play n clip time always replace (dbToGain level)
    if !c.pinned && !isReady s Fn.peat then (s, refuse St.notReady (reason 0x09 Fn.peat))
    else if c.rate ≠ s.sys.rate then (s, refuse St.conflict)
    else if !replace && (decide ((voiceOf s n).state ≠ 0) || playPending s n) then (s, refuse St.conflict)
    else if !cacheFits s clip then (s, refuse St.noResource)
    else match time with
      | none => changeAt r 0x0B0E [change] [] [] (dropStart n s)
      | some t =>
        let want := Fx.ceilDiv (t * (fsNow s).toNat) 1000000000
        let reach := firstReach s (commitFrame s)
        if reach ≤ want then playAccepted r n change s
        else
          let ns := (reach - want) * 1000000000 / (fsNow s).toNat
          if always || decide (ns ≤ s.scene.lateMs * 1000000) then playLate r change ns (dropStart n s) else (s, refuse St.expired)

def execPeatPlay (r : Req) (voice clip flags : Nat) (at_ : NetTime) (gain : Int) (s : State) : Host.Outcome State Fault Refusal :=
  serve { code := 0x0B0E, reach := .shared, needs := some Fn.router } r
    (withFlags 2 flags (withTime at_ fun t r s => playVoice r (voice % 256) clip flags t gain s)) s

/-- The clips of a voice in order, those behind an armed replacement in their place, and the samples that the last one has
still to run. -/
def lastClip (s : State) (v : Voice) : Option (Nat × Nat) :=
  let q := match v.next with | some (c, _, _) => (c, 0) :: v.after | none => v.queue
  match q.getLast? with
  | none => none
  | some (c, _) =>
    let begun := decide (q.length = 1) && v.next.isNone
    some (clipLen s c, clipLen s c - (if begun then v.pos else 0))

/-- PEAT.QUEUE (R406). -/
def execPeatQueue (r : Req) (voice clip len : Nat) (s : State) : Host.Outcome State Fault Refusal :=
  serve { code := 0x0B0F, reach := .shared, needs := some Fn.router } r (fun r s =>
    let v := voiceOf s (voice % 256)
    let queued := if v.next.isSome then 1 + v.after.length else v.queue.length
    match Tbl.find s.peat.clip clip, lastClip s v with
    | some c, some (whole, left) =>
      if !offersPeat s then (s, refuse St.noResource) else
      let (l, cl) := clampField 3 0 0 (min 256 (min whole c.samples) : Nat) len
      if v.state = 0 ∨ v.stop.isSome ∨ 8 ≤ queued ∨ c.rate ≠ s.sys.rate ∨ left < l.toNat + s.sys.b then (s, refuse St.conflict)
      else if !c.pinned && !isReady s Fn.peat then (s, refuse St.notReady (reason 0x09 Fn.peat))
      else changeNow r 0x0B0F [.voiceQueue (voice % 256) clip l.toNat] cl (fun _ => []) s
    | _, _ => (s, refuse St.conflict)) s

/-- PEAT.STOP (R406). -/
def execPeatStop (r : Req) (voice : Nat) (s : State) : Host.Outcome State Fault Refusal :=
  serve { code := 0x0B10, reach := .shared, needs := some Fn.router } r (fun r s =>
    changeAt r 0x0B10 [.voiceStop (voice % 256)] [] [] s) s

/-! ### Queues and pass-through (R386, R388, R413) -/

/-- PEAT.QUEUES (R388): queues and depth are asked for when a controller is next identified. -/
def execPeatQueues (r : Req) (op queues depth timeout : Nat) (s : State) : Host.Outcome State Fault Refusal :=
  serve { code := 0x0B11, expert := true, reach := if op = 1 then .here else .read, needs := if op = 1 then some Fn.peat else none } r
    (readOrSet op (fun s =>
      let (q, c1) := clampField 1 0 1 4 queues
      let (d, c2) := clampField 2 0 2 256 depth
      let (t, c3) := clampField 4 0 500 30000 timeout
      ({ s with peat := { s.peat with queues := q.toNat, depth := d.toNat, timeoutMs := t.toNat } }, c1 ++ c2 ++ c3))
      (fun s => u8 s.peat.queues ++ u16 s.peat.depth ++ u32 s.peat.timeoutMs)) s

/-- An I/O command that writes: Write, Write Uncorrectable, Write Zeroes. -/
def writesMedia (opcode : Nat) : Bool := [1, 4, 8].contains opcode

/-- PEAT.PASSTHROUGH (R413): the submission entry and the data that go with it; answered with the completion entry. -/
def execPeatPassthrough (r : Req) (ctrl queue : Nat) (entry payload : List Byte) (s : State) : Host.Outcome State Fault Refusal :=
  serve { code := 0x0B12, expert := true, maint := true, reach := .here, needs := some Fn.peat } r (fun r s =>
    let opcode := match entry.head? with | some b => b.toNat | none => 0
    let stored := s.peat.ns.any fun e => decide (e.2.ctrl = ctrl) && !e.2.lost
    if 1 < queue then (s, refuse St.conflict)
    else if (ctrlOf s ctrl).state ≠ 1 then (s, refuse St.notReady (reason 0x09 Fn.peat))
    else if queue = 1 ∧ writesMedia opcode ∧ stored then (s, refuse St.conflict)
    else (issueCmd { cls := 2, ctrl := ctrl, opcode := opcode, addr := queue, len := payload.length, bytes := entry ++ payload
                     for_ := .other r.slot r.seq } s, { later := true })) s

end Sys2Proof.Machine
end

