-- ==== Sys2Proof/Machine/Ecdsa.lean ====
section
/-!
DEFINITION. ECDSA over the curve P-384 with SHA-384 (FIPS 186), which the checks of a firmware image use (R525, R526; log
entry 14).
-/
namespace Sys2Proof.Machine
open Sys2Proof

/-- The field's prime, the group's order, and the curve's coefficients: a = p − 3, and b. -/
def p384Prime : Nat := 2 ^ 384 - 2 ^ 128 - 2 ^ 96 + 2 ^ 32 - 1
def p384Order : Nat :=
  0xFFFFFFFFFFFFFFFFFFFFFFFFFFFFFFFFFFFFFFFFFFFFFFFFC7634D81F4372DDF581A0DB248B0A77AECEC196ACCC52973
def p384B : Nat :=
  0xB3312FA7E23EE7E4988E056BE3F82D19181D9C6EFE8141120314088F5013875AC656398D8A2ED19D2A85C8EDD3EC2AEF

/-- A point in Jacobian coordinates: x = X / Z², y = Y / Z³, the point at infinity with Z = 0. -/
structure CurvePoint where
  x : Nat
  y : Nat
  z : Nat
  deriving DecidableEq, Repr

/-- The base point. -/
def p384Base : CurvePoint := {
  x := 0xAA87CA22BE8B05378EB1C71EF320AD746E1D3B628BA79B9859F741E082542A385502F25DBF55296C3A545E3872760AB7
  y := 0x3617DE4A96262C6F5D9E98BF9292DC29F8F41DBD289A147CE9DA3113B5F0B8C00A60B1CE1D7E819D7A431D7C90EA0E5F
  z := 1 }

/-- x − y in the field. -/
def subMod (x y : Nat) : Nat := (x + (p384Prime - y % p384Prime)) % p384Prime
def mulMod (x y : Nat) : Nat := x * y % p384Prime

/-- b to the power e modulo m, over the lowest n bits of e, into the factor a. -/
def powMod (m : Nat) : Nat → Nat → Nat → Nat → Nat
  | 0, _, _, a => a
  | n + 1, b, e, a => powMod m n (b * b % m) (e / 2) (if e % 2 = 1 then a * b % m else a)

/-- Inverse modulo a prime of 384 bits. -/
def invMod (m x : Nat) : Nat := powMod m 384 (x % m) (m - 2) 1

/-- Twice a point. -/
def doublePoint (p : CurvePoint) : CurvePoint :=
  let d := mulMod p.z p.z
  let g := mulMod p.y p.y
  let b := mulMod p.x g
  let a := mulMod 3 (mulMod (subMod p.x d) (p.x + d))
  let x := subMod (a * a) (8 * b)
  { x := x, y := subMod (a * subMod (4 * b) x) (8 * (g * g)), z := mulMod 2 (mulMod p.y p.z) }

/-- The sum of two points. -/
def addPoint (p q : CurvePoint) : CurvePoint :=
  if p.z = 0 then q
  else if q.z = 0 then p
  else
    let zp := mulMod p.z p.z
    let zq := mulMod q.z q.z
    let u := mulMod p.x zq
    let h := subMod (q.x * zp) u
    let v := mulMod p.y (mulMod q.z zq)
    let r := subMod (mulMod q.y (mulMod p.z zp)) v
    if h = 0 then (if r = 0 then doublePoint p else { x := 1, y := 1, z := 0 })
    else
      let hh := mulMod h h
      let hc := mulMod h hh
      let w := mulMod u hh
      let x := subMod (r * r) (hc + 2 * w)
      { x := x, y := subMod (r * subMod w x) (v * hc), z := mulMod h (mulMod p.z q.z) }

/-- u times p plus v times q, with s their sum, over the n bits of u and v from the highest, onto a. -/
def addMultiples (u v : Nat) (p q s : CurvePoint) : Nat → CurvePoint → CurvePoint
  | 0, a => a
  | n + 1, a =>
    let d := doublePoint a
    addMultiples u v p q s n
      (match u.testBit n, v.testBit n with
      | false, false => d
      | true, false => addPoint d p
      | false, true => addPoint d q
      | true, true => addPoint d s)

/-- A point lies on the curve. -/
def onCurve (x y : Nat) : Bool :=
  decide (x < p384Prime) && decide (y < p384Prime) && decide (mulMod y y = subMod (mulMod x (mulMod x x) + p384B) (3 * x))

/-- The signature (r, s) over a hash e verifies under the public key (x, y). -/
def ecdsaVerifies (x y e r s : Nat) : Bool :=
  if onCurve x y && decide (0 < r) && decide (r < p384Order) && decide (0 < s) && decide (s < p384Order) then
    let w := invMod p384Order s
    let q : CurvePoint := { x := x, y := y, z := 1 }
    let t := addMultiples (e * w % p384Order) (r * w % p384Order) p384Base q (addPoint p384Base q) 384 { x := 1, y := 1, z := 0 }
    decide (t.z ≠ 0) && decide (mulMod t.x (powMod p384Prime 384 (mulMod t.z t.z) (p384Prime - 2) 1) % p384Order = r)
  else false

/-- The signature of a firmware image's header verifies (R525). -/
def signatureVerifies (header : List Byte) : Bool :=
  let key := (header.drop 80).take 97
  let n := fun (bs : List Byte) (off : Nat) => fromBE ((bs.drop off).take 48)
  decide (key.take 1 = [0x04]) &&
    ecdsaVerifies (n key 1) (n key 49) (fromBE (sha384 (header.take 188))) (n header 188) (n header 236)

end Sys2Proof.Machine
end

