-- ==== Sys2Proof/Machine/BootOps.lean ====
section
/-!
DEFINITION. Bring-up (19): the checks of a firmware image (R525, R526), the boot ROM's choice (R528), delivery by the host
(R529), the start of the firmware, and readiness (R19). Also what a reset keeps (R522, R523).
-/
namespace Sys2Proof.Machine
open Sys2Proof

/-! ### Firmware images (R525, R526) -/

/-- A number of an image's header. -/
def imgField (bs : List Byte) (off n : Nat) : Nat := fromLE ((bs.drop off).take n)

/-- Bytes of a header that are zero. -/
def imgZero (bs : List Byte) (off n : Nat) : Bool := ((bs.drop off).take n).all fun b => b == 0

/-- Magic, header version, series, reserved fields and lengths of an image (R525). -/
def imageForm (bs : List Byte) : Bool :=
  decide (bs.take 4 = [0x4D, 0x4C, 0x46, 0x57]) && decide (imgField bs 4 2 = 1) && decide (imgField bs 6 1 = 2) && imgZero bs 7 1 &&
  imgZero bs 177 11 && imgZero bs 284 228 && decide (imgField bs 16 4 ≤ 64) && decide (imgField bs 20 4 ≤ 4193792) &&
  decide (bs.length = 512 + imgField bs 20 4) && decide (imgField bs 28 4 < imgField bs 20 4)

/-- The kind and severity with which an image is rejected, none for one that is accepted (R526). -/
def imageFault (p : Power) (bs : List Byte) : Option (Nat × Nat) :=
  if !imageForm bs then some (K.fwSignature, 2)
  else if p.keyHash ≠ some (fromBE (sha384 ((bs.drop 80).take 97))) then some (K.keyError, 3)
  else if !signatureVerifies (bs.take 284) then some (K.fwSignature, 2)
  else if sha384 (bs.drop 512) ≠ (bs.drop 32).take 48 then some (K.fwSignature, 2)
  else if imgField bs 16 4 < p.rollback then some (K.fwRollback, 2)
  else none

/-- The image in a firmware slot: 0 A, 1 B. -/
def slotImage (p : Power) (i : Nat) : List Byte := if i = 0 then p.slotA.bytes else p.slotB.bytes

/-- A slot passes every check (R526). -/
def slotValid (p : Power) (i : Nat) : Bool := decide (i < 2) && (imageFault p (slotImage p i)).isNone

/-! ### The start of the firmware -/

/-- A finding of the boot ROM, which Mladir logs once it runs (R526). -/
def noteFinding (f : Nat × Nat) (s : State) : State := { s with pwr := { s.pwr with findings := s.pwr.findings ++ [f] } }

/-- The findings go into the log. -/
def logFindings (s : State) : State :=
  s.pwr.findings.foldl (fun s f => report (if f.1 = K.timeXo then Src.clock else Src.security) f.1 f.2 0 0 s)
    { s with pwr := { s.pwr with findings := [] } }

/-- A log entry from its 24 bytes (R350, R490). -/
def LogEntry.ofBytes (bs : List Byte) : LogEntry :=
  let w := fun i => fromLE ((bs.drop (4 * i)).take 4)
  { rcd := { source := w 0 / 2 ^ 20, kind := w 0 / 2 ^ 12 % 256, sev := w 0 / 2 ^ 8 % 16, count := w 0 % 256
             index := w 1 + w 2 % 65536 * 2 ^ 32, ended := Fx.bit (w 2) 31, detail := w 2 / 65536 % 32768, timeNs := w 3 }
    wraps := w 4, seq := w 5 }

/-- The records of a last-gasp entry (R521). -/
def gaspRecords (bs : List Byte) : List LogEntry :=
  ((List.range 16).map fun i => (bs.drop (64 + 24 * i)).take 24).filterMap fun e =>
    if e.all fun b => b == 0 then none else some (LogEntry.ofBytes e)

/-- Mladir copies the entries of the last-gasp ring that are new, logs LAST_GASP, and erases the older sector once the newer
one holds an entry (R521). -/
def copyGasp (s : State) : State :=
  let new := s.pwr.ring.filter fun b => decide (s.pwr.ringRead < imgField b 4 4)
  match new.getLast? with
  | none => s
  | some last =>
    let old := new.flatMap gaspRecords
    let persist := (old ++ s.flt.persist)
    let s := { s with
      flt := { s.flt with persist := persist.take 8192, persistLost := s.flt.persistLost + (persist.length - 8192) }
      pwr := { s.pwr with ringRead := s.pwr.ringSeq
                          ring := s.pwr.ring.filter fun b => decide ((imgField b 4 4 - 1) / 128 = (s.pwr.ringSeq - 1) / 128) } }
    report Src.power K.lastGasp 2 0 (imgField last 8 2) s

/-- The repair map is loaded and the start-up march's outcome stands (R33, R366, R367): the bank map over the good banks, the spare bank, the fronds that stay
failing. -/
def startMarch (s : State) : State :=
  let good := (List.range 25).filter fun b => !s.supv.marchBanks.contains b
  let map := ((List.range 24).zip good).filter fun e => e.1 != e.2
  let s := loadOtp s
  let s := s.supv.marchBanks.foldl (fun s b => retireBank b s)
    { s with sys := { s.sys with bankMap := map, spareBank := good[24]? } }
  let s := if good.length < 24 then report Src.march K.marchFail 4 0 0 s else s
  let spare := if s.sys.spareFrond.isNone ∧ s.sys.retired = [] then some 31 else s.sys.spareFrond
  let bad := s.supv.marchFronds.filter fun f => !s.sys.retired.contains f
  let s := bad.foldl (fun s f => failFrond f s) { s with sys := { s.sys with spareFrond := spare } }
  if bad = [] then s else { s with sys := { s.sys with spareFrond := none } }

/-- Feeds that are lost while the engine starts (R513). -/
def startFeeds (s : State) : State :=
  [0, 1].foldl (fun s i =>
    if (s.pwr.feeds.getD i {}).lost then
      report (Src.feed i) K.feedLoss 2 0 0 (raiseInt 20 { s with pwr := { s.pwr with flags := Fx.setBit s.pwr.flags i true } })
    else s) s

/-- The body of an image stands at its load address in control SRAM (R525). -/
def loadBody (bs : List Byte) (s : State) : State :=
  match regionOf true (imgField bs 24 4) with
  | .sram o => { s with mem := { s.mem with sram := s.mem.sram.writeBytes o (bs.drop 512) } }
  | _ => s

/-- The firmware runs (R530, step 7): the boot remap stands, the collector has started. -/
def startFirmware (bs : List Byte) (s : State) : State :=
  let s := loadBody bs s
  let s := { s with
    sys := { s.sys with remap := true, mladirUp := true, mladirBeat := s.clk.raw }
    flt := { s.flt with started := true }
    pwr := { s.pwr with bootBytes := [], bootFirst := false, header := bs.take 512 } }
  startFeeds (startMarch (copyGasp (logFindings s)))

/-! ### The boot ROM's choice (R528) -/

/-- A change of the boot table (R524). -/
def bootTable (f : Power → Power) (s : State) : State :=
  let p := f s.pwr
  { s with pwr := { p with bootGen := (p.bootGen + 1) % 2 ^ 32 } }

/-- Boot a slot. -/
def bootSlot (i : Nat) (trial : Bool) (s : State) : State :=
  startFirmware (slotImage s.pwr i) { s with pwr := { s.pwr with running := i, onTrial := trial } }

/-- Offer host delivery (R529). -/
def offerDelivery (first : Bool) (s : State) : State :=
  { s with pwr := { s.pwr with bootState := 1, bootReason := 0, bootBytes := [], bootAccepted := 0, bootAt := s.clk.raw, bootFirst := first } }

/-- No trial is set: the confirmed slot, else the other one as a trial, else host delivery. Without a confirmed slot the first
slot that passes is the other one (log entry 9). -/
def chooseConfirmed (s : State) : State :=
  let c := s.pwr.confirmed
  if slotValid s.pwr c then bootSlot c false s
  else
    let s := if c < 2 then match imageFault s.pwr (slotImage s.pwr c) with
      | some f => noteFinding f s
      | none => s
    else s
    match (if c < 2 then [1 - c] else [0, 1]).find? fun i => slotValid s.pwr i with
    | some i => bootSlot i true (bootTable (fun p => { p with trial := i, attempts := 1 }) (noteFinding (K.fwFallback, 2) s))
    | none => offerDelivery false s

/-- The trial is given up. -/
def fallBack (s : State) : State :=
  chooseConfirmed (noteFinding (K.fwFallback, 2) (bootTable (fun p => { p with trial := 0xFF, attempts := 0 }) s))

/-- The choice at a boot. -/
def chooseSlot (s : State) : State :=
  let t := s.pwr.trial
  if t ≤ 1 then
    if s.pwr.attempts < 3 then
      let s := bootTable (fun p => { p with attempts := p.attempts + 1 }) s
      match imageFault s.pwr (slotImage s.pwr t) with
      | none => bootSlot t true s
      | some f => fallBack (noteFinding f s)
    else fallBack s
  else chooseConfirmed s

/-- The boot ROM runs, once control SRAM is marched: the OTP bit HOST_FIRST offers delivery before the slots (R528). -/
def bootRom (s : State) : State :=
  if s.flt.started ∨ s.pwr.bootState ≠ 0 then s
  else if Config.hostFirst then offerDelivery true s else chooseSlot s

/-- A chunk of a delivery (R529): the reason for which it is refused, 0 for none. -/
def chunkFault (p : Power) (total offset length crc : Nat) (bytes : List Byte) : Nat :=
  if offset ≠ p.bootAccepted then 3
  else if length < 4 ∨ 15360 < length ∨ length % 4 ≠ 0 ∨ bytes.length ≠ length ∨ total < offset + length then 1
  else if crc32c bytes ≠ crc then 2
  else 0

/-- The whole image is there: the checks of R526, then its start from control SRAM; it is no trial and no slot's. -/
def bootDelivered (s : State) : State :=
  let bs := s.pwr.bootBytes
  match imageFault s.pwr bs with
  | some f => noteFinding f { s with pwr := { s.pwr with bootState := 5, bootReason := 4 } }
  | none => startFirmware bs { s with pwr := { s.pwr with bootState := 4, running := 0xFF, onTrial := false } }

/-! ### Reset (R522, R523) -/

/-- Coarse time of the always-on domain now, in ms (R515). -/
def coarseNow (s : State) : Nat := (s.pwr.coarse + (s.clk.raw - s.pwr.coarseAt) / 250000) % 2 ^ 48

/-- What a reset leaves: every register at its reset value and every pin as R538 has it; retention memory, OTP and the boot flash as they were, the first
not through a power-on reset of the always-on domain (R515). -/
def resetEngine (por : Bool) (s : State) : State :=
  let r := State.reset
  let held := s.scene.emerg.filter fun e => e.2.scene.isSome
  let emerg : Tbl Emerg := Tbl.mapV (fun _ e => { scene := e.scene, latchMode := e.latchMode, pages := e.pages }) held
  let dir : Tbl SceneEntry := Tbl.mapV (fun _ e => { e with resident := false }) (s.scene.dir.filter fun e => isPersistent s e.1)
  let a := s.pwr.ageing
  let p := s.pwr
  let q : Power := if por then r.pwr else { r.pwr with
    feeds := p.feeds, rails := p.rails, tj := p.tj, aon := p.aon, coarse := coarseNow s, findings := p.findings }
  let pwr : Power := { q with
    ring := p.ring, ringSeq := p.ringSeq, ringRead := p.ringRead, bootGen := p.bootGen, confirmed := p.confirmed
    trial := p.trial, attempts := p.attempts, rollA := p.rollA, rollB := p.rollB, slotA := p.slotA, slotB := p.slotB
    rollback := p.rollback, keyHash := p.keyHash, tap := p.tap
    ageing := { days := a.days, v90ref := a.v90ref, a := a.a, n := a.n, margin := a.margin, forecast := a.forecast, told := a.told } }
  { r with
    pending := s.pending, out := s.out, free := s.free
    mem := { r.mem with ret := if por then r.mem.ret else s.mem.ret, flash := s.mem.flash, rom := s.mem.rom }
    sys := { r.sys with split := s.sys.nextSplit, nextSplit := s.sys.nextSplit, retired := s.sys.retired
                        spareFrond := s.sys.spareFrond, resetLow := s.sys.resetLow }
    flt := { r.flt with persist := s.flt.persist, persistLost := s.flt.persistLost, gasp := if por then [] else s.flt.gasp }
    mbx := { r.mbx with keys := s.mbx.keys }
    page := { r.page with image := s.page.image }
    scene := { r.scene with dir := dir, emerg := emerg }
    frond := { r.frond with images := s.frond.images, prog := s.frond.prog, xconst := s.frond.xconst, yconst := s.frond.yconst }
    peat := { r.peat with clip := s.peat.clip.filter fun e => e.2.pinned }
    time := { r.time with hold := { r.time.hold with stored := s.time.hold.stored } }
    supv := { r.supv with otp := s.supv.otp }
    pwr := pwr }

end Sys2Proof.Machine
end

