-- ==== Sys2Proof/Machine/PowerCmds.lean ====
section
/-!
DEFINITION. Power feeds, stages, rails and temperature (R511 to R521), reset, boot and readiness events (R522 to R530), the
TAP (R541), and the POWER and SECURE commands (R493, R531): the meanings.
-/
namespace Sys2Proof.Machine
open Sys2Proof

def putPower (f : Power → Power) (s : State) : State := { s with pwr := f s.pwr }

/-- A record goes to the collector once it has started (R360). -/
def reportUp (source kind sev detail : Nat) (s : State) : State :=
  if s.flt.started then report source kind sev 0 detail s else s

/-- The end of a condition that stands. -/
def endUp (source kind sev : Nat) (s : State) : State :=
  if s.flt.started && conditionStands s source kind then endCondition source kind sev s else s

/-- A W1C flag of PWR_FLAGS sets (R503, R509). -/
def powerFlag (n : Nat) (s : State) : State := raiseInt 20 (putPower (fun p => { p with flags := Fx.setBit p.flags n true }) s)

/-! ### Feeds and groups (R511, R513) -/

def feedOf (s : State) (i : Nat) : Feed := s.pwr.feeds.getD i {}
def putFeed (i : Nat) (f : Feed) (s : State) : State := putPower (fun p => { p with feeds := p.feeds.set i f }) s

/-- A group carries the load: its feed is there and two of its stages are healthy. -/
def groupCarries (s : State) (g : Nat) : Bool :=
  !(feedOf s g).lost && decide (2 ≤ (((s.pwr.stages.drop (4 * g)).take 4).filter (·.healthy)).length)

/-- A feed within its range (R509, R513). -/
def feedInRange (mv : Nat) : Bool := decide (10200 ≤ mv) && decide (mv ≤ 13800)

/-- A feed out of range and not lost: between the loss bounds and the range. -/
def feedMarginal (mv : Nat) : Bool := (decide (8500 ≤ mv) && decide (mv < 10200)) || (decide (13800 < mv) && decide (mv ≤ 14000))

/-- The engine runs from no group: both feeds are lost, or one and the other group cannot carry the load (R513). -/
def noGroup (s : State) : Bool :=
  ((feedOf s 0).lost || (feedOf s 1).lost) && !groupCarries s 0 && !groupCarries s 1

/-- Note when the engine begins to run from no group, and when it ends. -/
def followGroups (s : State) : State :=
  if noGroup s then putPower (fun p => { p with bothAt := some (p.bothAt.getD s.clk.raw) }) s
  else putPower (fun p => { p with bothAt := none }) s

/-- Conditions of a feed's sample: FEED_RANGE (R513). -/
def feedRange (i : Nat) (s : State) : State :=
  let f := feedOf s i
  let marginal := !f.lost && feedMarginal f.mv
  if marginal && !conditionStands s (Src.feed i) K.feedRange then
    (if s.flt.started then powerFlag 2 (report (Src.feed i) K.feedRange 2 0 0 s) else s)
  else if !marginal then endUp (Src.feed i) K.feedRange 2 s
  else s

/-- A lost feed is in service again (R513). -/
def feedBack (i : Nat) (s : State) : State :=
  let s := putFeed i { feedOf s i with lost := false } s
  followGroups (feedRange i (endUp (Src.feed i) K.feedLoss 2 s))

/-- One sample of a feed in mV, at a resolution of 10 mV. -/
def sampleFeed (i mv : Nat) (s : State) : State :=
  let mv := mv / 10 * 10
  let f := feedOf s i
  let out := decide (mv < 8500) || decide (14000 < mv)
  let good := decide (9000 ≤ mv) && decide (mv ≤ 13800)
  let now := s.clk.raw
  let s := putFeed i { f with
    mv := mv
    badSince := if out then some (f.badSince.getD now) else none
    goodSince := if good then some (f.goodSince.getD now) else none } s
  -- a feed that comes back during the ride-through resumes at once
  let rides : Bool := match s.pwr.bothAt with
    | some t => decide (now ≤ t + usTicks 100)
    | none => false
  if f.lost && good && !s.sys.inReset && rides then feedBack i s
  else feedRange i s

/-! ### Start-up (R516 to R518, R530) -/

/-- A voltage in µV lies within a window in mV. -/
def uvIn (uv lo hi : Nat) : Bool := decide (lo * 1000 ≤ uv) && decide (uv ≤ hi * 1000)

/-- The window of a rail, by its place in the rail check: VCORE, VSRAM, VSERDES 0.9 and 1.2, VPLL, SAP banks 0 to 3, MISC,
VAUX (R516). VCORE's window is judged by its duration. -/
def railOk (p : Power) (i uv : Nat) : Bool :=
  match i with
  | 0 => true
  | 1 => uvIn uv 760 840
  | 2 => uvIn uv 870 930
  | 3 => uvIn uv 1140 1260
  | 4 => uvIn uv 1710 1890
  | 10 => uvIn uv 2970 3630
  | _ =>
    let v := p.bankMv.getD (i - 5) 0
    (decide (v ≠ 3300) && uvIn uv 1620 1980) || (decide (v ≠ 1800) && uvIn uv 2970 3630)

/-- VCORE lies in its window (R516). -/
def vcoreOk (p : Power) : Bool :=
  let uv := p.rails.getD 0 0
  decide (p.vcore ≤ uv + 40000) && decide (uv ≤ p.vcore + 40000) && decide (660000 ≤ uv) && decide (uv ≤ 880000)

/-- Steps 2 and 3 of Fiddlehead: a feed in range and every rail in its window bring VCORE up; the I/O banks' voltages are
taken then. -/
def powerUp (s : State) : State :=
  let p := s.pwr
  if p.up ∨ s.sys.inReset ∨ !p.aon ∨ !([0, 1].any fun i => !(feedOf s i).lost && feedInRange (feedOf s i).mv) ∨
      !((List.range 11).all fun i => railOk { p with bankMv := [0, 0, 0, 0, 0] } i (p.rails.getD i 0)) then s
  else
    let banks := (List.range 5).map fun i => if 2500000 < p.rails.getD (5 + i) 0 then 3300 else 1800
    putPower (fun p => { p with up := true, vcore := 860000, bankMv := banks, railBad := [] }) s

/-- Fiddlehead begins at its step 2. -/
def beginBoot (s : State) : State := powerUp { s with sys := { s.sys with inReset := false } }

/-! ### Events of feeds, stages, rails and temperature -/

/-- FEED_SENSE_SAMPLE (R511). -/
def execFeedSenseSample (a b : Nat) (s : State) : Host.Outcome State Fault Refusal :=
  .next (if s.pwr.aon then powerUp (sampleFeed 1 b (sampleFeed 0 a s)) else s)

/-- FEED_LOST (R513): out of its bounds for 2 µs. -/
def execFeedLost (feed : Bool) (s : State) : Host.Outcome State Fault Refusal :=
  let i := Fx.b2n feed
  .next (match (feedOf s i).badSince with
    | none => s
    | some t =>
      if (feedOf s i).lost ∨ !s.pwr.aon then s
      else
        let s := advanceTo (t + usTicks 2) s
        let s := putFeed i { feedOf s i with lost := true, lostAt := s.clk.raw, goodSince := none } s
        let s := endUp (Src.feed i) K.feedRange 2 s
        let s := if s.flt.started then powerFlag i (report (Src.feed i) K.feedLoss 2 0 0 s) else s
        followGroups s)

/-- FEED_RETURNED (R513, R519): within its return bounds for 100 ms. After a last gasp it starts Fiddlehead. -/
def execFeedReturned (feed : Bool) (s : State) : Host.Outcome State Fault Refusal :=
  let i := Fx.b2n feed
  .next (match (feedOf s i).goodSince with
    | none => s
    | some t =>
      if !(feedOf s i).lost then s
      else
        let s := feedBack i (advanceTo (t + msTicks 100) s)
        if s.pwr.gasp.isSome then
          let s := putPower (fun p => { p with gasp := none }) s
          if s.sys.resetLow then s else beginBoot s
        else powerUp s)

/-- Absolute difference. -/
def gapOf (a b : Nat) : Nat := (a - b) + (b - a)

/-- One stage's reading (R512): `mean` is the mean current of the live stages. -/
def sampleStage (i mean : Nat) (x : StageReading) (s : State) : State :=
  let g := s.pwr.stages.getD i {}
  let put := fun (v : Stage) (s : State) => putPower (fun p => { p with stages := p.stages.set i v }) s
  let now := s.clk.raw
  let differs := decide (5000 < mean) && decide (mean < 5 * gapOf x.ma mean)
  let since := if differs then some (g.diffSince.getD now) else none
  let long := match since with | some t => decide (t + usTicks 100 ≤ now) | none => false
  let live := g.healthy && !(feedOf s (i / 4)).lost
  let stops := g.healthy && (x.fault || (live && long) || decide (12500 ≤ x.temp))
  let hot := g.healthy && !stops && decide (11000 ≤ x.temp)
  let v : Stage := { ma := x.ma, temp := x.temp, healthy := g.healthy && !stops, diffSince := since, hot := hot }
  let s := put v s
  let s := if stops then (if s.flt.started then powerFlag 3 (report (Src.stage i) K.phaseFault 2 0 0 s) else s) else s
  if hot && !g.hot then (if s.flt.started then powerFlag 3 (report (Src.stage i) K.phaseTemp 2 0 0 s) else s)
  else if g.hot && !hot then endUp (Src.stage i) K.phaseTemp 2 s
  else s

/-- STAGE_SAMPLE (R512). -/
def execStageSample (stages : List StageReading) (s : State) : Host.Outcome State Fault Refusal :=
  let ids := (List.range 8).zip stages
  let live := ids.filter fun e => (s.pwr.stages.getD e.1 {}).healthy && !(feedOf s (e.1 / 4)).lost
  let mean := (live.map fun e => e.2.ma).foldl (· + ·) 0 / max 1 live.length
  .next (if s.pwr.aon then followGroups (ids.foldl (fun s e => sampleStage e.1 mean e.2 s) s) else s)

/-- A rail out of its window (R516): the detail holds the rail's place and bit 8 for high (log entry 12). -/
def railFault (i uv : Nat) (s : State) : State :=
  let mid := [0, 800, 900, 1200, 1800, 0, 0, 0, 0, 0, 3300].getD i 0
  let mid := if 5 ≤ i ∧ i ≤ 9 then s.pwr.bankMv.getD (i - 5) 0 else mid
  reportUp Src.power K.railRange 3 (i + (if mid * 1000 < uv then 256 else 0)) s

/-- VCORE out of its window for more than 10 µs. -/
def vcoreCheck (s : State) : State :=
  if vcoreOk s.pwr then putPower (fun p => { p with vcoreBadSince := none, railBad := p.railBad.filter (· != 0) }) s
  else
    let t := s.pwr.vcoreBadSince.getD s.clk.raw
    let s := putPower (fun p => { p with vcoreBadSince := some t }) s
    if t + usTicks 10 < s.clk.raw ∧ !s.pwr.railBad.contains 0 then
      let high := decide (s.pwr.vcore < s.pwr.rails.getD 0 0)
      reportUp Src.power K.vcoreRange 3 (Fx.b2n high * 256) (putPower (fun p => { p with railBad := 0 :: p.railBad }) s)
    else s

/-- RAIL_CHECK (R516, R517): readings in µV in the order of `railOk`. -/
def execRailCheck (uv : List Nat) (s : State) : Host.Outcome State Fault Refusal :=
  .next (
    if !s.pwr.aon then s
    else
      let s := putPower (fun p => { p with rails := (List.range 11).map fun i => uv.getD i 0 }) s
      if !s.pwr.up then powerUp s
      else
        let s := (List.range 10).foldl (fun s k =>
          let i := k + 1
          let v := s.pwr.rails.getD i 0
          if railOk s.pwr i v then putPower (fun p => { p with railBad := p.railBad.filter (· != i) }) s
          else if s.pwr.railBad.contains i then s
          else railFault i v (putPower (fun p => { p with railBad := i :: p.railBad }) s)) s
        vcoreCheck s)

/-- TJ_SAMPLE (R520); the readings also make the hour's mean of R378. -/
def execTjSample (tj : Int) (s : State) : Host.Outcome State Fault Refusal :=
  .next (
    if !s.pwr.aon then s
    else
      let crit := decide (11500 ≤ tj)
      let was := s.pwr.tjCrit
      let a := s.pwr.ageing
      let s := putPower (fun p => { p with tj := tj, tjCrit := crit, ageing := { a with tjSum := a.tjSum + tj, tjN := a.tjN + 1 } }) s
      let high := conditionStands s Src.thermal K.tjHigh
      let s := if !high && decide (10500 < tj) then (if s.flt.started then powerFlag 4 (report Src.thermal K.tjHigh 2 0 0 s) else s)
        else if tj < 10000 then endUp Src.thermal K.tjHigh 2 s
        else s
      if crit && !was then reportUp Src.thermal K.tjCritical 4 0 s else s)

/-! ### Last gasp and the always-on domain (R515, R519 to R521) -/

/-- The cause of a last gasp that has arisen: both feeds lost for 100 µs, VCORE collapsed, or 125 °C. -/
def gaspDue (cause : Nat) (s : State) : Bool :=
  match cause with
  | 1 => s.pwr.bothAt.isSome
  | 2 => s.pwr.bothAt.isSome && !vcoreOk s.pwr
  | 3 => decide (12500 ≤ s.pwr.tj)
  | _ => false

/-- A last-gasp entry (R521). -/
def gaspEntry (seq cause ms a b : Nat) (s : State) : List Byte :=
  let recs := s.flt.gasp.flatMap LogEntry.bytes
  let body : List Byte := [0x4C, 0x47, 0x53, 0x50] ++ u32 seq ++ u16 cause ++ le 6 ms ++ u32 s.clk.wraps ++ u32 s.clk.ns ++
    u64 s.sys.frameNo ++ u16 a ++ u16 b ++ u32 s.pwr.vcore ++ s16 s.pwr.tj ++ List.replicate 22 0 ++ padTo 384 recs ++
    List.replicate 60 0
  body ++ u32 (crc32c body)

/-- LAST_GASP (R519): the sequence runs to the reset, which holds until a feed has returned. -/
def execLastGasp (cause : Nat) (s : State) : Host.Outcome State Fault Refusal :=
  .next (
    if s.sys.inReset ∨ !gaspDue cause s then s
    else
      let s := if cause = 1 then match s.pwr.bothAt with
        | some t => advanceTo (t + usTicks 100) s
        | none => s
      else s
      let s := reportUp Src.power K.lastGasp 4 cause s
      let ms := if s.clk.unset then s.clk.raw / 250000 else coarseNow s
      let a := (feedOf s 0).mv / 10
      let b := (feedOf s 1).mv / 10
      let n := s.pwr.ringSeq + 1
      let e := gaspEntry n cause ms a b s
      let s := putPower (fun p => { p with ring := p.ring ++ [e], ringSeq := n }) s
      -- ACTIVE falls at the next sample tick (R242)
      let s := toTick s
      let s := { s with pair := { s.pair with activeOut := false } }
      putPower (fun p => { p with gasp := some cause, gaspFrozen := some (ms, a, b) }) (resetEngine false s))

/-- COARSE_TIME_UPDATE (R515): while time is set. -/
def execCoarseTimeUpdate (s : State) : Host.Outcome State Fault Refusal :=
  .next (if s.clk.unset ∨ !s.flt.started ∨ !s.sys.mladirUp then s
    else putPower (fun p => { p with coarse := s.clk.full / 1000000 % 2 ^ 48, coarseAt := s.clk.raw }) s)

/-- VAUX_POWER_ON (R515). -/
def execVauxPowerOn (s : State) : Host.Outcome State Fault Refusal := .next (putPower (fun p => { p with aon := true }) s)

/-- VAUX_POWER_ON_RESET (R515, R522): retention memory loses its content too. -/
def execVauxPowerOnReset (s : State) : Host.Outcome State Fault Refusal := .next (resetEngine true s)

/-! ### Reset and boot (R522 to R530) -/

/-- RESET_N_ASSERT (R522): low for 1 µs. -/
def execResetNAssert (s : State) : Host.Outcome State Fault Refusal :=
  let hold := s.pwr.gasp
  let frozen := s.pwr.gaspFrozen
  let r := resetEngine false { s with sys := { s.sys with resetLow := true } }
  .next (if s.sys.resetLow then s else putPower (fun p => { p with gasp := hold, gaspFrozen := frozen }) r)

/-- The level of a strap in two of its three samples (R540). -/
def strap (v : Nat) : Bool := decide (2 ≤ (bitsOf 3 v).length)

/-- RESET_N_RELEASE (R318, R530, R540): the straps are sampled, and Fiddlehead starts unless a last gasp still holds the engine.
`badBanks` and `badFronds` are what the start-up march finds failing and cannot repair (log entry 12). The TAP leaves an
instruction that acts on the pins (R541). -/
def execResetNRelease (en pref : Nat) (badBanks badFronds : List Nat) (s : State) : Host.Outcome State Fault Refusal :=
  .next (
    if !s.sys.resetLow ∨ !s.pwr.aon then s
    else
      let s := { s with
        sys := { s.sys with resetLow := false, pairEn := strap en, pairPref := strap pref }
        supv := { s.supv with marchBanks := badBanks.filter (· < 25), marchFronds := badFronds.filter (· < 32) } }
      let s := putPower (fun p => { p with tap := if 3 ≤ p.tap then 0 else p.tap }) s
      if s.pwr.gasp.isSome then s else beginBoot s)

/-- PLL_LOCK (R282, R530): XO_IN is measured once the core is up; another frequency leaves the time function not ready. Then the
boot ROM runs. -/
def execPllLock (hz : Nat) (s : State) : Host.Outcome State Fault Refusal :=
  .next (
    if s.sys.inReset ∨ !s.pwr.up ∨ s.clk.pllLocked then s
    else
      let s := match acceptedXo hz with
        | none => if s.flt.started then report Src.clock K.timeXo 4 0 0 s else noteFinding (K.timeXo, 4) s
        | some f => loadModel { s with clk := { s.clk with pllLocked := true, xoKhz := f / 1000 } }
      if s.flt.started then followReady s else bootRom s)

/-- BOOT_GO (R529): the host has written a go count. A go count of 0 after a refusal starts the transfer afresh (log entry
9). -/
def execBootGo (go total offset length crc : Nat) (bytes : List Byte) (s : State) : Host.Outcome State Fault Refusal :=
  let p := s.pwr
  .next (
    if s.flt.started ∨ s.sys.inReset ∨ p.bootState = 0 then s
    else if p.bootState = 5 then (if go = 0 then putPower (fun p => { p with bootAck := 0 }) (offerDelivery false s) else s)
    else if go = p.bootAck then s
    else
      match chunkFault p total offset length crc bytes with
      | 0 =>
        let s := putPower (fun p => { p with
          bootState := 2, bootFirst := false, bootBytes := p.bootBytes ++ bytes, bootAccepted := p.bootAccepted + length, bootAck := go }) s
        if s.pwr.bootAccepted = total then bootDelivered (putPower (fun p => { p with bootState := 3 }) s) else s
      | r => putPower (fun p => { p with bootState := 5, bootReason := r }) s)

/-- HOST_DELIVERY_TIMEOUT (R528): 2 s under HOST_FIRST without a delivery. -/
def execHostDeliveryTimeout (s : State) : Host.Outcome State Fault Refusal :=
  .next (if s.flt.started ∨ s.pwr.bootState ≠ 1 ∨ !s.pwr.bootFirst then s
    else
      let s := advanceTo (s.pwr.bootAt + msTicks 2000) s
      chooseSlot (putPower (fun p => { p with bootState := 0, bootFirst := false }) s))

/-- FUNCTION_READY (R19): a function, by its code of R473, passes its self-test. -/
def execFunctionReady (code : Nat) (s : State) : Host.Outcome State Fault Refusal :=
  .next (if !s.flt.started ∨ 9 < code then s
    else
      let tested := if s.sys.tested.contains code then s.sys.tested else s.sys.tested ++ [code]
      followReady { s with sys := { s.sys with tested := tested } })

/-- SERVO_HANDOFF (R518). -/
def execServoHandoff (s : State) : Host.Outcome State Fault Refusal :=
  .next (if isReady s Fn.fronds ∧ 100 ≤ s.frond.slackFrames then putPower (fun p => { p with handed := true }) s else s)

/-- FW_CONFIRM (R527): 600 s after the last function reported ready, with no restart. -/
def execFwConfirm (s : State) : Host.Outcome State Fault Refusal :=
  .next (match s.pwr.trialAt with
    | none => s
    | some t =>
      if !s.pwr.onTrial ∨ 1 < s.pwr.running then s
      else
        let s := advanceTo (t + msTicks 600000) s
        let image := slotImage s.pwr s.pwr.running
        bootTable (fun p => { p with
          confirmed := p.running, trial := 0xFF, attempts := 0, onTrial := false
          rollback := max p.rollback (min 64 (imgField image 16 4)) }) s)

/-- TAP_INSTRUCTION (R541): 0 BYPASS, 1 IDCODE, 2 SAMPLE/PRELOAD, 3 EXTEST, 4 EXTEST_PULSE, 5 EXTEST_TRAIN, 6 CLAMP, 7 HIGHZ. With
RESET_N high the last five execute as BYPASS. -/
def execTapInstruction (which : Nat) (s : State) : Host.Outcome State Fault Refusal :=
  .next (putPower (fun p => { p with tap := if s.sys.resetLow ∨ which < 3 then which else 0 }) s)

/-! ### POWER commands (R493, R531) -/

/-- POWER.STATUS. -/
def execPowerStatus (r : Req) (s : State) : Host.Outcome State Fault Refusal :=
  serve { code := 0x0D01 } r (fun _ s =>
    let p := s.pwr
    let stages := (List.range 8).flatMap fun i =>
      let g := p.stages.getD i {}
      u16 (g.ma / 100) ++ s16 g.temp
    (s, done [] (u32 p.vcore ++ u16 p.target ++ s16 p.tj ++ u32 (feedOf s 0).mv ++ u32 (feedOf s 1).mv ++
      u32 ((p.stages.map (·.ma)).foldl (· + ·) 0) ++ stages ++ u8 (Fx.b2n p.direct.isSome)))) s

/-- POWER.SLACK_TARGET (R40). -/
def execPowerSlackTarget (r : Req) (op target : Nat) (s : State) : Host.Outcome State Fault Refusal :=
  serve { code := 0x0D02, reach := if op = 1 then .here else .read } r
    (readOrSet op (fun s =>
      let (v, cs) := clampField 1 0 250 600 target
      (putPower (fun p => { p with target := v.toNat }) s, cs)) (fun s => u16 s.pwr.target)) s

/-- The lowest slack and the retries of every frond begin anew with a report (R42). -/
def beginSlack (s : State) : State :=
  { s with frond := { s.frond with slack := Tbl.mapV (fun _ (x : SlackRec) => { x with low := 1000, retries := 0 }) s.frond.slack } }

/-- POWER.SLACK_REPORT (R42). -/
def execPowerSlackReport (r : Req) (s : State) : Host.Outcome State Fault Refusal :=
  serve { code := 0x0D03 } r (fun _ s =>
    (beginSlack s, done [] [] ((List.range 32).flatMap fun f =>
      let x := Tbl.getD s.frond.slack f {}
      u16 x.raw ++ u16 x.base ++ u16 x.low ++ u16 0 ++ u32 x.retries))) s

/-- POWER.AGEING (R379): a reference or a latest value that is not there yet reads as a free value (log entry 5). -/
def execPowerAgeing (r : Req) (s : State) : Host.Outcome State Fault Refusal :=
  serve { code := 0x0D04 } r (fun _ s =>
    let a := s.pwr.ageing
    let (vref, s) := orFree 32 a.v90ref s
    let (now, s) := orFree 32 a.days.getLast? s
    (s, done [] (u32 vref ++ u32 now ++ u32 a.a ++ u16 a.n ++ u16 a.margin ++ u16 a.forecast ++ u32 a.days.length)
      (a.days.flatMap u32))) s

/-- POWER.VCORE (R518): the response gives the value that VCORE moves to, or has when the servo takes over. -/
def execPowerVcore (r : Req) (op uv : Nat) (s : State) : Host.Outcome State Fault Refusal :=
  serve { code := 0x0D05, reach := .here, expert := true } r (fun _ s =>
    if op = 0 then (putPower (fun p => { p with direct := none }) s, done [] (u32 s.pwr.vcore))
    else if op = 1 then
      let (v, cs) := clampStep 1 0 680000 860000 2500 uv
      (putPower (fun p => { p with direct := some v.toNat }) s, done cs (u32 v.toNat))
    else (s, refuse St.conflict)) s

/-! ### SECURE commands (R465, R493, R528) -/

/-- SECURE.KEY (R465): over PCIe, over SPI, or over a session whose key holds the provision right. -/
def execSecureKey (r : Req) (op key rights : Nat) (bytes : List Byte) (s : State) : Host.Outcome State Fault Refusal :=
  serve { code := 0x0E01, reach := .here } r (fun r s =>
    let sl := slotOf s r.slot
    if sl.path = 2 ∧ !Fx.bit sl.rights 3 then (reportLimited Src.mailbox K.mbxAuth 1 r.slot 0 s, refuse St.denied)
    else if 1 < op then (s, refuse St.conflict)
    else if 15 < key then (s, refuse St.noResource)
    else if op = 0 then
      if Tbl.has s.mbx.keys key then ({ s with mbx := { s.mbx with keys := Tbl.erase s.mbx.keys key } }, done [] [])
      else (s, refuse St.noResource)
    else if 16 ≤ rights then badRequest s
    else if bytes.length ≠ 32 then (s, refuse St.badLen)
    else ({ s with mbx := { s.mbx with keys := Tbl.put s.mbx.keys key (rights, bytes) } }, done [] [])) s

/-- SECURE.FW_UPDATE opens a firmware image (R476). -/
def execSecureFwUpdate (r : Req) (total : Nat) (s : State) : Host.Outcome State Fault Refusal :=
  serve { code := 0x0E02, reach := .here } r (fun r s => openObject r .firmware total s) s

/-- The slot that SECURE.FW_UPDATE writes: the one that is not running; beside a delivered image the one not confirmed (log entry
9). -/
def updateSlot (p : Power) : Nat := if p.running < 2 then 1 - p.running else if p.confirmed = 0 then 1 else 0

/-- The commit of a firmware image (R526, R528): it becomes the trial of the next boot. -/
def commitFirmware (bs : List Byte) (s : State) : State × Reply :=
  match imageFault s.pwr bs with
  | some f => (report Src.security f.1 f.2 0 0 s, refuse St.conflict)
  | none =>
    let i := updateSlot s.pwr
    let roll := imgField bs 16 4
    let s := bootTable (fun p =>
      let p := { p with trial := i, attempts := 0 }
      if i = 0 then { p with slotA := { bytes := bs }, rollA := roll } else { p with slotB := { bytes := bs }, rollB := roll }) s
    (s, done [] (u8 i ++ u32 (imgField bs 8 2)))

/-- A slot in SECURE.FW_STATUS; the version of a slot that holds no image is a free value (log entry 5). -/
def slotStatus (i : Nat) (s : State) : List Byte × State :=
  let bs := slotImage s.pwr i
  let (v, s) := orFree 16 (if bs = [] then none else some (imgField bs 8 2)) s
  let (b, s) := orFree 32 (if bs = [] then none else some (imgField bs 12 4)) s
  (u8 (Fx.b2n (slotValid s.pwr i)) ++ u8 0 ++ u16 v ++ u32 b, s)

/-- SECURE.FW_STATUS: the slot for the next boot is the trial, else the confirmed one. -/
def execSecureFwStatus (r : Req) (s : State) : Host.Outcome State Fault Refusal :=
  serve { code := 0x0E03 } r (fun _ s =>
    let p := s.pwr
    let next := if p.trial ≤ 1 ∧ p.attempts < 3 then p.trial else p.confirmed
    let (a, s) := slotStatus 0 s
    let (b, s) := slotStatus 1 s
    (s, done [] (u8 p.running ++ u8 next ++ a ++ b))) s

/-- SECURE.IMAGE_SELECT (R528). -/
def execSecureImageSelect (r : Req) (which : Nat) (s : State) : Host.Outcome State Fault Refusal :=
  serve { code := 0x0E04, reach := .here, expert := true } r (fun _ s =>
    if slotValid s.pwr which then (bootTable (fun p => { p with trial := which, attempts := 0 }) s, done [] [])
    else (s, refuse St.conflict)) s

/-- SECURE.ROLLBACK_READ (R527). -/
def execSecureRollbackRead (r : Req) (s : State) : Host.Outcome State Fault Refusal :=
  serve { code := 0x0E05, expert := true } r (fun _ s => (s, done [] (u32 s.pwr.rollback ++ u32 (64 - s.pwr.rollback)))) s

end Sys2Proof.Machine
end

