-- ==== Sys2Proof/Machine/SysCmds.lean ====
section
/-!
DEFINITION. Client slots, sessions and chunked objects (R447, R448, R459, R460, R464) and the SYS commands (R478): the
meanings.
-/
namespace Sys2Proof.Machine
open Sys2Proof

/-! ### Slots (R447, R448) -/

/-- A free slot, lowest number first (R501). -/
def freeSlot (s : State) : Option Nat :=
  if s.mbx.isOpen then (List.range 8).find? fun c => decide ((slotOf s c).state = 0) else none

/-- Claim a slot for a path with its rights (R447). -/
def claimSlot (c path rights tag : Nat) (s : State) : State :=
  putSlot c { state := 1, path := path, rights := rights, tag := tag, beatAt := s.clk.raw, consAt := s.clk.raw } s

/-- Leave the maintenance state with the slot that owns it: both engines of a pair, when this one forwards (R466). -/
def leaveMaint (s : State) : State :=
  if forwards s then forward { slot := 0xFF, seq := 0, crc := 0 } { changes := [.maint none] } [] [.maint none] none s
  else applyMaint none s

/-- Release a slot (R448): its lists, objects, maintenance state and history go, its entry and rings are zeroed. `own` tells
that its owner released it. -/
def releaseSlot (c : Nat) (own : Bool) (s : State) : State :=
  let sl := slotOf s c
  if sl.state ≠ 1 then s
  else
    let s := (s.scene.lists.filter fun l => l.2.slot = c).foldl (fun s l => discardList l.1 s) s
    let objects := Tbl.keep (fun _ (o : Object) => o.slot != c) s.mbx.objects
    let sessions := Tbl.keep (fun _ (x : Session) => x.slot != c) s.mbx.sessions
    let s : State := { s with mbx := { s.mbx with objects := objects, sessions := sessions } }
    let s := if s.sys.maint = some c then leaveMaint s else s
    let s := if sl.path = 1 then abandonSems (fun x => x.master = 7) s else s
    let s := if own then s else report Src.mailbox K.clientLost 1 c 0 s
    putSlot c {} { s with mem := { s.mem with mbx := s.mem.mbx.clear (0x0200 + c * 0x1000) 0x1000 } }

/-- CLIENT_LIVENESS_EXPIRY (R448, R469): the heartbeat unchanged, or the response ring not consumed, for the liveness time. A
session has no entry that its client writes: SESSION_EXPIRY is its rule. -/
def execClientLivenessExpiry (slot : Nat) (s : State) : Host.Outcome State Fault Refusal :=
  let sl := slotOf s slot
  .next (if sl.state ≠ 1 ∨ sl.path = 2 then s
    else
      let from_ := if sl.respProd = sl.respCons then sl.beatAt else min sl.beatAt sl.consAt
      releaseSlot slot false (advanceTo (from_ + msTicks (1000 * s.mbx.liveness)) s))

/-! ### Sessions (R464) -/

/-- A response to an opening datagram, authenticated with the provisioned key; session ID 0, counter 1. -/
def openReply (keyId key_ip key_port slot seq : Nat) (key : List Byte) (r : Reply) (s : State) : State :=
  let msg := message seq 0x010B 0 slot (r.prefix ++ r.data)
  let ss : Session := { keyId := keyId, key := key, ip := key_ip, port := key_port, slot := slot }
  sendSeril key_ip key_port (datagram 0 ss 2 msg) s

/-- Open a session (R464): the slot, the session key from both nonces, the answer. -/
def openSession (seq keyId ip port : Nat) (nonce own : List Byte) (s : State) : State :=
  match Tbl.find s.mbx.keys keyId with
  | none => reportLimited Src.mailbox K.mbxAuth 2 0 0 s
  | some (rights, key) =>
    if nonce.length ≠ 16 then openReply keyId ip port 0 seq key (refuse St.badLen) (badLength s)
    else match freeSlot s with
      | none => openReply keyId ip port 0 seq key (refuse St.noResource) s
      | some c =>
        let id := s.mbx.nextSession
        let own := padTo 16 own
        let s := openReply keyId ip port c seq key (done [] (u32 id ++ own ++ u8 c)) (claimSlot c 2 rights 0 s)
        let ss : Session := {
          keyId := keyId, key := hmac key (ascii "seril-session" ++ nonce ++ own), ip := ip, port := port, slot := c
          tx := 1, last := s.clk.raw }
        { s with mbx := { s.mbx with sessions := Tbl.put s.mbx.sessions id ss, nextSession := max 1 ((id + 1) % 2 ^ 32) } }

/-- SYS.SESSION_OPEN: an opening datagram that verifies (R464). -/
def execSysSessionOpen (seq key ip port : Nat) (nonce own : List Byte) (s : State) : Host.Outcome State Fault Refusal :=
  .next (if s.mbx.isOpen && s.sys.mladirUp then openSession seq key ip port nonce own s else s)

/-- SYS.SESSION_CLOSE (R464): the answer leaves before the slot does; a slot without a session contradicts it. -/
def execSysSessionClose (r : Req) (s : State) : Host.Outcome State Fault Refusal :=
  serve { code := 0x010C, reach := .here } r (fun r s =>
    if (slotOf s r.slot).path = 2 then
      (releaseSlot r.slot true (answer r.slot r.seq 0x010C 0 (done [] []) s), { later := true })
    else (s, refuse St.conflict)) s

/-- SESSION_EXPIRY (R464): no datagram for the liveness time. -/
def execSessionExpiry (id : Nat) (s : State) : Host.Outcome State Fault Refusal :=
  .next (match Tbl.find s.mbx.sessions id with
    | none => s
    | some x => releaseSlot x.slot false (advanceTo (x.last + msTicks (1000 * s.mbx.liveness)) s))

/-! ### Held results (R458) -/

/-- HELD_RESULT_EXPIRY: 10 s after the last read. -/
def execHeldResultExpiry (slot seq : Nat) (s : State) : Host.Outcome State Fault Refusal :=
  let sl := slotOf s slot
  .next (match sl.held.find? fun h => h.seq = seq with
    | none => s
    | some h =>
      let s := advanceTo (h.readAt + msTicks 10000) s
      putSlot slot { slotOf s slot with held := (slotOf s slot).held.filter fun x => decide (x.seq ≠ seq) } s)

/-- SYS.RESULT_READ: data from an offset into the reference; the result goes once its last byte is read. -/
def execSysResultRead (r : Req) (of_ offset : Nat) (s : State) : Host.Outcome State Fault Refusal :=
  serve { code := 0x0108 } r (fun r s =>
    let sl := slotOf s r.slot
    match r.data, sl.held.find? fun h => h.seq = of_ with
    | none, _ => (badLength s, refuse St.badLen)
    | some _, none => (s, refuse St.expired)
    | some d, some h =>
      let bs := (h.data.drop offset).take d.length
      let left := h.data.length - (offset + bs.length)
      let held := if bs ≠ [] ∧ left = 0 then sl.held.filter fun x => decide (x.seq ≠ of_)
        else sl.held.map fun x => if x.seq = of_ then { x with readAt := s.clk.raw } else x
      (putSlot r.slot { sl with held := held } s, done [] (u32 bs.length ++ u32 left) bs)) s

/-! ### Identity and state -/

/-- SYS.IDENTIFY (R2, R3): versions and build from the header of the image that runs (R525). -/
def execSysIdentify (r : Req) (s : State) : Host.Outcome State Fault Refusal :=
  serve { code := 0x0101 } r (fun _ s =>
    (s, done [] (u64 Config.serial.toNat ++ u16 0x00B0 ++ u8 2 ++ u8 0 ++ u16 (firmwareVersion s) ++
      u16 (serilVersion s) ++ u32 (firmwareBuild s) ++ u64 Config.macBase.toNat ++
      u8 (Fx.b2n s.sys.pairEn) ++ u8 (Fx.b2n s.sys.pairPref) ++ padTo 16 (ascii "EF9600-IB")))) s

/-- Pair state as the host reads it: 7 for a solo engine (R478, R500). -/
def pairStateCode (s : State) : Nat := if s.sys.pairEn then s.pair.state else 7

/-- NO_SPARE and NO_SPARE_BANK stand once the collector has started (R33, R369, R500). -/
def noSpareFrond (s : State) : Bool := s.flt.started && s.sys.spareFrond.isNone
def noSpareBank (s : State) : Bool := s.flt.started && s.sys.spareBank.isNone

/-- SYS.STATUS. -/
def execSysStatus (r : Req) (s : State) : Host.Outcome State Fault Refusal :=
  serve { code := 0x0102 } r (fun _ s =>
    (s, done [] (u32 (readyWord s) ++ u8 (pairStateCode s) ++ u8 (roleByte s) ++ u8 s.sys.rate ++ u8 s.sys.b ++
      u8 (s.sys.spareFrond.getD 0xFF) ++ u8 (s.sys.spareBank.getD 0xFF) ++ u8 (match s.sys.maint with | some c => c % 8 | none => 0xFF) ++
      u8 (Fx.b2n (noSpareFrond s) + 2 * Fx.b2n (noSpareBank s) + 4 * Fx.b2n s.clk.unset) ++ fnB s.sys.frameNo))) s

/-! ### Rate and frame size (R5, R6, R21, R23, R103, R186, R225) -/

/-- A field of a page can be satisfied in the state `t`, which is `s` at another rate (R5, R6). -/
def fieldFits (s t : State) (p : Nat) (r : PageRec) (id : Nat) (v : Int) : Bool :=
  decide (v = fieldDefault s p r id) ||
  ((fieldRefusal t p id v).isNone && (decide (0x200 ≤ p) || endpointExists (fam t) (p * 256 + id / 4)) &&
    (match fieldOf t p (recGet t p r) id with
     | none => false
     | some f => !f.structural || decide (v ≤ f.hi)))

def pageFits (s t : State) (p : Nat) (r : PageRec) : Bool := r.all fun f => fieldFits s t p r f.1 f.2

/-- An instance can be satisfied at another rate: its block is offered, an ASRC's ratio is in range (R93, R102). -/
def instFits (t : State) (p : Nat) (b : BlockInst) : Bool :=
  (decide (fam t ≠ 2) || offeredAt192 b.kind) && (decide (b.kind ≠ .asrc) || asrcRatioOk t (activeGet t p 2).toNat)

/-- The image of a task has the rate family (R186). -/
def imageFamily (t : State) (e : ExpertTask) : Bool :=
  match Tbl.find t.frond.images e.image with
  | some i => Fx.bit (getLE i.bytes 20 1) (fam t)
  | none => false

/-- Every enabled port's slots, and the rate of every generator in use, suit the new rate (R225 to R227). -/
def portsFit (t : State) : Bool :=
  (t.port.port.all fun e => !(e.2.inOn || e.2.outOn) || decide (frameSlots (portCfg t e.1) ≤ maxSlots (portHz t e.1))) &&
  (t.port.pcg.all fun e => (genUsers t e.1 0xFFFF).isEmpty ||
    (genRefusal t e.1 { n := e.2.n, d := e.2.d, len := e.2.len, phase := e.2.phase, start := e.2.start }).isNone)

/-- Streams, tracks and players fit the new rate: none of them is offered at 176.4 and 192 kHz (R4, R5, R6, R262 to R265). -/
def mediaFit (t : State) : Bool :=
  (t.net.rx.all fun e => (streamRefused t true e.1 e.2.cfg).isNone) && (t.net.tx.all fun e => (streamRefused t false e.1 e.2.cfg).isNone) &&
  (decide (fam t ≠ 2) || (t.net.rx.isEmpty && t.net.tx.isEmpty && (t.peat.track.all fun e => decide (e.2.group = 0) && !e.2.armed) &&
    t.peat.voice.all fun e => decide (e.2.state = 0) && e.2.next.isNone))

/-- The engine at another rate and B. -/
def atRate (rate b : Nat) (s : State) : State := { s with sys := { s.sys with rate := rate, b := b } }

/-- Why the committed configuration cannot run at another rate and B, if it cannot. -/
def rateRefusal (rate b : Nat) (s : State) : Option Reply :=
  let t := atRate rate b s
  if 4 ≤ rate ∧ b = 1 then some (refuse St.noResource)
  else if rate ≠ s.sys.rate ∧ !((s.page.active.all fun e => pageFits s t e.1 e.2) && (s.page.image.all fun e => pageFits s t (e.1 % 65536) e.2) &&
      (s.blk.inst.all fun e => instFits t e.1 e.2) && (s.frond.tasks.all fun e => imageFamily t e.2) && portsFit t && mediaFit t) then
    some (refuse St.noResource)
  else match (weigh t (allViews t)).refusal with
    | some e => some e
    | none => if delayFits t (allViews t) then none else some (refuse St.noResource (reason 0x06 0))

/-- A value above its limit at the new rate, as a clamp record: field ID and page. -/
def pageRateClamp (t : State) (p : Nat) (r : PageRec) (id : Nat) (v : Int) : Option Clamp :=
  match fieldOf t p (recGet t p r) id with
  | some x => if x.kind = .quantity ∧ !x.structural ∧ x.hi < v then
      some { field := id, entry := p, requested := v, applied := x.hi }
    else none
  | none => none

/-- The frequency that a pilot fitted to an output strip generates by default (R99). -/
def pilotDefault (t : State) (p : Nat) (r : PageRec) : List Clamp :=
  if (pageBlock t p).map (·.1) = some .pilot ∧ recGet t p r 3 = 1 ∧ (Tbl.find r 1).isNone then (pageRateClamp t p r 1 2000000).toList else []

/-- Values above their limit at the new rate, the pilot's default among them (R103). The stored values are kept. -/
def rateClamps (t : State) : List Clamp :=
  t.page.active.flatMap fun e => (e.2.filterMap fun f => pageRateClamp t e.1 e.2 f.1 f.2) ++ pilotDefault t e.1 e.2

/-- SYS.RATE (R6, R23, R103). The rate in force is no change. -/
def execSysRate (r : Req) (code : Nat) (s : State) : Host.Outcome State Fault Refusal :=
  serve { code := 0x0103, reach := .shared, maint := true } r (fun r s =>
    if 5 < code then (s, refuse St.conflict)
    else if code = s.sys.rate then (s, done [] (fnB (commitFrame s)))
    else match rateRefusal code s.sys.b s with
      | some e => (s, e)
      | none => changeAt r 0x0103 [.rate code] (rateClamps (atRate code s.sys.b s)) [] s) s

/-- SYS.FRAME_SIZE (R21, R23). -/
def execSysFrameSize (r : Req) (size : Nat) (s : State) : Host.Outcome State Fault Refusal :=
  serve { code := 0x0104, reach := .shared, maint := true } r (fun r s =>
    if !([1, 2, 4, 8, 16, 32].contains size) then (s, refuse St.conflict)
    else if size = s.sys.b then (s, done [] (fnB (commitFrame s)))
    else match rateRefusal s.sys.rate size s with
      | some e => (s, e)
      | none => changeAt r 0x0104 [.frameSize size] [] [] s) s

/-! ### The bulk split (R424) -/

/-- Bytes that each area must hold: what the configuration reserves and its own minimum. -/
def areaNeeds (s : State) : List Nat :=
  let rings := s.frond.tasks.flatMap fun e => (e.2.rings.filter (·.bulk)).map fun r => (r.size + 3) / 4 * 16
  let payload := (s.peat.track.map fun e => slotBytes (writeOf s e.2.group).segCode - 256).foldl max 0
  let pins := (s.peat.clip.filter fun e => e.2.pinned).map fun e => clipBlocks e.2 * 65536
  [delayReserved s (allViews s), ((rxCfgs s).map (bufferBytes s)).foldl (· + ·) 0, 3145728 + rings.foldl (· + ·) 0,
   s.peat.track.length * 2 * payload, pins.foldl (· + ·) 0 + 4194304, 4194304]

/-- SYS.MEMORY_SPLIT (R424): local, for the next reset. -/
def execSysMemorySplit (r : Req) (op : Nat) (sizes : List Nat) (s : State) : Host.Outcome State Fault Refusal :=
  serve { code := 0x0105, reach := if op = 1 then .here else .read } r (fun r s =>
    let report := fun (s : State) => (s.sys.nextSplit ++ s.sys.split).flatMap u32
    if op = 1 then
      if sizes.length ≠ 6 then (badLength s, refuse St.badLen)
      else if sizes.foldl (· + ·) 0 ≠ 192 then (s, refuse St.noResource)
      else match (List.range 6).find? fun i => decide (sizes.getD i 0 * 1048576 < (areaNeeds s).getD i 0) with
        | some i => (s, refuse St.noResource (reason 0x06 i))
        | none => readOrSet op (fun s => ({ s with sys := { s.sys with nextSplit := sizes } }, [])) report r s
    else readOrSet op (fun s => (s, [])) report r s) s

/-! ### Maintenance, clients, events -/

/-- SYS.MAINTENANCE (R466): at once on an engine that does not forward it, with the frame of the next boundary. -/
def execSysMaintenance (r : Req) (op : Nat) (s : State) : Host.Outcome State Fault Refusal :=
  serve { code := 0x0106, reach := .shared, right := if op = 1 then 2 else 0 } r (fun r s =>
    let taken := match s.sys.maint with | some c => decide (c ≠ r.slot) | none => false
    if 1 < op then (s, refuse St.conflict)
    else if taken then (s, refuse St.conflict (reason 0x0B (s.sys.maint.getD 0 % 8)))
    else
      let c : Change := .maint (if op = 1 then some r.slot else none)
      if forwards s then changeAt r 0x0106 [c] [] [] s
      else (applyChange c s, done [] (fnB (commitFrame s)))) s

/-- The report of SYS.CLIENT: the command itself is no longer in progress. -/
def clientReport (own : Nat) (s : State) : List Byte :=
  u32 s.mbx.liveness ++ (List.range 8).flatMap fun c =>
    let sl := slotOf s c
    u8 sl.state ++ u8 sl.path ++ u8 sl.rights ++ u8 (inProgress sl - Fx.b2n (decide (c = own))) ++ u32 sl.tag ++
      u32 ((s.mbx.evProd + 2 ^ 32 - sl.evCons) % 2 ^ 32)

/-- SYS.CLIENT (R448). -/
def execSysClient (r : Req) (op secs : Nat) (s : State) : Host.Outcome State Fault Refusal :=
  serve { code := 0x0107, reach := if op = 1 then .here else .read } r (fun r s =>
    readOrSet op (fun s =>
      let (v, cl) := clampField 1 0 1 600 secs
      ({ s with mbx := { s.mbx with liveness := v.toNat } }, cl)) (clientReport r.slot) r s) s

/-- SYS.EVENTS_READ (R462): the entries that the ring holds, oldest first. -/
def execSysEventsRead (r : Req) (s : State) : Host.Outcome State Fault Refusal :=
  serve { code := 0x0109 } r (fun _ s =>
    let n := min 256 s.mbx.evProd
    let first := s.mbx.evProd - n
    (s, done [] (u32 first ++ u16 n) ((List.range n).flatMap fun i => s.mem.mbx.readBytes (0x8200 + (first + i) % 256 * 64) 64))) s

/-- SYS.EVENTS (R465): the mask of this slot or session. -/
def execSysEvents (r : Req) (op mask : Nat) (s : State) : Host.Outcome State Fault Refusal :=
  serve { code := 0x010A, reach := if op = 1 then .here else .read } r (fun r s =>
    readOrSet op (fun s => (putSlot r.slot { slotOf s r.slot with evMask := mask } s, []))
      (fun s => le 32 (slotOf s r.slot).evMask) r s) s

/-- SYS.LAST_APPLIED (R468): what this engine keeps of the transactions of an origin and slot. A number that is not among
fewer than 64 kept was not applied; among 64 kept it may have been before them. -/
def execSysLastApplied (r : Req) (origin former of_ : Nat) (s : State) : Host.Outcome State Fault Refusal :=
  serve { code := 0x010D } r (fun _ s =>
    let mine := s.pair.applied.filter fun t => decide (t.origin = origin) && decide (t.slot = former)
    let known := decide (origin = Config.serial.toNat) || (match s.pair.partner with | some h => decide (h.serial = origin) | none => false)
    match mine.find? fun t => t.seq = of_ with
    | some t => (s, done [] (u8 (if t.frame.isSome then 1 else 2) ++ u8 t.status ++ fnB (t.frame.getD 0)))
    | none => (s, done [] (u8 (if known ∧ former < 8 ∧ mine.length < 64 then 2 else 0) ++ u8 0 ++ fnB 0))) s

/-! ### Chunked objects (R459, R460, R476) -/

/-- An open object of a slot. -/
def objectOf (s : State) (slot handle : Nat) : Option Object :=
  match Tbl.find s.mbx.objects handle with
  | some o => if o.slot = slot then some o else none
  | none => none

def dropHandle (handle : Nat) (s : State) : State := { s with mbx := { s.mbx with objects := Tbl.erase s.mbx.objects handle } }

/-- A command on an object: a firmware image is this engine's own, every other object changes what the pair shares. -/
def objectCmd (code : Nat) (s : State) (slot handle : Nat) : Cmd :=
  let kind := (objectOf s slot handle).map (·.kind)
  { code := code, reach := if kind = some .firmware then .here else .shared }

/-- SYS.OBJECT_CHUNK (R459). -/
def execSysObjectChunk (r : Req) (handle offset : Nat) (bytes : List Byte) (s : State) : Host.Outcome State Fault Refusal :=
  serve (objectCmd 0x0110 s r.slot handle) r (fun r s =>
    match objectOf s r.slot handle with
    | none => (s, refuse St.expired)
    | some o =>
      if o.length < offset + bytes.length then (s, refuse St.badLen)
      else
        let data := ((List.range bytes.length).zip bytes).foldl (fun d e => Tbl.put d (offset + e.1) e.2) o.data
        ({ s with mbx := { s.mbx with objects := Tbl.put s.mbx.objects handle { o with data := data, touched := s.clk.raw } } }, done [] [])) s

/-- The owning command's commit (R476). -/
def commitObject (r : Req) (kind : ObjKind) (bs : List Byte) (s : State) : State × Reply :=
  match kind with
  | .scene n flags name => commitScene r 0x0111 n flags name bs s
  | .taps list page => pageWrite r 0x0111 list true (planTaps page bs) s
  | .clip n rate => commitClip r 0x0111 n rate bs s
  | .image => if isReady s Fn.fronds then commitImage r 0x0111 bs s else (s, refuse St.notReady (reason 0x09 Fn.fronds))
  | .firmware => commitFirmware bs s

/-- SYS.OBJECT_COMMIT (R459): every byte there, the CRC, then the object's own checks; the object ends either way. -/
def execSysObjectCommit (r : Req) (handle length crc : Nat) (s : State) : Host.Outcome State Fault Refusal :=
  serve (objectCmd 0x0111 s r.slot handle) r (fun r s =>
    match objectOf s r.slot handle with
    | none => (s, refuse St.expired)
    | some o =>
      let s := dropHandle handle s
      let bs := (List.range length).map fun i => Tbl.getD o.data i 0
      if length ≠ o.length ∨ o.data.length ≠ length then (s, refuse St.badLen)
      else if crc32c bs ≠ crc then (s, refuse St.badCrc)
      else commitObject r o.kind bs s) s

/-- SYS.OBJECT_ABORT (R476). -/
def execSysObjectAbort (r : Req) (handle : Nat) (s : State) : Host.Outcome State Fault Refusal :=
  serve (objectCmd 0x0112 s r.slot handle) r (fun r s =>
    if (objectOf s r.slot handle).isSome then (dropHandle handle s, done [] []) else (s, refuse St.expired)) s

/-- OBJECT_ABANDON (R460): no chunk and no COMMIT for 30 s. -/
def execObjectAbandon (handle : Nat) (s : State) : Host.Outcome State Fault Refusal :=
  .next (match Tbl.find s.mbx.objects handle with
    | none => s
    | some o => dropHandle handle (advanceTo (o.touched + msTicks 30000) s))

end Sys2Proof.Machine
end

