-- ==== Sys2Proof/Machine/MailCmds.lean ====
section
/-!
DEFINITION. Messages: how the bytes of a request spell a command (R452, R470, R471, R475 to R493), how the engine takes
messages from rings and datagrams (R450 to R455, R464, R469), and the timer of long commands (R456).
-/
namespace Sys2Proof.Machine
open Sys2Proof

/-! ### Reading fields (R470) -/

/-- Bytes still to read, the data reference found so far, and that the endpoint could not read what it names. -/
structure Reading where
  bytes : List Byte
  ref : Option DataRef := none
  bad : Bool := false
  deriving DecidableEq, Repr

/-- What ends a reading: the length does not match (R469), or a reserved field is not zero (R470). -/
inductive Misread where
  | length | reserved
  deriving DecidableEq, Repr

abbrev Parse (α : Type) := StateT Reading (Except Misread) α

/-- The bytes behind a data reference, none where the host's memory fails to answer (R452). -/
abbrev Fetch := DataRef → Option (List Byte)

/-- What a request runs once its header is known. -/
abbrev Run := Req → State → Host.Outcome State Fault Refusal

def bytes (n : Nat) : Parse (List Byte) := do
  let r ← get
  let b := r.bytes.take n
  if b.length < n then throw .length
  set { r with bytes := r.bytes.drop n }
  pure b

def uint (n : Nat) : Parse Nat := do pure (fromLE (← bytes n))
def sint (n : Nat) : Parse Int := do pure (Fx.toSigned (8 * n) (fromLE (← bytes n)))
def u8f : Parse Nat := uint 1
def u16f : Parse Nat := uint 2
def u32f : Parse Nat := uint 4
def u64f : Parse Nat := uint 8
def s32f : Parse Int := sint 4

/-- A reserved field (R470). -/
def zeros (n : Nat) : Parse Unit := do
  let v ← uint n
  if v ≠ 0 then throw .reserved

def many {α : Type} : Nat → Parse α → Parse (List α)
  | 0, _ => pure []
  | n + 1, p => do
    let a ← p
    let as ← many n p
    pure (a :: as)

/-- The fields of a setting follow when the operation is not a read (R475). -/
def setting {α : Type} (op : Nat) (dflt : α) (p : Parse α) : Parse α := if op = 0 then pure dflt else p

/-- A data reference (R452). -/
def dataRef : Parse DataRef := do
  let place ← u8f
  zeros 3
  let length ← u32f
  let address ← u64f
  pure { place := place, length := length, address := address }

/-- A `ref` of a layout: it closes the fields; a request whose payload begins with its reference may leave it out. -/
def refField : Parse Unit := do
  let r ← get
  if r.bytes = [] then
    if r.ref.isNone then throw .length
  else
    let d ← dataRef
    modify fun r => { r with ref := some d }

/-- The data behind the reference. -/
def refBytes (fetch : Fetch) : Parse (List Byte) := do
  let r ← get
  match r.ref with
  | none => throw .length
  | some d => match fetch d with
    | some bs => pure bs
    | none =>
      set { r with bad := true }
      pure (List.replicate d.length 0)

/-- An array of n entries of a size: inline, or behind the reference where it does not fit (R471). -/
def array {α : Type} (fetch : Fetch) (n size : Nat) (p : Parse α) : Parse (List α) := do
  let r ← get
  if r.bytes = [] ∧ n ≠ 0 ∧ r.ref.isSome then
    let bs ← refBytes fetch
    if bs.length < n * size then throw .length
    modify fun r => { r with bytes := bs.take (n * size) }
    many n p
  else many n p

/-- Data to the end of the payload, or behind the reference. -/
def tail (fetch : Fetch) : Parse (List Byte) := do
  let r ← get
  if r.bytes = [] ∧ r.ref.isSome then refBytes fetch
  else
    set { r with bytes := [] }
    pure r.bytes

/-- The end of the layout. -/
def endRun (f : Run) : Parse Run := do
  let r ← get
  if r.bytes = [] then pure f else throw .length

/-! ### Compound fields (R478 to R493) -/

def ntf : Parse NetTime := do
  let sec ← u64f
  let ns ← u32f
  pure { sec := sec, ns := ns }

def noTime : NetTime := { sec := 0, ns := 0 }

def routeOp : Parse RouteOp := do
  let op ← u8f; let flags ← u8f; let len ← u16f; let src ← u32f; let sink ← u32f
  pure { op := op, flags := flags, len := len, src := src, sink := sink }

def pairField : Parse Pair := do
  let id ← u16f; let value ← s32f
  pure { id := id, value := value }

/-- Pairs to the end of the payload. -/
def pairsToEnd : Parse (List Pair) := do
  let r ← get
  many (Fx.ceilDiv r.bytes.length 6) pairField

def gainOp : Parse GainOp := do
  let lane ← u16f; let input ← u16f; let level ← s32f; let flags ← u8f; let prec ← u8f
  pure { lane := lane, input := input, level := level, flags := flags, prec := prec }

def busSet : Parse BusSet := do
  let trim ← s32f; let flags ← u8f; zeros 1; let ramp ← u16f; let threshold ← s32f; let knee ← s32f
  let release ← u32f; let step ← s32f; let timeout ← u32f
  pure { trim := trim, flags := flags, ramp := ramp, threshold := threshold, knee := knee, release := release, step := step, timeout := timeout }

/-- What SCENE.CAPTURE's selector brings. -/
def captureFields (selector : Nat) : Parse (Nat × Nat) := do
  match selector with
  | 0 => let m ← u32f; pure (m, 0)
  | 1 => let a ← u16f; let b ← u16f; pure (a, b)
  | 2 => let l ← u8f; pure (l, 0)
  | _ => set { (← get) with bytes := [] }; pure (0, 0)

def portFields : Parse PortFields := do
  let format ← u8f; let width ← u8f; let slots ← u8f; let role ← u8f; let gen ← u8f; let rate ← u8f; let flags ← u8f
  pure { format := format, width := width, slots := slots, role := role, gen := gen, rate := rate, flags := flags }

def portSlot : Parse PortSlot := do
  let port ← u8f; let slot ← u8f
  pure { port := port, slot := slot }

def genFields : Parse GenFields := do
  let n ← u16f; let d ← u16f; let len ← u16f; let phase ← u8f; let start ← u8f
  pure { n := n, d := d, len := len, phase := phase, start := start }

def netFields : Parse NetFields := do
  let speed ← u8f; let fec ← u8f; let flags ← u8f; let ip ← u32f; let prefixLen ← u8f; let gateway ← u32f; let vlan ← u16f
  let ttl ← u8f; let seril ← u16f
  pure { speed := speed, fec := fec, flags := flags, ip := ip, prefixLen := prefixLen, gateway := gateway, vlan := vlan, ttl := ttl, seril := seril }

def streamFields : Parse StreamFields := do
  let first ← u16f; let channels ← u8f; let enc ← u8f; let ptime ← u8f; let ptype ← u8f
  pure { first := first, channels := channels, enc := enc, ptime := ptime, ptype := ptype }

def txPath : Parse StreamPath := do
  let port ← u8f; zeros 1; let udp ← u16f; let dst ← u32f
  pure { port := port, udp := udp, dst := dst, src := 0 }

def rxPath : Parse StreamPath := do
  let p ← txPath
  let src ← u32f
  pure { p with src := src }

/-- The SDP text of STREAM.RX, where its flag says so. -/
def sdpBytes (fetch : Fetch) (flags : Nat) : Parse (List Byte) := if Fx.bit flags 0 then refBytes fetch else pure []

def classFields : Parse ClassFields := do
  let pcp ← u8f; let dscp ← u8f
  pure { pcp := pcp, dscp := dscp }

def gateFields : Parse GateFields := do
  let op ← u8f; let states ← u8f; zeros 2; let interval ← u32f
  pure { op := op, states := states, interval := interval }

def entryFields : Parse EntryFields := do
  let valid ← u8f; let port ← u8f; let udp ← u16f; let dst ← u32f; let src ← u32f; let stream ← u16f; let path ← u8f
  zeros 1
  let _ ← bytes 8
  pure { valid := valid, port := port, udp := udp, dst := dst, src := src, stream := stream, path := path }

def refFields : Parse RefFields := do
  let priority ← u8f; zeros 1; let window ← u16f; let restore ← u16f
  pure { priority := priority, window := window, restore := restore }

def ptpFields : Parse PtpFields := do
  let ports ← u8f; let profile ← u8f; let domain ← u8f; let logSync ← sint 1; let logAnnounce ← sint 1; let timeout ← u8f
  let logDelayReq ← sint 1; let p1 ← u8f; let p2 ← u8f; let mechanism ← u8f; let role ← u8f; let flags ← u8f; let limit ← u32f
  let asym ← many 5 s32f
  pure { ports := ports, profile := profile, domain := domain, logSync := logSync, logAnnounce := logAnnounce
         announceTimeout := timeout, logDelayReq := logDelayReq, priority1 := p1, priority2 := p2, mechanism := mechanism
         role := role, flags := flags, holdoverLimit := limit, asym := asym }

def noPtp : PtpFields :=
  { ports := 0, profile := 0, domain := 0, logSync := 0, logAnnounce := 0, announceTimeout := 0, logDelayReq := 0, priority1 := 0
    priority2 := 0, mechanism := 0, role := 0, flags := 0, holdoverLimit := 0, asym := [] }

def triggerFields : Parse TriggerFields := do
  let action ← u8f; let pin ← u8f; let polarity ← u8f; zeros 1; let time ← ntf; let period ← u64f; let width ← u32f
  pure { action := action, pin := pin, polarity := polarity, time := time, period := period, width := width }

def servoFields : Parse ServoFields := do
  let stepThr ← u32f; let slope ← u32f; let bw ← many 4 u32f; let damping ← s32f
  let gains ← many 4 (do let a ← u32f; let b ← u32f; pure (a, b))
  let alignTol ← u32f; let avgWindow ← u32f
  pure { stepThr := stepThr, slope := slope, bw := bw, damping := damping, gains := gains, alignTol := alignTol, avgWindow := avgWindow }

def noServo : ServoFields := { stepThr := 0, slope := 0, bw := [], damping := 0, gains := [], alignTol := 0, avgWindow := 0 }

def faultName : Parse FaultName := do
  let source ← u16f; let kind ← u8f; zeros 1
  pure { source := source, kind := kind }

def reaction : Parse Reaction := do
  let kind ← u8f; zeros 3; let value ← u32f
  pure { kind := kind, value := value }

def moverOp : Parse MoverOp := do
  let sink ← u32f; let src ← u32f; let len ← u16f; let prev ← u8f; zeros 1
  pure { sink := sink, src := src, len := len, prev := prev }

/-- The data of a pass-through write: an opcode that moves data to the controller (R386). -/
def passData (fetch : Fetch) (entry : List Byte) : Parse (List Byte) :=
  if fromLE (entry.take 1) % 2 = 1 then refBytes fetch else pure []

/-- Values of EXPERT.ARB_WRITE: bytes, or one word for the operations of a single figure. -/
def arbWords (fetch : Fetch) (op n : Nat) : Parse (List Nat) :=
  if op = 2 ∨ op = 3 then many 1 u32f else array fetch n 1 u8f

/-! ### The command codes (R477) -/

/-- The requests of group SYS (R478), by the low byte of the code. -/
def sysRequest (fetch : Fetch) (host : List (Nat × Byte)) (code : Nat) : Option (Parse Run) :=
  match code with
  | 0x01 => some (do endRun fun r s => execSysIdentify r s)
  | 0x02 => some (do endRun fun r s => execSysStatus r s)
  | 0x03 => some (do let c ← u8f; endRun fun r s => execSysRate r c s)
  | 0x04 => some (do let c ← u8f; endRun fun r s => execSysFrameSize r c s)
  | 0x05 => some (do let op ← u8f; let v ← setting op [] (many 6 u32f); endRun fun r s => execSysMemorySplit r op v s)
  | 0x06 => some (do let op ← u8f; endRun fun r s => execSysMaintenance r op s)
  | 0x07 => some (do let op ← u8f; let v ← setting op 0 u32f; endRun fun r s => execSysClient r op v s)
  | 0x08 => some (do let q ← u32f; let o ← u32f; refField; endRun fun r s => execSysResultRead r q o s)
  | 0x09 => some (do refField; endRun fun r s => execSysEventsRead r s)
  | 0x0A => some (do let op ← u8f; let m ← setting op 0 (uint 32); endRun fun r s => execSysEvents r op m s)
  | 0x0C => some (do endRun fun r s => execSysSessionClose r s)
  | 0x0D => some (do let o ← u64f; let c ← u8f; let q ← u32f; endRun fun r s => execSysLastApplied r o c q s)
  | 0x10 => some (do let h ← u32f; let o ← u32f; let b ← tail fetch; endRun fun r s => execSysObjectChunk r h o b s)
  | 0x11 => some (do let h ← u32f; let n ← u32f; let c ← u32f; endRun fun r s => execSysObjectCommit r h n c s)
  | 0x12 => some (do let h ← u32f; endRun fun r s => execSysObjectAbort r h s)
  | 0x0B => some (do let _ ← bytes 16; endRun fun r s => serve { code := 0x010B } r (fun _ s => (s, refuse St.conflict)) s)
  | _ => none

/-- The requests of group ROUTE (R479), by the low byte of the code. -/
def routeRequest (fetch : Fetch) (host : List (Nat × Byte)) (code : Nat) : Option (Parse Run) :=
  match code with
  | 0x01 => some do
      let l ← u8f; let a ← u32f; let b ← u32f; let n ← u16f; let f ← u8f
      endRun fun r s => execRouteConnect r l a b n f s
  | 0x02 => some (do let l ← u8f; let b ← u32f; endRun fun r s => execRouteDisconnect r l b s)
  | 0x03 => some do
      let l ← u8f; let n ← u16f; let es ← array fetch n 12 routeOp
      endRun fun r s => execRouteBatch r l es s
  | 0x04 => some (do let b ← u32f; endRun fun r s => execRouteQuery r b s)
  | 0x05 => some (do let a ← u32f; let n ← u32f; endRun fun r s => execRouteFanout r a n s)
  | 0x06 => some (do endRun fun r s => execRouteCount r s)
  | 0x07 => some (do let a ← u32f; let b ← u32f; refField; endRun fun r s => execRouteLatency r a b s)
  | 0x08 => some (do let op ← u8f; let n ← setting op 0 u16f; endRun fun r s => execRouteXfadeDefault r op n s)
  | _ => none

/-- The requests of group STRIP and BLOCK (R480), by the low byte of the code. -/
def blockRequest (fetch : Fetch) (host : List (Nat × Byte)) (code : Nat) : Option (Parse Run) :=
  match code with
  | 0x01 => some do
      let l ← u8f; let t ← u8f; let g ← u8f; let n ← u8f; let ps ← pairsToEnd
      endRun fun r s => execBlockCreate r l t g n ps s
  | 0x02 => some (do let l ← u8f; let p ← u16f; let f ← u8f; endRun fun r s => execBlockDelete r l p f s)
  | 0x03 => some do
      let l ← u8f; let p ← u16f; let n ← u8f; let ps ← array fetch n 6 pairField
      endRun fun r s => execBlockReshape r l p ps s
  | 0x04 => some do
      let l ← u8f; let p ← u16f; let n ← u16f; let ps ← array fetch n 6 pairField
      endRun fun r s => execBlockParam r l p ps s
  | 0x05 => some (do let p ← u16f; let b ← u8f; endRun fun r s => execBlockParamRead r p b s)
  | 0x06 => some (do let l ← u8f; let n ← u32f; let p ← u16f; endRun fun r s => execBlockTaps r l n p s)
  | 0x07 => some (do let n ← u16f; let ms ← array fetch n 2 u16f; endRun fun r s => execBlockMeterRead r ms s)
  | 0x08 => some (do let k ← u8f; let a ← u16f; let n ← u16f; endRun fun r s => execStripMeterRead r k a n s)
  | _ => none

/-- The requests of group MIX (R482), by the low byte of the code. -/
def mixRequest (fetch : Fetch) (host : List (Nat × Byte)) (code : Nat) : Option (Parse Run) :=
  match code with
  | 0x01 => some do
      let l ← u8f; let i ← u16f; let a ← u32f; let n ← u16f; let t ← s32f; let h ← u32f
      endRun fun r s => execMixSelect r l i a n t h s
  | 0x02 => some (do let l ← u8f; let e ← gainOp; endRun fun r s => execMixGain r l e s)
  | 0x03 => some do
      let l ← u8f; let n ← u16f; let es ← array fetch n 12 (do let e ← gainOp; zeros 2; pure e)
      endRun fun r s => execMixGainBatch r l es s
  | 0x04 => some (do let l ← u8f; let n ← u16f; let b ← busSet; endRun fun r s => execMixBus r l n b s)
  | 0x05 => some do
      let l ← u8f; let n ← u16f; let v ← u8f; let k ← u8f; let d ← s32f; let a ← u32f; let b ← u32f
      let ts ← array fetch k 4 u32f
      endRun fun r s => execMixPrecedence r l n v d a b ts s
  | 0x06 => some (do let l ← u8f; let a ← uint 32; let b ← uint 32; endRun fun r s => execMixFlag r l a b s)
  | 0x07 => some (do let k ← u8f; let n ← u16f; let i ← u16f; endRun fun r s => execMixQuery r k n i s)
  | 0x08 => some (do let n ← u16f; endRun fun r s => execMixBusStatus r n s)
  | _ => none

/-- The requests of group SCENE (R483), by the low byte of the code. -/
def sceneRequest (fetch : Fetch) (host : List (Nat × Byte)) (code : Nat) : Option (Parse Run) :=
  match code with
  | 0x01 => some do
      let t ← u32f; let n ← u16f; let f ← u8f; let m ← bytes 32
      endRun fun r s => execSceneStore r t n f m s
  | 0x02 => some do
      let n ← u16f; let f ← u8f; let m ← bytes 32; let k ← u8f; let ab ← captureFields k
      endRun fun r s => execSceneCapture r n f m k ab.1 ab.2 s
  | 0x03 => some (do let n ← u16f; endRun fun r s => execSceneDelete r n s)
  | 0x04 => some (do let n ← u16f; refField; endRun fun r s => execSceneDirectory r n s)
  | 0x05 => some (do let n ← u16f; let f ← u8f; endRun fun r s => execSceneRecall r n f s)
  | 0x06 => some (do let n ← u16f; let f ← u8f; let t ← ntf; endRun fun r s => execSceneArm r n f t s)
  | 0x07 => some (do let a ← u16f; endRun fun r s => execSceneDisarm r a s)
  | 0x08 => some (do endRun fun r s => execSceneStatus r s)
  | 0x09 => some (do let op ← u8f; let w ← setting op 0 u32f; endRun fun r s => execSceneLateWindow r op w s)
  | 0x0A => some (do let op ← u8f; let k ← u32f; let n ← u16f; endRun fun r s => execSceneArea r op k n s)
  | 0x0B => some (do let i ← u8f; let n ← u16f; let m ← u8f; endRun fun r s => execSceneEmergAssign r i n m s)
  | 0x0C => some (do let i ← u8f; endRun fun r s => execSceneEmergClear r i s)
  | 0x0D => some (do endRun fun r s => execSceneListOpen r s)
  | 0x0E => some (do let n ← u8f; let f ← u8f; let t ← ntf; endRun fun r s => execSceneListCommit r n f t s)
  | 0x0F => some (do let n ← u8f; endRun fun r s => execSceneListDiscard r n s)
  | _ => none

/-- The requests of group PORT (R485), by the low byte of the code. -/
def portRequest (fetch : Fetch) (host : List (Nat × Byte)) (code : Nat) : Option (Parse Run) :=
  match code with
  | 0x01 => some (do let p ← u8f; let f ← portFields; endRun fun r s => execPortConfig r p f s)
  | 0x02 => some (do let p ← u8f; let d ← u8f; endRun fun r s => execPortEnable r p d s)
  | 0x03 => some do
      let l ← u8f; let p ← u8f; let d ← u8f; let m ← u32f; let n ← u8f
      endRun fun r s => execPortMask r l p d m n s
  | 0x04 => some (do let a ← u8f; let n ← u8f; endRun fun r s => execPortStatus r a n s)
  | 0x05 => some (do let op ← u8f; let p ← u8f; let t ← setting op 0 u32f; endRun fun r s => execPortRate r op p t s)
  | 0x06 => some (do let op ← u8f; let p ← u8f; let n ← setting op 0 u16f; endRun fun r s => execPortTimestamps r op p n s)
  | 0x07 => some (do let o ← u8f; let g ← u8f; let m ← u16f; endRun fun r s => execPortMclk r o g m s)
  | 0x08 => some do
      let p ← u8f; let d ← u8f; let m ← u32f; let k ← u8f; let i ← u32f; let n ← u8f; let ts ← array fetch n 2 u16f
      endRun fun r s => execPortMark r p d m k i ts s
  | 0x09 => some do
      let p ← u8f; let n ← u8f; let f ← u8f; let i ← u32f; let q ← u8f; let k ← u8f; let t ← u16f
      endRun fun r s => execPortExpect r p n { flags := f, sender := i, port := q, slot := k, tag := t } s
  | 0x0A => some do
      let a ← u16f; let b ← u16f; let es ← array fetch (a + b) 2 portSlot
      endRun fun r s => execPortProof r (es.take a) (es.drop a) s
  | 0x0B => some do
      let op ← u8f; let g ← u8f; let f ← setting op { n := 0, d := 0, len := 0, phase := 0, start := 0 } genFields
      endRun fun r s => execPortClkgen r op g f s
  | 0x0C => some do
      let l ← u8f; let p ← u8f; let n ← u8f; let b ← bytes 23
      endRun fun r s => execPortMarkRaw r l p n b s
  | _ => none

/-- The requests of group NET and STREAM (R486), by the low byte of the code. -/
def netRequest (fetch : Fetch) (host : List (Nat × Byte)) (code : Nat) : Option (Parse Run) :=
  match code with
  | 0x01 => some (do let p ← u8f; let f ← netFields; endRun fun r s => execNetConfig r p f s)
  | 0x02 => some (do let p ← u8f; endRun fun r s => execNetStatus r p s)
  | 0x03 => some do
      let l ← u8f; let i ← u16f; let f ← streamFields; let o ← u32f; let x ← u32f; let n ← u8f
      let ps ← array fetch n 8 txPath
      endRun fun r s => execStreamTx r l i f o x ps s
  | 0x04 => some do
      let l ← u8f; let i ← u16f; let f ← streamFields; let k ← u32f; let m ← u32f; let g ← u8f; let n ← u8f
      let ps ← many n rxPath; let t ← sdpBytes fetch g
      endRun fun r s => execStreamRx r l i f k m g ps t s
  | 0x05 => some (do let l ← u8f; let i ← u16f; let d ← u8f; endRun fun r s => execStreamDelete r l i d s)
  | 0x06 => some (do let i ← u16f; let d ← u8f; endRun fun r s => execStreamStatus r i d s)
  | 0x07 => some (do let i ← u16f; refField; endRun fun r s => execStreamSdp r i s)
  | 0x08 => some do
      let op ← u8f; let c ← setting op [] (many 4 classFields); let q ← setting op 0 u8f
      endRun fun r s => execNetClasses r op c q s
  | 0x09 => some do
      let p ← u8f; let op ← u8f; let t ← ntf; let c ← u32f; let n ← u16f; let es ← array fetch n 8 gateFields
      endRun fun r s => execNetGates r p op t c es s
  | 0x0A => some do
      let op ← u8f; let p ← u8f; let a ← setting op 0 u8f; let b ← setting op 0 u8f; let c ← setting op 0 u8f
      let d ← setting op 0 u8f
      endRun fun r s => execNetPreempt r op p a b c d s
  | 0x0B => some do
      let op ← u8f; let a ← u16f; let n ← u16f; let es ← array fetch (if op = 1 then n else 0) 24 entryFields
      endRun fun r s => execNetStreamTable r op a n es s
  | 0x0C => some (do let p ← u8f; refField; endRun fun r s => execNetHashRead r p s)
  | _ => none

/-- The requests of group TIME and CLOCK (R487), by the low byte of the code. -/
def timeRequest (fetch : Fetch) (host : List (Nat × Byte)) (code : Nat) : Option (Parse Run) :=
  match code with
  | 0x01 => some (do endRun fun r s => execTimeStatus r s)
  | 0x02 => some (do endRun fun r s => execTimeNow r s)
  | 0x03 => some (do let t ← ntf; endRun fun r s => execTimeSet r t s)
  | 0x04 => some do
      let op ← u8f; let cs ← setting op [] (many 11 refFields); let p ← setting op 0 u8f
      endRun fun r s => execTimeReferences r op cs p s
  | 0x05 => some (do let op ← u8f; let f ← setting op noPtp ptpFields; endRun fun r s => execTimePtp r op f s)
  | 0x06 => some (do let n ← u8f; let op ← u8f; let f ← triggerFields; endRun fun r s => execTimeTrigger r n op f s)
  | 0x07 => some (do let op ← u8f; let v ← many 5 (sint 8); endRun fun r s => execTimeHoldover r op v s)
  | 0x08 => some (do let op ← u8f; endRun fun r s => execClockRealign r op s)
  | 0x09 => some do
      let op ← u8f; let a ← setting op 0 u8f; let b ← setting op 0 u8f; let c ← setting op 0 u8f; let w ← setting op 0 u32f
      endRun fun r s => execClockOutputs r op a b c w s
  | 0x0A => some (do let op ← u8f; let f ← setting op noServo servoFields; endRun fun r s => execTimeServo r op f s)
  | 0x0B => some (do let op ← u8f; let v ← sint 8; let o ← u64f; endRun fun r s => execTimeDirect r op v o s)
  | 0x0C => some (do let m ← u8f; let v ← s32f; endRun fun r s => execClockPhaseStep r m v s)
  | _ => none

/-- The requests of group PAIR (R488), by the low byte of the code. -/
def pairRequest (fetch : Fetch) (host : List (Nat × Byte)) (code : Nat) : Option (Parse Run) :=
  match code with
  | 0x01 => some do
      let op ← u8f; let a ← setting op 0 u8f; let b ← setting op 0 u8f; let c ← setting op 0 u8f
      let _ ← setting op () (zeros 1); let t ← setting op 0 u32f
      endRun fun r s => execPairConfig r op a b c t s
  | 0x02 => some (do let f ← u8f; refField; endRun fun r s => execPairStatus r f s)
  | 0x03 => some (do let f ← u8f; endRun fun r s => execPairSwitch r f s)
  | 0x04 => some (do endRun fun r s => execPairRetry r s)
  | 0x05 => some do
      let op ← u8f; let a ← setting op 0 u32f; let b ← setting op 0 u32f; let c ← setting op 0 u16f
      let d ← setting op 0 (sint 2)
      endRun fun r s => execPairLink r op a b c d s
  | 0x06 => some (do endRun fun r s => execPairResync r s)
  | 0x07 => some (do refField; endRun fun r s => execPairSignatures r s)
  | _ => none

/-- The requests of group FAULT, SUPV and TEST (R490), by the low byte of the code. -/
def faultRequest (fetch : Fetch) (host : List (Nat × Byte)) (code : Nat) : Option (Parse Run) :=
  match code with
  | 0x01 => some (do let g ← u8f; let a ← u32f; let n ← u16f; refField; endRun fun r s => execFaultLogRead r g a n s)
  | 0x02 => some (do refField; endRun fun r s => execFaultActive r s)
  | 0x03 => some (do let n ← u16f; let es ← array fetch n 4 faultName; endRun fun r s => execFaultClear r es s)
  | 0x04 => some do
      let op ← u8f; let es ← setting op [] (do let n ← u16f; array fetch n 8 reaction)
      endRun fun r s => execFaultReaction r op es s
  | 0x05 => some (do let op ← u8f; let v ← setting op 0 u8f; endRun fun r s => execFaultPinLevel r op v s)
  | 0x06 => some (do let op ← u8f; let v ← setting op 0 u8f; endRun fun r s => execFaultRetryLimit r op v s)
  | 0x07 => some do
      let d ← u8f; let a ← u16f; let b ← u16f; let c ← u16f; let n ← u8f
      endRun fun r s => execSupvZone r d a b c n s
  | 0x08 => some (do let d ← u8f; endRun fun r s => execSupvCalibrate r d s)
  | 0x09 => some (do let a ← u8f; let n ← u8f; endRun fun r s => execSupvStatus r a n s)
  | 0x0A => some do
      let op ← u8f; let e ← setting op 0 u8f; let t ← setting op noTime ntf; let p ← setting op 0 u32f
      let n ← setting op 0 u32f; let k ← setting op 0 u16f
      endRun fun r s => execSupvNightly r op e t p n k s
  | 0x0B => some (do endRun fun r s => execTestNightlyNow r s)
  | 0x0C => some (do let m ← u16f; endRun fun r s => execTestMarch r m s)
  | 0x0D => some (do refField; endRun fun r s => execTestRepairs r s)
  | 0x0E => some (do let f ← u8f; zeros 1; let e ← u16f; let p ← u32f; endRun fun r s => execTestInject r f e p s)
  | _ => none

/-- The requests of group PEAT (R491), by the low byte of the code. -/
def peatRequest (fetch : Fetch) (host : List (Nat × Byte)) (code : Nat) : Option (Parse Run) :=
  match code with
  | 0x01 => some (do refField; endRun fun r s => execPeatStatus r s)
  | 0x02 => some do
      let c ← u8f; let g ← u8f; let k ← u8f; let z ← u8f; let b ← u32f; let f ← u8f
      endRun fun r s => execPeatFormat r c g k z b f s
  | 0x03 => some (do let a ← u16f; let n ← u16f; let g ← u8f; let m ← u8f; endRun fun r s => execPeatTrack r a n g m s)
  | 0x04 => some (do let op ← u8f; let d ← setting op 0 u16f; endRun fun r s => execPeatRetention r op d s)
  | 0x05 => some do
      let op ← u8f; let g ← u8f; let a ← u32f; let b ← u32f; let t ← ntf; let u ← ntf
      endRun fun r s => execPeatHold r op g a b t u s
  | 0x06 => some (do let g ← u8f; endRun fun r s => execPeatChainHead r g s)
  | 0x07 => some do
      let g ← u8f; let c ← u8f; let k ← u8f; let t ← ntf; let n ← u64f; let f ← u8f; let m ← uint 256
      endRun fun r s => execPeatCursorOpen r g c k t n f m s
  | 0x08 => some (do let c ← u8f; let t ← u64f; refField; endRun fun r s => execPeatRead r c t [] s)
  | 0x09 => some (do let c ← u8f; endRun fun r s => execPeatCursorClose r c s)
  | 0x0A => some (do let t ← u32f; let c ← u16f; let k ← u8f; endRun fun r s => execPeatClipStore r t c k s)
  | 0x0B => some (do let c ← u16f; endRun fun r s => execPeatClipDelete r c s)
  | 0x0C => some (do let c ← u16f; refField; endRun fun r s => execPeatClipList r c s)
  | 0x0D => some (do let c ← u16f; let op ← u8f; endRun fun r s => execPeatPin r c op s)
  | 0x0E => some do
      let v ← u8f; let c ← u16f; let f ← u8f; let t ← ntf; let g ← s32f
      endRun fun r s => execPeatPlay r v c f t g s
  | 0x0F => some (do let v ← u8f; let c ← u16f; let n ← u16f; endRun fun r s => execPeatQueue r v c n s)
  | 0x10 => some (do let v ← u8f; endRun fun r s => execPeatStop r v s)
  | 0x11 => some do
      let op ← u8f; let a ← setting op 0 u8f; let b ← setting op 0 u16f; let c ← setting op 0 u32f
      endRun fun r s => execPeatQueues r op a b c s
  | 0x12 => some do
      let c ← u8f; let q ← u8f; zeros 2; let e ← bytes 64; refField; let p ← passData fetch e
      endRun fun r s => execPeatPassthrough r c q e p s
  | _ => none

/-- The requests of group EXPERT (R492), by the low byte of the code. -/
def expertRequest (fetch : Fetch) (host : List (Nat × Byte)) (code : Nat) : Option (Parse Run) :=
  match code with
  | 0x01 => some (do let b ← u8f; let a ← u32f; let n ← u32f; refField; endRun fun r s => execExpertMoverRead r b a n s)
  | 0x02 => some do
      let l ← u8f; let n ← u16f; let es ← array fetch n 12 moverOp
      endRun fun r s => execExpertMoverWrite r l es s
  | 0x03 => some (do let x ← u16f; let a ← u16f; let n ← u16f; refField; endRun fun r s => execExpertMixRead r x a n s)
  | 0x04 => some do
      let l ← u8f; let x ← u16f; let a ← u16f; let n ← u16f; let ws ← array fetch n 6 (uint 6)
      endRun fun r s => execExpertMixWrite r l x a ws s
  | 0x05 => some do
      let l ← u8f; let p ← u16f; let a ← u32f; let n ← u16f; let ws ← array fetch n 4 u32f
      endRun fun r s => execExpertCoefWrite r l p a ws s
  | 0x06 => some (do let p ← u16f; let a ← u32f; let n ← u16f; refField; endRun fun r s => execExpertCoefRead r p a n s)
  | 0x07 => some (do let p ← u16f; let b ← u8f; let i ← u8f; refField; endRun fun r s => execExpertPageRead r p b i s)
  | 0x08 => some (do let l ← u8f; let p ← u16f; let b ← tail fetch; endRun fun r s => execExpertPageWrite r l p b s)
  | 0x09 => some (do let t ← u32f; endRun fun r s => execExpertImageLoad r t s)
  | 0x0A => some (do let i ← u32f; endRun fun r s => execExpertImageUnload r i s)
  | 0x0B => some (do refField; endRun fun r s => execExpertImageList r s)
  | 0x0C => some (do let l ← u8f; let i ← u32f; endRun fun r s => execExpertInstanceCreate r l i s)
  | 0x0D => some (do let l ← u8f; let p ← u16f; let f ← u8f; endRun fun r s => execExpertInstanceDelete r l p f s)
  | 0x0E => some (do refField; endRun fun r s => execExpertPlacement r s)
  | 0x0F => some (do refField; endRun fun r s => execExpertTaskStats r s)
  | 0x10 => some do
      let f ← u8f; let m ← u8f; let o ← u32f; let n ← u16f; refField
      endRun fun r s => execExpertFrondRead r f m o n s
  | 0x11 => some (do let k ← u8f; let a ← u32f; let n ← u32f; refField; endRun fun r s => execExpertMemRead r k a n s)
  | 0x12 => some do
      let k ← u8f; let a ← u32f; let n ← u32f; refField; let b ← tail fetch
      endRun fun r s => execExpertMemWrite r k a n b s
  | 0x13 => some do
      let n ← u16f; let b ← array fetch (32 * n) 1 (bytes 1)
      endRun fun r s => execExpertDma r n b.flatten host s
  | 0x14 => some (do let g ← u8f; refField; endRun fun r s => execExpertArbRead r g s)
  | 0x15 => some do
      let op ← u8f; let g ← u8f; let a ← u16f; let n ← u16f; let vs ← arbWords fetch op n
      endRun fun r s => execExpertArbWrite r op g a vs s
  | _ => none

/-- The requests of group POWER (R493), by the low byte of the code. -/
def powerRequest (fetch : Fetch) (host : List (Nat × Byte)) (code : Nat) : Option (Parse Run) :=
  match code with
  | 0x01 => some (do endRun fun r s => execPowerStatus r s)
  | 0x02 => some (do let op ← u8f; let t ← setting op 0 u16f; endRun fun r s => execPowerSlackTarget r op t s)
  | 0x03 => some (do refField; endRun fun r s => execPowerSlackReport r s)
  | 0x04 => some (do refField; endRun fun r s => execPowerAgeing r s)
  | 0x05 => some (do let op ← u8f; let v ← u32f; endRun fun r s => execPowerVcore r op v s)
  | _ => none

/-- The requests of group SECURE (R493), by the low byte of the code. -/
def secureRequest (fetch : Fetch) (host : List (Nat × Byte)) (code : Nat) : Option (Parse Run) :=
  match code with
  | 0x01 => some do
      let op ← u8f; let k ← u8f; let g ← u8f; zeros 1; let b ← bytes 32
      endRun fun r s => execSecureKey r op k g b s
  | 0x02 => some (do let t ← u32f; endRun fun r s => execSecureFwUpdate r t s)
  | 0x03 => some (do endRun fun r s => execSecureFwStatus r s)
  | 0x04 => some (do let w ← u8f; endRun fun r s => execSecureImageSelect r w s)
  | 0x05 => some (do endRun fun r s => execSecureRollbackRead r s)
  | _ => none

/-- A request by its code: its group and its command (R477). -/
def request (fetch : Fetch) (host : List (Nat × Byte)) (code : Nat) : Option (Parse Run) :=
  let low := code % 256
  match code / 256 with
  | 0x01 => sysRequest fetch host low
  | 0x02 => routeRequest fetch host low
  | 0x03 => blockRequest fetch host low
  | 0x04 => mixRequest fetch host low
  | 0x05 => sceneRequest fetch host low
  | 0x06 => portRequest fetch host low
  | 0x07 => netRequest fetch host low
  | 0x08 => timeRequest fetch host low
  | 0x09 => pairRequest fetch host low
  | 0x0A => faultRequest fetch host low
  | 0x0B => peatRequest fetch host low
  | 0x0C => expertRequest fetch host low
  | 0x0D => powerRequest fetch host low
  | 0x0E => secureRequest fetch host low
  | _ => none

/-! ### Messages (R452 to R455, R469) -/

/-- A field of a message header. -/
def hdr (msg : List Byte) (off n : Nat) : Nat := fromLE ((msg.drop off).take n)

/-- The message's CRC is right (R452). -/
def crcRight (msg : List Byte) : Bool :=
  let payload := (msg.drop 16).take (hdr msg 8 2)
  decide (payload.length = hdr msg 8 2) && decide (crc32c (msg.take 12 ++ u32 0 ++ payload) = hdr msg 12 4)

/-- The bytes behind a reference of a slot: its window, or host memory as it answers (R452). -/
def fetchFor (s : State) (c : Nat) (host : List (Nat × Byte)) : Fetch := fun d =>
  if d.place = 0 then some (s.mem.mbx.readBytes (0xC200 + c * 0x7C0 + d.address) (min d.length 1984))
  else
    let bs := (List.range (min d.length 4194304)).map fun i => (host.find? fun e => e.1 = d.address + i).map (·.2)
    if bs.all (·.isSome) then some (bs.map (·.getD 0)) else none

/-- The engine handles a message of a slot (R455, R469): CRC, length, header, code, then the command's own layout. -/
def handleMessage (c : Nat) (host : List (Nat × Byte)) (msg : List Byte) (s : State) : Host.Outcome State Fault Refusal :=
  let seq := hdr msg 0 4
  let code := hdr msg 4 2
  let flags := hdr msg 6 2
  let len := hdr msg 8 2
  let r : Req := { slot := c, seq := seq, crc := hdr msg 12 4 }
  if !crcRight msg then
    .next (if takes s c then
      sendResponse c (message seq code 0 c (refuse St.badCrc).prefix) (reportLimited Src.mailbox K.mbxCrc 1 c 0 s) else s)
  else if 1008 < len then serve { code := code } r (fun _ s => (badLength s, refuse St.badLen)) s
  else if 64 ≤ flags ∨ hdr msg 10 1 ≠ c ∨ hdr msg 11 1 ≠ 2 then serve { code := code } r (fun _ s => badRequest s) s
  else
    match request (fetchFor s c host) host code with
    | none => serve { code := code } r (fun _ s => badRequest s) s
    | some p =>
      let lead : Parse Unit := if Fx.bit flags 0 then do
          let d ← dataRef
          modify fun x => { x with ref := some d }
        else pure ()
      match (do lead; p).run { bytes := (msg.drop 16).take len } with
      | .error .length => serve { code := code } r (fun _ s => (badLength s, refuse St.badLen)) s
      | .error .reserved => serve { code := code } r (fun _ s => badRequest s) s
      | .ok (f, x) =>
        f { r with partner := Fx.bit flags 1, data := x.ref.map fun d => { d with bad := x.bad } } s

/-! ### Rings (R450, R451, R469) -/

/-- Rings that break their rules: the slot is released (R469). -/
def ringBroken (c : Nat) (s : State) : State := releaseSlot c false (reportLimited Src.mailbox K.mbxSeq 2 c 0 s)

/-- Take the messages of a slot's request ring in order, as long as the response ring has room: at most `n`. A pad message is
skipped; a message that crosses the producer count or the ring's end breaks the ring. -/
def takeRing (c : Nat) (host : List (Nat × Byte)) : Nat → State → Host.Outcome State Fault Refusal
  | 0, s => .next s
  | n + 1, s =>
    let sl := slotOf s c
    if !takes s c ∨ sl.path = 2 ∨ sl.reqProd = sl.reqCons then .next s
    else
      let avail := (sl.reqProd + 2 ^ 32 - sl.reqCons) % 2 ^ 32
      let off := sl.reqCons % 2048
      let base := 0x0200 + c * 0x1000
      let head := s.mem.mbx.readBytes (base + off) 16
      let size := padded (16 + hdr head 8 2)
      if 2048 < avail ∨ avail < size ∨ 2048 < off + size then .next (ringBroken c s)
      else
        let msg := s.mem.mbx.readBytes (base + off) size
        let s := putSlot c { sl with reqCons := (sl.reqCons + size) % 2 ^ 32 } s
        if hdr msg 4 2 = 0 then takeRing c host n s
        else match handleMessage c host msg s with
          | .next s => takeRing c host n s
          | o => o

/-- The client places a message in its ring, after a pad message where it does not fit before the end, and advances its
producer count; a message for which the ring has no room waits with the client. -/
def placeRequest (c : Nat) (msg : List Byte) (s : State) : State :=
  let sl := slotOf s c
  let n := padded msg.length
  let off := sl.reqProd % 2048
  let room := 2048 - off
  let base := 0x0200 + c * 0x1000
  let pad := if room < n then room else 0
  if 2048 < (sl.reqProd + 2 ^ 32 - sl.reqCons) % 2 ^ 32 + pad + n then s
  else
    let m := if pad = 0 then s.mem.mbx
      else s.mem.mbx.writeBytes (base + off) (padTo pad (message 0 0 0 c (List.replicate (pad - 16) 0)))
    let m := m.writeBytes (base + (sl.reqProd + pad) % 2048) (padTo n msg)
    putSlot c { sl with reqProd := (sl.reqProd + pad + n) % 2 ^ 32 } { s with mem := { s.mem with mbx := m } }

/-- MBX_REQUEST: a client's message reaches the engine, which takes what its ring holds (R450, R455). The rings of a session
are Mladir's own (R444). -/
def execMbxRequest (slot : Nat) (bytes : List Byte) (host : List (Nat × Byte)) (s : State) : Host.Outcome State Fault Refusal :=
  if !s.mbx.isOpen ∨ (slotOf s slot).state ≠ 1 then .next s
  else if (slotOf s slot).path = 2 then handleMessage slot host bytes s
  else takeRing slot host 128 (placeRequest slot bytes s)

/-- Take the rings of several slots. -/
def takeRings (host : List (Nat × Byte)) : List Nat → State → Host.Outcome State Fault Refusal
  | [], s => .next s
  | c :: cs, s => match takeRing c host 128 s with
    | .next s => takeRings host cs s
    | o => o

/-- RING_POLL (R451). -/
def execRingPoll (host : List (Nat × Byte)) (s : State) : Host.Outcome State Fault Refusal := takeRings host (List.range 8) s

/-- Long commands of the tables (R456, R475). -/
def longCodes : List Nat := [0x0111, 0x0207, 0x0502, 0x060A, 0x0A08, 0x0A0B, 0x0A0C, 0x0B02, 0x0C13]

/-- PROGRESS_INTERVAL (R456). -/
def execProgressInterval (slot seq : Nat) (s : State) : Host.Outcome State Fault Refusal :=
  .next (match (slotOf s slot).work.find? fun w => w.1 = seq with
    | some w => if longCodes.contains w.2.1 then postProgress slot seq w.2.1 s else s
    | none => s)

/-! ### Datagrams (R464) -/

/-- A datagram that is not accepted (R469). -/
def badDatagram (s : State) : State := reportLimited Src.mailbox K.mbxAuth 2 0 0 s

/-- The counter of a datagram is new, and within 64 below the highest (R464). -/
def counterNew (x : Session) (n : Nat) : Bool :=
  decide (1 ≤ n) && (decide (x.rxHigh < n) || (decide (x.rxHigh ≤ n + 64) && !x.rxSeen.contains n))

def noteCounter (n now : Nat) (x : Session) : Session :=
  let high := max x.rxHigh n
  { x with rxHigh := high, rxSeen := (n :: x.rxSeen).filter fun v => decide (high ≤ v + 64), last := now }

/-- An opening datagram: it carries SYS.SESSION_OPEN under a provisioned key. -/
def openingDatagram (keyId ip port : Nat) (msg own : List Byte) (s : State) : State :=
  match Tbl.find s.mbx.keys keyId with
  | none => badDatagram s
  | some (_, key) =>
    if !crcRight msg then openReply keyId ip port 0 (hdr msg 0 4) key (refuse St.badCrc) (reportLimited Src.mailbox K.mbxCrc 1 0 0 s)
    else if hdr msg 4 2 ≠ 0x010B then badDatagram s
    else openSession (hdr msg 0 4) keyId ip port ((msg.drop 16).take (hdr msg 8 2)) own s

/-- SERIL_DATAGRAM (R464). -/
def execSerilDatagram (ip port : Nat) (bytes nonce : List Byte) (s : State) : Host.Outcome State Fault Refusal :=
  let n := bytes.length - 52
  let body := bytes.take (20 + n)
  let msg := body.drop 20
  let keyId := hdr bytes 4 1
  let id := hdr bytes 8 4
  if !(s.mbx.isOpen && s.sys.mladirUp) ∨ bytes.length < 68 ∨ 1024 < n ∨ bytes.take 4 ≠ [0x53, 0x45, 0x52, 0x4C] ∨ hdr bytes 5 1 ≠ 1 ∨
      hdr bytes 6 2 ≠ 0 then .next s
  else if id = 0 then
    match Tbl.find s.mbx.keys keyId with
    | some (_, key) => .next (if bytes.drop (20 + n) = hmac key body then openingDatagram keyId ip port msg nonce s else badDatagram s)
    | none => .next (badDatagram s)
  else match Tbl.find s.mbx.sessions id with
    | none => .next (badDatagram s)
    | some x =>
      if bytes.drop (20 + n) ≠ hmac x.key body ∨ x.keyId ≠ keyId ∨ x.ip ≠ ip ∨ x.port ≠ port ∨ !counterNew x (hdr bytes 12 8) then
        .next (badDatagram s)
      else
        let s := { s with mbx := { s.mbx with sessions := Tbl.put s.mbx.sessions id (noteCounter (hdr bytes 12 8) s.clk.raw x) } }
        handleMessage x.slot [] msg s

end Sys2Proof.Machine
end

