-- ==== Sys2Proof/Machine/RegOps.lean ====
section
/-!
DEFINITION. The direct registers (18) as a host reads and writes them: latched reads (R497), access rules (R495, R496), write
one to clear and to set (R498), interrupts and MSI-X (R502 to R504), claims, releases and doorbells (R501), and SPI
transactions (R446).
-/
namespace Sys2Proof.Machine
open Sys2Proof

/-! ### What the registers hold (R500 to R510) -/

/-- Severity of the worst uncleared entry (R506). -/
def worstFault (s : State) : Nat := (s.flt.table.map fun e => e.2.sev).foldl max (s.flt.full.getD 0)

/-- SYS registers (R500). -/
def sysReg (s : State) (off : Nat) : Nat :=
  match off with
  | 0x00 => 0x9600 * 2 ^ 16 + 0x00B0
  | 0x04 => Fx.b2n s.sys.remap
  | 0x08 => readyWord s
  | 0x0C =>
    Fx.b2n s.sys.pairEn + 2 * Fx.b2n s.pair.activeOut + 4 * Fx.b2n s.sys.pairPref + 8 * Fx.b2n (inMaint s) +
    16 * Fx.b2n (noSpareFrond s) + 32 * Fx.b2n (noSpareBank s) + 64 * Fx.b2n s.clk.unset +
    s.sys.spareFrond.getD 0x3F * 2 ^ 8 + s.sys.spareBank.getD 0x1F * 2 ^ 16 + pairStateCode s * 2 ^ 24
  | 0x10 => s.sys.frameNo % 2 ^ 32
  | 0x14 => s.sys.frameNo / 2 ^ 32 % 2 ^ 16
  | 0x18 => s.sys.rate + s.sys.b * 2 ^ 8
  | 0x1C => s.sys.heartbeat
  | 0x20 => Config.serial.toNat % 2 ^ 32
  | 0x24 => Config.serial.toNat / 2 ^ 32
  | 0x28 => s.sys.outbound % 2 * 2 ^ 31
  | 0x2C => s.sys.outbound / 2 % 2 ^ 20
  | 0x30 => s.sys.writeIgnored
  | 0x34 => s.sys.scratch
  | _ => 0

/-- A word with a bit for each slot in a state. -/
def slotBits (s : State) (st : Nat) : Nat :=
  (List.range 8).foldl (fun v c => if (slotOf s c).state = st then Fx.setBit v c true else v) 0

/-- MBX registers of a path (R501). -/
def mbxReg (s : State) (path off : Nat) : Nat :=
  match off with
  | 0x400 => Tbl.getD s.mbx.claim path 0xFF
  | 0x40C => slotBits s 1 + slotBits s 2 * 2 ^ 8 + Fx.b2n s.mbx.isOpen * 2 ^ 16
  | _ => 0

/-- INT registers of a path's copy (R502). -/
def intReg (s : State) (path off : Nat) : Nat :=
  match off with
  | 0x800 => if path = 0 then s.int.status0 else s.int.status1
  | 0x804 => if path = 0 then s.int.msixEnable else 0
  | 0x808 => if path = 0 then s.int.pin0 else s.int.pin1
  | _ => 0

/-- TIME registers (R505). -/
def timeReg (s : State) (off : Nat) : Nat :=
  match off with
  | 0xC00 => s.clk.ns
  | 0xC04 => s.clk.wraps
  | 0xC08 => s.clk.frac
  | 0xC10 => s.clk.raw % 2 ^ 32
  | 0xC14 => s.clk.raw / 2 ^ 32
  | 0xC18 => Fx.toUnsigned 40 s.clk.rate % 2 ^ 32
  | 0xC1C => Fx.toUnsigned 40 s.clk.rate / 2 ^ 32
  | 0xC20 => s.clk.offset / 65536
  | 0xC24 => s.clk.offset % 65536
  | 0xC28 => s.clk.boundaryNs
  | 0xC2C => s.time.state + 8 * Fx.b2n s.clk.aligned + 16 * Fx.b2n s.clk.unset + s.time.sel.getD 0xF * 2 ^ 8
  | 0xC30 => s.time.fired
  | 0xC34 => s.time.trigInt
  | _ => 0

/-- FLT registers (R506). -/
def fltReg (s : State) (off : Nat) : Nat :=
  match off with
  | 0x1000 =>
    worstFault s + 8 * Fx.b2n (faultNLow s) + 16 * Fx.b2n (safeInForce s) + 32 * Fx.b2n s.flt.full.isSome +
    s.flt.table.length * 2 ^ 8
  | 0x1004 => s.flt.pinLevel
  | 0x1008 => s.flt.seq % 2 ^ 32
  | 0x100C => s.flt.lost % 2 ^ 32
  | 0x1010 => s.flt.latest.words.getD 0 0
  | 0x1014 => s.flt.latest.words.getD 1 0
  | 0x1018 => s.flt.latest.words.getD 2 0
  | 0x101C => s.flt.latest.words.getD 3 0
  | _ => 0

/-- The read view of a semaphore, and SEM_STATUS (R507). -/
def semReg (s : State) (off : Nat) : Nat :=
  if off < 0x1800 then
    let x := semOf s ((off - 0x1400) / 4)
    Fx.b2n x.held * 2 ^ 31 + Fx.b2n x.abandoned * 2 ^ 30 + x.master * 2 ^ 8 + x.tag
  else if off = 0x1800 then s.arb.badRelease + s.arb.abandoned * 2 ^ 16
  else 0

/-- DMA registers (R508). -/
def dmaReg (s : State) (off : Nat) : Nat :=
  let x := dmaOf s ((off - 0x2000) / 0x20)
  match off % 0x20 with
  | 0x00 => x.desc
  | 0x08 => x.state + x.last * 2 ^ 8
  | 0x0C => x.current
  | 0x10 => x.count
  | _ => 0

/-- PAIR registers (R509). -/
def pairReg (s : State) (off : Nat) : Nat :=
  match off with
  | 0x2400 =>
    pairStateCode s + 8 * Fx.b2n s.pair.activeOut + 16 * Fx.b2n s.pair.partnerIn + 32 * Fx.b2n s.sys.pairPref +
    64 * Fx.b2n s.sys.pairEn + 128 * Fx.b2n s.pair.link.up + s.pair.link.txSet % 16 * 2 ^ 8 + s.pair.link.rxSet % 16 * 2 ^ 12 +
    s.pair.reason % 16 * 2 ^ 16
  | 0x2404 => Fx.toUnsigned 64 s.pair.delta % 2 ^ 32
  | 0x2408 => Fx.toUnsigned 64 s.pair.delta / 2 ^ 32
  | 0x240C => restoreLeft s
  | _ => 0

/-- PWR registers (R509). -/
def pwrReg (s : State) (off : Nat) : Nat :=
  match off with
  | 0x2800 => s.pwr.vcore
  | 0x2804 => s.frond.latestMin + s.pwr.target * 2 ^ 16
  | 0x2808 => (feedOf s 0).mv / 10 + (feedOf s 1).mv / 10 * 2 ^ 16
  | 0x280C => (s.pwr.stages.map (·.ma)).foldl (· + ·) 0
  | 0x2810 => Fx.toUnsigned 16 s.pwr.tj
  | 0x2814 =>
    s.pwr.flags % 32 + Fx.b2n (feedInRange (feedOf s 0).mv && !(feedOf s 0).lost) * 2 ^ 8 +
    Fx.b2n (feedInRange (feedOf s 1).mv && !(feedOf s 1).lost) * 2 ^ 9 + Fx.b2n s.pwr.direct.isSome * 2 ^ 10
  | _ => 0

/-- A word with a bit for each bank group. -/
def groupBits (f : Nat → Bool) : Nat := (List.range 6).foldl (fun v g => Fx.setBit v g (f g)) 0

/-- ARB registers (R510). -/
def arbReg (s : State) (off : Nat) : Nat :=
  match off with
  | 0x2C00 => s.arb.freeze
  | 0x2C04 =>
    groupBits (drained s) + groupBits (fun g => decide ((groupOf s g).starve ≠ 0)) * 2 ^ 8 +
    Fx.b2n (decide (s.arb.hog ≠ 0)) * 2 ^ 15 + s.arb.freezeDenied * 2 ^ 16
  | 0x2C08 => s.arb.hog % 2 ^ 32
  | 0x2C0C => s.arb.hog / 2 ^ 32
  | _ =>
    if 0x2C10 ≤ off ∧ off < 0x2C40 then
      let x := (groupOf s ((off - 0x2C10) / 8)).starve
      if off % 8 = 0 then x % 2 ^ 32 else x / 2 ^ 32
    else 0

/-- The MSI-X table and the PBA (R504): vector control holds the mask bit. -/
def msixReg (s : State) (off : Nat) : Nat :=
  if off < 0xF200 then
    let w := (off - 0xF000) / 4
    if w % 4 = 3 then Fx.b2n (Fx.bit s.int.masked (w / 4)) else Tbl.getD s.int.table w 0
  else if off = 0xF800 then s.int.pba
  else 0

/-- The value that a register holds, as a path sees it: a reserved offset reads zero (R495, R496). -/
def regLive (s : State) (path off : Nat) : Nat :=
  if off < 0x400 then sysReg s off
  else if off < 0x800 then mbxReg s path off
  else if off < 0xC00 then intReg s path off
  else if off < 0x1000 then timeReg s off
  else if off < 0x1400 then fltReg s off
  else if off < 0x1C00 then semReg s off
  else if off < 0x2000 then 0
  else if off < 0x2200 then dmaReg s off
  else if off < 0x2400 then 0
  else if off < 0x2800 then pairReg s off
  else if off < 0x2C00 then pwrReg s off
  else if off < 0x3000 then arbReg s off
  else if 0xF000 ≤ off ∧ off < 0x10000 then msixReg s off
  else 0

/-! ### Reads and latches (R497) -/

/-- What a read of a first word latches (R497). -/
def latchedWith (off : Nat) : List Nat :=
  match off with
  | 0x0010 => [0x0014]
  | 0x0C00 => [0x0C04, 0x0C08]
  | 0x0C10 => [0x0C14]
  | 0x0C18 => [0x0C1C]
  | 0x0C20 => [0x0C24]
  | 0x1010 => [0x1014, 0x1018, 0x101C]
  | 0x2404 => [0x2408]
  | 0x2C08 => [0x2C0C]
  | _ => if 0x2C10 ≤ off ∧ off < 0x2C40 ∧ off % 8 = 0 then [off + 4] else []

/-- A word that is read through a latch. -/
def isLatched (off : Nat) : Bool :=
  [0x0014, 0x0C04, 0x0C08, 0x0C14, 0x0C1C, 0x0C24, 0x1014, 0x1018, 0x101C, 0x2408, 0x2C0C].contains off ||
  (decide (0x2C10 ≤ off) && decide (off < 0x2C40) && decide (off % 8 = 4))

/-- Key of a latch: the master's own (R497). -/
def latchKey (path off : Nat) : Nat := path * 65536 + off

/-- The INT copies and claim results are the host paths'; what Mladir reads of them is a free value (log entry 5). -/
def pathOnly (path off : Nat) : Bool := decide (2 ≤ path) && decide (0x400 ≤ off) && decide (off < 0xC00) && decide (off ≠ 0x40C)

/-- A 32-bit register read by a master (R495, R497): its value, and the latches it takes. -/
def readRegister (path off : Nat) (s : State) : Nat × State :=
  if off % 4 ≠ 0 ∨ 0x10000 ≤ off then (0, s)
  else if pathOnly path off then drawFree 32 s
  else if isLatched off then (Tbl.getD s.int.latch (latchKey path off) 0, s)
  else
    let l := (latchedWith off).foldl (fun t h => Tbl.put t (latchKey path h) (regLive s path h)) s.int.latch
    (regLive s path off, { s with int := { s.int with latch := l } })

/-- LATCHED_READ (R497). -/
def execLatchedRead (path offset : Nat) (s : State) : Host.Outcome State Fault Refusal :=
  let (v, s) := readRegister path offset s
  .next { s with out := s.out ++ [.regRead path offset v] }

/-! ### Interrupts (R498, R502 to R504) -/

/-- Clear bits of a word. -/
def clearBits (v m : Nat) : Nat := (bitsOf 32 m).foldl (fun v i => Fx.setBit v i false) v

/-- Clear status bits of a path's copy; a cleared bit's pending message is gone (R504). -/
def clearStatus (path m : Nat) (s : State) : State :=
  if path = 0 then { s with int := { s.int with status0 := clearBits s.int.status0 m, pba := clearBits s.int.pba m } }
  else { s with int := { s.int with status1 := clearBits s.int.status1 m } }

/-- INT_STATUS_CLEAR (R498, R499): the sources of `fired` set their bits in the same access, after the clear. -/
def execIntStatusClear (path value fired : Nat) (s : State) : Host.Outcome State Fault Refusal :=
  let s := if 2 ^ 22 ≤ value then ignoreWrite s else clearStatus path value s
  .next ((bitsOf 22 fired).foldl (fun s n => raiseInt n s) s)

/-- Set a status bit of one copy (R502, R504). -/
def setStatusBit (path n : Nat) (s : State) : State :=
  if path = 0 then
    let i := { s.int with status0 := Fx.setBit s.int.status0 n true }
    if !Fx.bit s.int.status0 n && Fx.bit i.msixEnable n && i.msixOn then
      if Fx.bit i.masked n then { s with int := { i with pba := Fx.setBit i.pba n true } }
      else { s with int := i, out := s.out ++ [.msix n] }
    else { s with int := i }
  else { s with int := { s.int with status1 := Fx.setBit s.int.status1 n true } }

/-- INT_SET_WRITE (R502): this path's copy only. -/
def execIntSetWrite (path value : Nat) (s : State) : Host.Outcome State Fault Refusal :=
  .next (if 2 ^ 22 ≤ value then ignoreWrite s else (bitsOf 22 value).foldl (fun s n => setStatusBit path n s) s)

/-- MSI-X enable and masks change (R504): a pending message whose vector is unmasked leaves, if its status bit is still set. -/
def setMsix (enable : Bool) (masks : Nat) (s : State) : State :=
  let s := { s with int := { s.int with msixOn := enable, masked := masks } }
  (List.range 22).foldl (fun s n =>
    if Fx.bit s.int.pba n && enable && !Fx.bit masks n then
      let s := { s with int := { s.int with pba := Fx.setBit s.int.pba n false } }
      if Fx.bit s.int.status0 n then { s with out := s.out ++ [.msix n] } else s
    else s) s

/-- MSIX_CONTROL_WRITE (R504). -/
def execMsixControlWrite (enable : Bool) (masks : Nat) (s : State) : Host.Outcome State Fault Refusal := .next (setMsix enable masks s)

/-- TRIG_FIRED_CLEAR (R498, R505). -/
def execTrigFiredClear (_path value : Nat) (s : State) : Host.Outcome State Fault Refusal :=
  .next (if 2 ^ 16 ≤ value then ignoreWrite s else { s with time := { s.time with fired := clearBits s.time.fired value } })

/-- PWR_FLAGS_CLEAR (R498, R509): bits 0 to 4 clear, 8 to 10 are read-only, the others reserved. -/
def execPwrFlagsClear (_path value : Nat) (s : State) : Host.Outcome State Fault Refusal :=
  .next (if 2 ^ 11 ≤ value ∨ value / 32 % 8 ≠ 0 then ignoreWrite s
    else { s with pwr := { s.pwr with flags := clearBits s.pwr.flags (value % 32) } })

/-! ### The mailbox registers (R447, R451, R501) -/

/-- MBX_CLAIM_WRITE: the lowest free slot, with every right (R444). -/
def execMbxClaimWrite (path tag : Nat) (s : State) : Host.Outcome State Fault Refusal :=
  .next (match freeSlot s with
    | some c => claimSlot c path 0xF tag { s with mbx := { s.mbx with claim := Tbl.put s.mbx.claim path c } }
    | none => { s with mbx := { s.mbx with claim := Tbl.erase s.mbx.claim path } })

/-- A slot that a path has claimed. -/
def holdsSlot (s : State) (path c : Nat) : Bool := decide ((slotOf s c).state = 1) && decide ((slotOf s c).path = path)

/-- MBX_RELEASE_WRITE: a slot that the same path claimed (R501). -/
def execMbxReleaseWrite (path value : Nat) (s : State) : Host.Outcome State Fault Refusal :=
  .next (if value < 8 ∧ holdsSlot s path value then releaseSlot value true s else ignoreWrite s)

/-- MBX_DOORBELL_WRITE: the rings of the path's own slots are taken; a bit of another slot has no effect (R451, R501). -/
def execMbxDoorbellWrite (path value : Nat) (host : List (Nat × Byte)) (s : State) : Host.Outcome State Fault Refusal :=
  if 256 ≤ value then .next (ignoreWrite s)
  else takeRings host ((bitsOf 8 value).filter (holdsSlot s path)) s

/-! ### Writes (R495, R496, R499) -/

/-- Bus master of a host path (R507). -/
def masterOf (path : Nat) : Nat := if path = 0 then 2 else 7

/-- The write view of a semaphore (R507). -/
def writeSem (path n v : Nat) (s : State) : Host.Outcome State Fault Refusal :=
  if v / 256 % 2 ^ 22 ≠ 0 then .next (ignoreWrite s)
  else match v / 2 ^ 30 with
    | 1 => execSemAcquire (masterOf path) n (v % 256) s
    | 2 => execSemRelease (masterOf path) n (v % 256) s
    | _ => .next (ignoreWrite s)

/-- DMA_DESC and DMA_CTRL of a host's channel (R499, R508). -/
def writeDma (path off v : Nat) (s : State) : Host.Outcome State Fault Refusal :=
  let ch := (off - 0x2000) / 0x20
  let x := dmaOf s ch
  if !dmaAllowed path ch then .next (ignoreWrite s)
  else match off % 0x20 with
    | 0x00 => .next (if v % 32 ≠ 0 ∨ x.state = 1 then ignoreWrite s else putDma ch { x with desc := v } s)
    | 0x04 =>
      match v with
      | 0 => .next s
      | 1 => execDmaGo path ch s
      | 2 => execDmaAbort path ch s
      | 3 => if x.state = 1 then execDmaAbort path ch s else .next (ignoreWrite s)
      | _ => .next (ignoreWrite s)
    | _ => .next (ignoreWrite s)

/-- A word of the MSI-X table (R504). -/
def writeMsix (off v : Nat) (s : State) : State :=
  let w := (off - 0xF000) / 4
  if w % 4 = 3 then setMsix s.int.msixOn (Fx.setBit s.int.masked (w / 4) (Fx.bit v 0)) s
  else { s with int := { s.int with table := Tbl.putD s.int.table w v 0 } }

/-- A full 32-bit write by a host path: a register with behaviour of its own does what it does; RW fields take the value; a
read-only or reserved register and a reserved bit leave everything as it was, counted (R495, R496). -/
def writeRegister (path off v : Nat) (host : List (Nat × Byte)) (s : State) : Host.Outcome State Fault Refusal :=
  match off with
  | 0x0034 => .next { s with sys := { s.sys with scratch := v } }
  | 0x0400 => execMbxClaimWrite path v s
  | 0x0404 => execMbxReleaseWrite path v s
  | 0x0408 => execMbxDoorbellWrite path v host s
  | 0x0800 => execIntStatusClear path v 0 s
  | 0x0804 => .next (if path = 0 ∧ v < 2 ^ 22 then { s with int := { s.int with msixEnable := v } } else ignoreWrite s)
  | 0x0808 =>
    .next (if 2 ^ 22 ≤ v then ignoreWrite s
      else if path = 0 then { s with int := { s.int with pin0 := v } } else { s with int := { s.int with pin1 := v } })
  | 0x080C => execIntSetWrite path v s
  | 0x0C30 => execTrigFiredClear path v s
  | 0x0C34 => .next (if 2 ^ 16 ≤ v then ignoreWrite s else { s with time := { s.time with trigInt := v } })
  | 0x2814 => execPwrFlagsClear path v s
  | 0x2C00 => execArbFreezeWrite path v s
  | 0x2C08 => execArbHogClear false v s
  | 0x2C0C => execArbHogClear true v s
  | _ =>
    if 0x1400 ≤ off ∧ off < 0x1800 then writeSem path ((off - 0x1400) / 4) v s
    else if 0x2000 ≤ off ∧ off < 0x2200 then writeDma path off v s
    else if 0x2C10 ≤ off ∧ off < 0x2C40 then execArbStarveClear ((off - 0x2C10) / 8) (decide (off % 8 = 4)) v s
    else if 0xF000 ≤ off ∧ off < 0xF200 then .next (writeMsix off v s)
    else .next (ignoreWrite s)

/-- REGISTER_WRITE (R495): fewer than four byte enables are ignored. -/
def execRegisterWrite (path offset value enables : Nat) (host : List (Nat × Byte)) (s : State) : Host.Outcome State Fault Refusal :=
  if enables ≠ 15 ∨ offset % 4 ≠ 0 ∨ 0x10000 ≤ offset then .next (ignoreWrite s)
  else writeRegister path offset value host s

/-! ### SPI transactions (R446) -/

/-- Write the words of a transaction in ascending address order; an address outside registers and mailbox memory takes
nothing. -/
def spiWrite : Nat → List Byte → Nat → State → Host.Outcome State Fault Refusal
  | 0, _, _, s => .next s
  | n + 1, bs, a, s =>
    let v := fromBE (bs.take 4)
    let o : Host.Outcome State Fault Refusal := match regionOf true a with
      | .regs off => writeRegister 1 off v [] s
      | .mailbox off => .next (mbxWriteWord off v 15 s)
      | _ => .next s
    match o with
    | .next s => spiWrite n (bs.drop 4) (a + 4) s
    | o => o

/-- Read words in ascending address order (R446, R497). -/
def spiRead : Nat → Nat → State → List Nat × State
  | 0, _, s => ([], s)
  | n + 1, a, s =>
    let (v, s) := match regionOf true a with
      | .regs off => readRegister 1 off s
      | .mailbox off => (mbxWord s off, s)
      | _ => (0, s)
    let (vs, s) := spiRead n (a + 4) s
    (v :: vs, s)

/-- SPI_TRANSACTION: the bytes from the host between the edges of the chip select, and the words that a read clocks out. A write
takes effect only with its check right and whole words. -/
def execSpiTransaction (bytes : List Byte) (words : Nat) (s : State) : Host.Outcome State Fault Refusal :=
  let a := fromBE ((bytes.drop 1).take 4)
  let bad := Host.Outcome.next (reportLimited Src.mailbox K.spiError 1 0 0 s)
  match bytes.head? with
  | none => .next s
  | some op =>
    if op = 0x02 then
      let n := bytes.length - 9
      if bytes.length < 13 ∨ 1024 < n ∨ n % 4 ≠ 0 ∨ fromBE (bytes.drop (bytes.length - 4)) ≠ crc32c (bytes.take (bytes.length - 4)) then bad
      else if a % 4 ≠ 0 then .next s
      else spiWrite (n / 4) ((bytes.drop 5).take n) a s
    else if op = 0x0B then
      if bytes.length < 5 ∨ 256 < words then bad
      else
        let (vs, s) := if a % 4 = 0 then spiRead words a s else (List.replicate words 0, s)
        .next { s with out := s.out ++ [.spiRead vs (crc32c (bytes.take 5 ++ vs.flatMap (be 4)))] }
    else bad

/-! ### The PCIe endpoint (R435, R448, R469) -/

/-- PCIE_RESET: every PCIe slot is released, the endpoint's semaphores are abandoned, and MSI-X is as PCIe resets it. -/
def execPcieReset (s : State) : Host.Outcome State Fault Refusal :=
  let s := (List.range 8).foldl (fun s c => if holdsSlot s 0 c then releaseSlot c false s else s) s
  let s := abandonSems (fun x => x.master = 2) s
  .next { s with int := { s.int with msixOn := false, masked := 0xFFFFFFFF, pba := 0, table := [] } }

end Sys2Proof.Machine
end

