-- ==== Sys2Proof/Machine/Dispatch.lean ====
section
/-!
DEFINITION. The dispatch: one arm for each command, each a direct call of its meaning.
-/
namespace Sys2Proof.Machine

def exec (i : Instr) (s : State) : Host.Outcome State Fault Refusal :=
  match i with
  | .frameTick partner ending moves => Sys2Proof.Machine.execFrameTick partner ending moves s
  | .sampleTick partner => Sys2Proof.Machine.execSampleTick partner s
  | .subFrameTick => Sys2Proof.Machine.execSubFrameTick s
  | .servoInterval => Sys2Proof.Machine.execServoInterval s
  | .taskStart key core checks => Sys2Proof.Machine.execTaskStart key core checks s
  | .taskRetry key core loc checks => Sys2Proof.Machine.execTaskRetry key core loc checks s
  | .taskOverrun frond core => Sys2Proof.Machine.execTaskOverrun frond core s
  | .laneTerm lane input err word => Sys2Proof.Machine.execLaneTerm lane input err word s
  | .stepTimeout lane input => Sys2Proof.Machine.execStepTimeout lane input s
  | .nop frond core x y => Sys2Proof.Machine.execNop frond core x y s
  | .mac frond core fields x y => Sys2Proof.Machine.execMac frond core fields x y s
  | .dmac frond core fields x y => Sys2Proof.Machine.execDmac frond core fields x y s
  | .add frond core ad as x y => Sys2Proof.Machine.execAdd frond core ad as x y s
  | .sub frond core ad as x y => Sys2Proof.Machine.execSub frond core ad as x y s
  | .mov frond core ad as x y => Sys2Proof.Machine.execMov frond core ad as x y s
  | .add24 frond core ad as x y => Sys2Proof.Machine.execAdd24 frond core ad as x y s
  | .clr frond core ad x y => Sys2Proof.Machine.execClr frond core ad x y s
  | .neg frond core ad x y => Sys2Proof.Machine.execNeg frond core ad x y s
  | .abs frond core ad x y => Sys2Proof.Machine.execAbs frond core ad x y s
  | .max frond core ad as x y => Sys2Proof.Machine.execMax frond core ad as x y s
  | .min frond core ad as x y => Sys2Proof.Machine.execMin frond core ad as x y s
  | .ash frond core ad imm x y => Sys2Proof.Machine.execAsh frond core ad imm x y s
  | .ashr frond core ad rs x y => Sys2Proof.Machine.execAshr frond core ad rs x y s
  | .rnd frond core ad x y => Sys2Proof.Machine.execRnd frond core ad x y s
  | .addd frond core ad rs x y => Sys2Proof.Machine.execAddd frond core ad rs x y s
  | .subd frond core ad rs x y => Sys2Proof.Machine.execSubd frond core ad rs x y s
  | .log2 frond core ad as x y => Sys2Proof.Machine.execLog2 frond core ad as x y s
  | .exp2 frond core ad as x y => Sys2Proof.Machine.execExp2 frond core ad as x y s
  | .cmp frond core ad as x y => Sys2Proof.Machine.execCmp frond core ad as x y s
  | .cmov frond core ad as cond x y => Sys2Proof.Machine.execCmov frond core ad as cond x y s
  | .xfr frond core rs as x y => Sys2Proof.Machine.execXfr frond core rs as x y s
  | .ldi frond core code imm => Sys2Proof.Machine.execLdi frond core code imm s
  | .br frond core cond offset => Sys2Proof.Machine.execBr frond core cond offset s
  | .call frond core cond offset => Sys2Proof.Machine.execCall frond core cond offset s
  | .rts frond core cond => Sys2Proof.Machine.execRts frond core cond s
  | .doLoop frond core reg count stop => Sys2Proof.Machine.execDoLoop frond core reg count stop s
  | .vmac frond core ad pa pb negate ux uy elems => Sys2Proof.Machine.execVmac frond core ad pa pb negate ux uy elems s
  | .bmovSynchronous frond core fields run => Sys2Proof.Machine.execBmovSynchronous frond core fields run s
  | .bmovPosted frond core post => Sys2Proof.Machine.execBmovPosted frond core post s
  | .endRun frond core => Sys2Proof.Machine.execEndRun frond core s
  | .rete frond core => Sys2Proof.Machine.execRete frond core s
  | .swset frond core mask => Sys2Proof.Machine.execSwset frond core mask s
  | .swclr frond core mask => Sys2Proof.Machine.execSwclr frond core mask s
  | .movr frond core dst src => Sys2Proof.Machine.execMovr frond core dst src s
  | .modp frond core ptr amount => Sys2Proof.Machine.execModp frond core ptr amount s
  | .waitb frond core mask => Sys2Proof.Machine.execWaitb frond core mask s
  | .clrb frond core mask => Sys2Proof.Machine.execClrb frond core mask s
  | .bulkCompletion frond core => Sys2Proof.Machine.execBulkCompletion frond core s
  | .doorbell frond core => Sys2Proof.Machine.execDoorbell frond core s
  | .portFrameStartEdge port phase words violation contention clockOff => Sys2Proof.Machine.execPortFrameStartEdge port phase words violation contention clockOff s
  | .rateMeasurementDone port => Sys2Proof.Machine.execRateMeasurementDone port s
  | .rateLoss port => Sys2Proof.Machine.execRateLoss port s
  | .holdTimeout port output => Sys2Proof.Machine.execHoldTimeout port output s
  | .markBlock port slot => Sys2Proof.Machine.execMarkBlock port slot s
  | .pathProofDone => Sys2Proof.Machine.execPathProofDone s
  | .asrcLocked page => Sys2Proof.Machine.execAsrcLocked page s
  | .portRestartDone port => Sys2Proof.Machine.execPortRestartDone port s
  | .emergAssert input => Sys2Proof.Machine.execEmergAssert input s
  | .emergRelease input => Sys2Proof.Machine.execEmergRelease input s
  | .emergMismatch input => Sys2Proof.Machine.execEmergMismatch input s
  | .macFrameReceived net kind frame => Sys2Proof.Machine.execMacFrameReceived net kind frame s
  | .pathUpdate => Sys2Proof.Machine.execPathUpdate s
  | .packetRelease => Sys2Proof.Machine.execPacketRelease s
  | .mediaLinkUp net mbps => Sys2Proof.Machine.execMediaLinkUp net mbps s
  | .mediaLinkDown net => Sys2Proof.Machine.execMediaLinkDown net s
  | .gateIntervalEnd net => Sys2Proof.Machine.execGateIntervalEnd net s
  | .gateListStart net => Sys2Proof.Machine.execGateListStart net s
  | .verifyTimeout net => Sys2Proof.Machine.execVerifyTimeout net s
  | .igmpQuery net version group sources => Sys2Proof.Machine.execIgmpQuery net version group sources s
  | .igmpReportRepeat net group => Sys2Proof.Machine.execIgmpReportRepeat net group s
  | .arpRequest net hw sender target => Sys2Proof.Machine.execArpRequest net hw sender target s
  | .icmpEcho net hw src dst ident seq payload => Sys2Proof.Machine.execIcmpEcho net hw src dst ident seq payload s
  | .addressDefence net addr => Sys2Proof.Machine.execAddressDefence net addr s
  | .identityClaim => Sys2Proof.Machine.execIdentityClaim s
  | .net4StepDown => Sys2Proof.Machine.execNet4StepDown s
  | .net4StepUp => Sys2Proof.Machine.execNet4StepUp s
  | .reconcilePoint stream count => Sys2Proof.Machine.execReconcilePoint stream count s
  | .ptpEventMessage net msg => Sys2Proof.Machine.execPtpEventMessage net msg s
  | .ppsInPulse => Sys2Proof.Machine.execPpsInPulse s
  | .phaseAverageInterval cand phase missing => Sys2Proof.Machine.execPhaseAverageInterval cand phase missing s
  | .referenceTimeout cand announce => Sys2Proof.Machine.execReferenceTimeout cand announce s
  | .qualificationExpiry cand => Sys2Proof.Machine.execQualificationExpiry cand s
  | .refWaitToRestoreExpiry cand => Sys2Proof.Machine.execRefWaitToRestoreExpiry cand s
  | .holdoverSecond => Sys2Proof.Machine.execHoldoverSecond s
  | .modelRecord => Sys2Proof.Machine.execModelRecord s
  | .modelStore => Sys2Proof.Machine.execModelStore s
  | .temperatureRead source value => Sys2Proof.Machine.execTemperatureRead source value s
  | .pllLock hz => Sys2Proof.Machine.execPllLock hz s
  | .timeWrap => Sys2Proof.Machine.execTimeWrap s
  | .triggerHandover trigger => Sys2Proof.Machine.execTriggerHandover trigger s
  | .triggerFire trigger => Sys2Proof.Machine.execTriggerFire trigger s
  | .actionHandover action => Sys2Proof.Machine.execActionHandover action s
  | .sceneLoadDone action bad ecc => Sys2Proof.Machine.execSceneLoadDone action bad ecc s
  | .reseedDone page bad => Sys2Proof.Machine.execReseedDone page bad s
  | .linkTrained rx tx => Sys2Proof.Machine.execLinkTrained rx tx s
  | .laneLockLost lane transmit => Sys2Proof.Machine.execLaneLockLost lane transmit s
  | .laneRejoin lane transmit => Sys2Proof.Machine.execLaneRejoin lane transmit s
  | .retransmissionTimer => Sys2Proof.Machine.execRetransmissionTimer s
  | .deliveryFailure => Sys2Proof.Machine.execDeliveryFailure s
  | .ackInterval => Sys2Proof.Machine.execAckInterval s
  | .heartbeatInterval => Sys2Proof.Machine.execHeartbeatInterval s
  | .heartbeatTimeout bySignature => Sys2Proof.Machine.execHeartbeatTimeout bySignature s
  | .timeInterval => Sys2Proof.Machine.execTimeInterval s
  | .linkAck h => Sys2Proof.Machine.execLinkAck h s
  | .linkNak h expected => Sys2Proof.Machine.execLinkNak h expected s
  | .lanes h active fromCount => Sys2Proof.Machine.execLanes h active fromCount s
  | .hello h told => Sys2Proof.Machine.execHello h told s
  | .verdict h reached pass why => Sys2Proof.Machine.execVerdict h reached pass why s
  | .config h part edits changes => Sys2Proof.Machine.execConfig h part edits changes s
  | .configHash h hash => Sys2Proof.Machine.execConfigHash h hash s
  | .time h sent latest number boundary => Sys2Proof.Machine.execTime h sent latest number boundary s
  | .heartbeat h pairState active drives reads severity => Sys2Proof.Machine.execHeartbeat h pairState active drives reads severity s
  | .recon h number crcs emerg figures => Sys2Proof.Machine.execRecon h number crcs emerg figures s
  | .pktRecon h items => Sys2Proof.Machine.execPktRecon h items s
  | .fetch h item => Sys2Proof.Machine.execFetch h item s
  | .data h item words => Sys2Proof.Machine.execData h item words s
  | .command h txn slot seq edits changes => Sys2Proof.Machine.execCommand h txn slot seq edits changes s
  | .commit h txn number => Sys2Proof.Machine.execCommit h txn number s
  | .commandAck h txn ok ofCommit => Sys2Proof.Machine.execCommandAck h txn ok ofCommit s
  | .signature h number sap net record invalid detection => Sys2Proof.Machine.execSignature h number sap net record invalid detection s
  | .switch h fault number => Sys2Proof.Machine.execSwitch h fault number s
  | .identity h claim blue => Sys2Proof.Machine.execIdentity h claim blue s
  | .state h item => Sys2Proof.Machine.execState h item s
  | .stateCtrl h kind value => Sys2Proof.Machine.execStateCtrl h kind value s
  | .handshakeTimeTimeout => Sys2Proof.Machine.execHandshakeTimeTimeout s
  | .refusedRetry => Sys2Proof.Machine.execRefusedRetry s
  | .syncRetry => Sys2Proof.Machine.execSyncRetry s
  | .waitToRestoreExpiry => Sys2Proof.Machine.execWaitToRestoreExpiry s
  | .alternateStart => Sys2Proof.Machine.execAlternateStart s
  | .unsteppedTakeover => Sys2Proof.Machine.execUnsteppedTakeover s
  | .faultRecord source kind sev count index ended detail => Sys2Proof.Machine.execFaultRecord source kind sev count index ended detail s
  | .safeStateDelay => Sys2Proof.Machine.execSafeStateDelay s
  | .resetFunctionDone source actions lists => Sys2Proof.Machine.execResetFunctionDone source actions lists s
  | .mladirStall => Sys2Proof.Machine.execMladirStall s
  | .watchdog source => Sys2Proof.Machine.execWatchdog source s
  | .scrubWord mem offset correctable place page => Sys2Proof.Machine.execScrubWord mem offset correctable place page s
  | .nightlyWindowStart fails badMove => Sys2Proof.Machine.execNightlyWindowStart fails badMove s
  | .nightlyWindowEnd => Sys2Proof.Machine.execNightlyWindowEnd s
  | .bankMigrationDone rows stays badWrites => Sys2Proof.Machine.execBankMigrationDone rows stays badWrites s
  | .frondTestDone pass rows badWrites => Sys2Proof.Machine.execFrondTestDone pass rows badWrites s
  | .detectorBlock detector => Sys2Proof.Machine.execDetectorBlock detector s
  | .ageingHour => Sys2Proof.Machine.execAgeingHour s
  | .ageingDay => Sys2Proof.Machine.execAgeingDay s
  | .nvmeCompletion e => Sys2Proof.Machine.execNvmeCompletion e s
  | .commandTimeout tag => Sys2Proof.Machine.execCommandTimeout tag s
  | .abortExpiry tag => Sys2Proof.Machine.execAbortExpiry tag s
  | .controllerResetDone ctrl ok => Sys2Proof.Machine.execControllerResetDone ctrl ok s
  | .completionPoll found fatal => Sys2Proof.Machine.execCompletionPoll found fatal s
  | .smartPoll ctrl warning => Sys2Proof.Machine.execSmartPoll ctrl warning s
  | .peatLink ctrl => Sys2Proof.Machine.execPeatLink ctrl s
  | .namespaceLost ctrl changed => Sys2Proof.Machine.execNamespaceLost ctrl changed s
  | .namespaceIdentified ctrl told labelA labelB extents objects => Sys2Proof.Machine.execNamespaceIdentified ctrl told labelA labelB extents objects s
  | .cursorIdleExpiry cursor => Sys2Proof.Machine.execCursorIdleExpiry cursor s
  | .feedLost feed => Sys2Proof.Machine.execFeedLost feed s
  | .feedReturned feed => Sys2Proof.Machine.execFeedReturned feed s
  | .stageSample stages => Sys2Proof.Machine.execStageSample stages s
  | .railCheck uv => Sys2Proof.Machine.execRailCheck uv s
  | .tjSample tj => Sys2Proof.Machine.execTjSample tj s
  | .lastGasp cause => Sys2Proof.Machine.execLastGasp cause s
  | .coarseTimeUpdate => Sys2Proof.Machine.execCoarseTimeUpdate s
  | .vauxPowerOnReset => Sys2Proof.Machine.execVauxPowerOnReset s
  | .resetNAssert => Sys2Proof.Machine.execResetNAssert s
  | .resetNRelease en pref badBanks badFronds => Sys2Proof.Machine.execResetNRelease en pref badBanks badFronds s
  | .functionReady code => Sys2Proof.Machine.execFunctionReady code s
  | .servoHandoff => Sys2Proof.Machine.execServoHandoff s
  | .fwConfirm => Sys2Proof.Machine.execFwConfirm s
  | .bootGo go total offset length crc bytes => Sys2Proof.Machine.execBootGo go total offset length crc bytes s
  | .mbxRequest slot bytes host => Sys2Proof.Machine.execMbxRequest slot bytes host s
  | .ringPoll host => Sys2Proof.Machine.execRingPoll host s
  | .progressInterval slot seq => Sys2Proof.Machine.execProgressInterval slot seq s
  | .clientLivenessExpiry slot => Sys2Proof.Machine.execClientLivenessExpiry slot s
  | .heldResultExpiry slot seq => Sys2Proof.Machine.execHeldResultExpiry slot seq s
  | .objectAbandon handle => Sys2Proof.Machine.execObjectAbandon handle s
  | .spiTransaction bytes words => Sys2Proof.Machine.execSpiTransaction bytes words s
  | .serilDatagram ip port bytes nonce => Sys2Proof.Machine.execSerilDatagram ip port bytes nonce s
  | .sessionExpiry id => Sys2Proof.Machine.execSessionExpiry id s
  | .pcieReset => Sys2Proof.Machine.execPcieReset s
  | .dmaDescriptorEnd ch host ecc done => Sys2Proof.Machine.execDmaDescriptorEnd ch host ecc done s
  | .arbTurn g arrivals => Sys2Proof.Machine.execArbTurn g arrivals s
  | .arbStarve g req => Sys2Proof.Machine.execArbStarve g req s
  | .setAliasWrite offset value enables => Sys2Proof.Machine.execSetAliasWrite offset value enables s
  | .clearAliasWrite offset value enables => Sys2Proof.Machine.execClearAliasWrite offset value enables s
  | .sysRemapWrite master value => Sys2Proof.Machine.execSysRemapWrite master value s
  | .mbxClaimWrite path tag => Sys2Proof.Machine.execMbxClaimWrite path tag s
  | .mbxReleaseWrite path value => Sys2Proof.Machine.execMbxReleaseWrite path value s
  | .mbxDoorbellWrite path value host => Sys2Proof.Machine.execMbxDoorbellWrite path value host s
  | .intStatusClear path value fired => Sys2Proof.Machine.execIntStatusClear path value fired s
  | .intSetWrite path value => Sys2Proof.Machine.execIntSetWrite path value s
  | .semAcquire master n tag => Sys2Proof.Machine.execSemAcquire master n tag s
  | .semRelease master n tag => Sys2Proof.Machine.execSemRelease master n tag s
  | .dmaGo path ch => Sys2Proof.Machine.execDmaGo path ch s
  | .dmaAbort path ch => Sys2Proof.Machine.execDmaAbort path ch s
  | .arbFreezeWrite path value => Sys2Proof.Machine.execArbFreezeWrite path value s
  | .trigFiredClear path value => Sys2Proof.Machine.execTrigFiredClear path value s
  | .pwrFlagsClear path value => Sys2Proof.Machine.execPwrFlagsClear path value s
  | .arbHogClear hi value => Sys2Proof.Machine.execArbHogClear hi value s
  | .arbStarveClear g hi value => Sys2Proof.Machine.execArbStarveClear g hi value s
  | .latchedRead path offset => Sys2Proof.Machine.execLatchedRead path offset s
  | .registerWrite path offset value enables host => Sys2Proof.Machine.execRegisterWrite path offset value enables host s
  | .sysIdentify r => Sys2Proof.Machine.execSysIdentify r s
  | .sysStatus r => Sys2Proof.Machine.execSysStatus r s
  | .sysRate r code => Sys2Proof.Machine.execSysRate r code s
  | .sysFrameSize r size => Sys2Proof.Machine.execSysFrameSize r size s
  | .sysMemorySplit r op sizes => Sys2Proof.Machine.execSysMemorySplit r op sizes s
  | .sysMaintenance r op => Sys2Proof.Machine.execSysMaintenance r op s
  | .sysClient r op secs => Sys2Proof.Machine.execSysClient r op secs s
  | .sysResultRead r of_ offset => Sys2Proof.Machine.execSysResultRead r of_ offset s
  | .sysEventsRead r => Sys2Proof.Machine.execSysEventsRead r s
  | .sysEvents r op mask => Sys2Proof.Machine.execSysEvents r op mask s
  | .sysSessionOpen seq key ip port nonce own => Sys2Proof.Machine.execSysSessionOpen seq key ip port nonce own s
  | .sysSessionClose r => Sys2Proof.Machine.execSysSessionClose r s
  | .sysLastApplied r origin former of_ => Sys2Proof.Machine.execSysLastApplied r origin former of_ s
  | .sysObjectChunk r handle offset bytes => Sys2Proof.Machine.execSysObjectChunk r handle offset bytes s
  | .sysObjectCommit r handle length crc => Sys2Proof.Machine.execSysObjectCommit r handle length crc s
  | .sysObjectAbort r handle => Sys2Proof.Machine.execSysObjectAbort r handle s
  | .routeConnect r list src sink len flags => Sys2Proof.Machine.execRouteConnect r list src sink len flags s
  | .routeDisconnect r list sink => Sys2Proof.Machine.execRouteDisconnect r list sink s
  | .routeBatch r list entries => Sys2Proof.Machine.execRouteBatch r list entries s
  | .routeQuery r sink => Sys2Proof.Machine.execRouteQuery r sink s
  | .routeFanout r src next => Sys2Proof.Machine.execRouteFanout r src next s
  | .routeCount r => Sys2Proof.Machine.execRouteCount r s
  | .routeLatency r start stop => Sys2Proof.Machine.execRouteLatency r start stop s
  | .routeXfadeDefault r op len => Sys2Proof.Machine.execRouteXfadeDefault r op len s
  | .blockCreate r list type stage structural pairs => Sys2Proof.Machine.execBlockCreate r list type stage structural pairs s
  | .blockDelete r list page flags => Sys2Proof.Machine.execBlockDelete r list page flags s
  | .blockReshape r list page pairs => Sys2Proof.Machine.execBlockReshape r list page pairs s
  | .blockParam r list page pairs => Sys2Proof.Machine.execBlockParam r list page pairs s
  | .blockParamRead r page bank => Sys2Proof.Machine.execBlockParamRead r page bank s
  | .blockTaps r list total page => Sys2Proof.Machine.execBlockTaps r list total page s
  | .blockMeterRead r meters => Sys2Proof.Machine.execBlockMeterRead r meters s
  | .stripMeterRead r kind first count => Sys2Proof.Machine.execStripMeterRead r kind first count s
  | .mixSelect r list input src len threshold hold => Sys2Proof.Machine.execMixSelect r list input src len threshold hold s
  | .mixGain r list entry => Sys2Proof.Machine.execMixGain r list entry s
  | .mixGainBatch r list entries => Sys2Proof.Machine.execMixGainBatch r list entries s
  | .mixBus r list lane b => Sys2Proof.Machine.execMixBus r list lane b s
  | .mixPrecedence r list lane level depth attack release triggers => Sys2Proof.Machine.execMixPrecedence r list lane level depth attack release triggers s
  | .mixFlag r list set clear => Sys2Proof.Machine.execMixFlag r list set clear s
  | .mixQuery r kind lane input => Sys2Proof.Machine.execMixQuery r kind lane input s
  | .mixBusStatus r lane => Sys2Proof.Machine.execMixBusStatus r lane s
  | .sceneStore r total number flags name => Sys2Proof.Machine.execSceneStore r total number flags name s
  | .sceneCapture r number flags name selector first last => Sys2Proof.Machine.execSceneCapture r number flags name selector first last s
  | .sceneDelete r number => Sys2Proof.Machine.execSceneDelete r number s
  | .sceneDirectory r first => Sys2Proof.Machine.execSceneDirectory r first s
  | .sceneRecall r number flags => Sys2Proof.Machine.execSceneRecall r number flags s
  | .sceneArm r number flags at_ => Sys2Proof.Machine.execSceneArm r number flags at_ s
  | .sceneDisarm r action => Sys2Proof.Machine.execSceneDisarm r action s
  | .sceneStatus r => Sys2Proof.Machine.execSceneStatus r s
  | .sceneLateWindow r op window => Sys2Proof.Machine.execSceneLateWindow r op window s
  | .sceneArea r op size number => Sys2Proof.Machine.execSceneArea r op size number s
  | .sceneEmergAssign r input number release => Sys2Proof.Machine.execSceneEmergAssign r input number release s
  | .sceneEmergClear r input => Sys2Proof.Machine.execSceneEmergClear r input s
  | .sceneListOpen r => Sys2Proof.Machine.execSceneListOpen r s
  | .sceneListCommit r list flags at_ => Sys2Proof.Machine.execSceneListCommit r list flags at_ s
  | .sceneListDiscard r list => Sys2Proof.Machine.execSceneListDiscard r list s
  | .portConfig r port fields => Sys2Proof.Machine.execPortConfig r port fields s
  | .portEnable r port dirs => Sys2Proof.Machine.execPortEnable r port dirs s
  | .portMask r list port dir mask count => Sys2Proof.Machine.execPortMask r list port dir mask count s
  | .portStatus r first count => Sys2Proof.Machine.execPortStatus r first count s
  | .portRate r op port threshold => Sys2Proof.Machine.execPortRate r op port threshold s
  | .portTimestamps r op port length => Sys2Proof.Machine.execPortTimestamps r op port length s
  | .portMclk r output gen mult => Sys2Proof.Machine.execPortMclk r output gen mult s
  | .portMark r port dir mask mode sender tags => Sys2Proof.Machine.execPortMark r port dir mask mode sender tags s
  | .portExpect r port slot fields => Sys2Proof.Machine.execPortExpect r port slot fields s
  | .portProof r outs ins => Sys2Proof.Machine.execPortProof r outs ins s
  | .portClkgen r op gen fields => Sys2Proof.Machine.execPortClkgen r op gen fields s
  | .portMarkRaw r list port slot bytes => Sys2Proof.Machine.execPortMarkRaw r list port slot bytes s
  | .netConfig r port fields => Sys2Proof.Machine.execNetConfig r port fields s
  | .netStatus r port => Sys2Proof.Machine.execNetStatus r port s
  | .streamTx r list stream fields offset ssrc paths => Sys2Proof.Machine.execStreamTx r list stream fields offset ssrc paths s
  | .streamRx r list stream fields linkUs lossMs flags paths text => Sys2Proof.Machine.execStreamRx r list stream fields linkUs lossMs flags paths text s
  | .streamDelete r list stream dir => Sys2Proof.Machine.execStreamDelete r list stream dir s
  | .streamStatus r stream dir => Sys2Proof.Machine.execStreamStatus r stream dir s
  | .streamSdp r stream => Sys2Proof.Machine.execStreamSdp r stream s
  | .netClasses r op classes queue => Sys2Proof.Machine.execNetClasses r op classes queue s
  | .netGates r port op base cycle entries => Sys2Proof.Machine.execNetGates r port op base cycle entries s
  | .netPreempt r op port enable verify verifyMs frag => Sys2Proof.Machine.execNetPreempt r op port enable verify verifyMs frag s
  | .netStreamTable r op first count entries => Sys2Proof.Machine.execNetStreamTable r op first count entries s
  | .netHashRead r port => Sys2Proof.Machine.execNetHashRead r port s
  | .timeStatus r => Sys2Proof.Machine.execTimeStatus r s
  | .timeNow r => Sys2Proof.Machine.execTimeNow r s
  | .timeSet r at_ => Sys2Proof.Machine.execTimeSet r at_ s
  | .timeReferences r op cands port => Sys2Proof.Machine.execTimeReferences r op cands port s
  | .timePtp r op fields => Sys2Proof.Machine.execTimePtp r op fields s
  | .timeTrigger r trigger op fields => Sys2Proof.Machine.execTimeTrigger r trigger op fields s
  | .timeHoldover r op coeffs => Sys2Proof.Machine.execTimeHoldover r op coeffs s
  | .clockRealign r op => Sys2Proof.Machine.execClockRealign r op s
  | .clockOutputs r op w0 w1 pps width => Sys2Proof.Machine.execClockOutputs r op w0 w1 pps width s
  | .timeServo r op fields => Sys2Proof.Machine.execTimeServo r op fields s
  | .timeDirect r op rate offset => Sys2Proof.Machine.execTimeDirect r op rate offset s
  | .clockPhaseStep r mode amount => Sys2Proof.Machine.execClockPhaseStep r mode amount s
  | .pairConfig r op enable mode adopting restore => Sys2Proof.Machine.execPairConfig r op enable mode adopting restore s
  | .pairStatus r flags => Sys2Proof.Machine.execPairStatus r flags s
  | .pairSwitch r flags => Sys2Proof.Machine.execPairSwitch r flags s
  | .pairRetry r => Sys2Proof.Machine.execPairRetry r s
  | .pairLink r op timeout interval retx asym => Sys2Proof.Machine.execPairLink r op timeout interval retx asym s
  | .pairResync r => Sys2Proof.Machine.execPairResync r s
  | .pairSignatures r => Sys2Proof.Machine.execPairSignatures r s
  | .faultLogRead r log start limit => Sys2Proof.Machine.execFaultLogRead r log start limit s
  | .faultActive r => Sys2Proof.Machine.execFaultActive r s
  | .faultClear r entries => Sys2Proof.Machine.execFaultClear r entries s
  | .faultReaction r op entries => Sys2Proof.Machine.execFaultReaction r op entries s
  | .faultPinLevel r op level => Sys2Proof.Machine.execFaultPinLevel r op level s
  | .faultRetryLimit r op limit => Sys2Proof.Machine.execFaultRetryLimit r op limit s
  | .supvZone r detector high low hyst declared => Sys2Proof.Machine.execSupvZone r detector high low hyst declared s
  | .supvCalibrate r detector => Sys2Proof.Machine.execSupvCalibrate r detector s
  | .supvStatus r first count => Sys2Proof.Machine.execSupvStatus r first count s
  | .supvNightly r op enable start period length segments => Sys2Proof.Machine.execSupvNightly r op enable start period length segments s
  | .testNightlyNow r => Sys2Proof.Machine.execTestNightlyNow r s
  | .testMarch r mem => Sys2Proof.Machine.execTestMarch r mem s
  | .testRepairs r => Sys2Proof.Machine.execTestRepairs r s
  | .testInject r fault element place => Sys2Proof.Machine.execTestInject r fault element place s
  | .peatStatus r => Sys2Proof.Machine.execPeatStatus r s
  | .peatFormat r ctrl group copy code base flags => Sys2Proof.Machine.execPeatFormat r ctrl group copy code base flags s
  | .peatTrack r first count group arming => Sys2Proof.Machine.execPeatTrack r first count group arming s
  | .peatRetention r op days => Sys2Proof.Machine.execPeatRetention r op days s
  | .peatHold r op group first last start stop => Sys2Proof.Machine.execPeatHold r op group first last start stop s
  | .peatChainHead r group => Sys2Proof.Machine.execPeatChainHead r group s
  | .peatCursorOpen r group copy kind at_ num flags tracks => Sys2Proof.Machine.execPeatCursorOpen r group copy kind at_ num flags tracks s
  | .peatRead r cursor token faults => Sys2Proof.Machine.execPeatRead r cursor token faults s
  | .peatCursorClose r cursor => Sys2Proof.Machine.execPeatCursorClose r cursor s
  | .peatClipStore r total clip rate => Sys2Proof.Machine.execPeatClipStore r total clip rate s
  | .peatClipDelete r clip => Sys2Proof.Machine.execPeatClipDelete r clip s
  | .peatClipList r first => Sys2Proof.Machine.execPeatClipList r first s
  | .peatPin r clip op => Sys2Proof.Machine.execPeatPin r clip op s
  | .peatPlay r voice clip flags at_ gain => Sys2Proof.Machine.execPeatPlay r voice clip flags at_ gain s
  | .peatQueue r voice clip len => Sys2Proof.Machine.execPeatQueue r voice clip len s
  | .peatStop r voice => Sys2Proof.Machine.execPeatStop r voice s
  | .peatQueues r op queues depth timeout => Sys2Proof.Machine.execPeatQueues r op queues depth timeout s
  | .peatPassthrough r ctrl queue entry payload => Sys2Proof.Machine.execPeatPassthrough r ctrl queue entry payload s
  | .expertMoverRead r by_ first count => Sys2Proof.Machine.execExpertMoverRead r by_ first count s
  | .expertMoverWrite r list entries => Sys2Proof.Machine.execExpertMoverWrite r list entries s
  | .expertMixRead r lane first count => Sys2Proof.Machine.execExpertMixRead r lane first count s
  | .expertMixWrite r list lane first words => Sys2Proof.Machine.execExpertMixWrite r list lane first words s
  | .expertCoefWrite r list page first words => Sys2Proof.Machine.execExpertCoefWrite r list page first words s
  | .expertCoefRead r page first count => Sys2Proof.Machine.execExpertCoefRead r page first count s
  | .expertPageRead r page bank input => Sys2Proof.Machine.execExpertPageRead r page bank input s
  | .expertPageWrite r list page bytes => Sys2Proof.Machine.execExpertPageWrite r list page bytes s
  | .expertImageLoad r total => Sys2Proof.Machine.execExpertImageLoad r total s
  | .expertImageUnload r image => Sys2Proof.Machine.execExpertImageUnload r image s
  | .expertImageList r => Sys2Proof.Machine.execExpertImageList r s
  | .expertInstanceCreate r list image => Sys2Proof.Machine.execExpertInstanceCreate r list image s
  | .expertInstanceDelete r list page flags => Sys2Proof.Machine.execExpertInstanceDelete r list page flags s
  | .expertPlacement r => Sys2Proof.Machine.execExpertPlacement r s
  | .expertTaskStats r => Sys2Proof.Machine.execExpertTaskStats r s
  | .expertFrondRead r frond mem offset count => Sys2Proof.Machine.execExpertFrondRead r frond mem offset count s
  | .expertMemRead r space addr length => Sys2Proof.Machine.execExpertMemRead r space addr length s
  | .expertMemWrite r space addr length bytes => Sys2Proof.Machine.execExpertMemWrite r space addr length bytes s
  | .expertDma r count bytes host => Sys2Proof.Machine.execExpertDma r count bytes host s
  | .expertArbRead r group => Sys2Proof.Machine.execExpertArbRead r group s
  | .expertArbWrite r op group first vals => Sys2Proof.Machine.execExpertArbWrite r op group first vals s
  | .powerStatus r => Sys2Proof.Machine.execPowerStatus r s
  | .powerSlackTarget r op target => Sys2Proof.Machine.execPowerSlackTarget r op target s
  | .powerSlackReport r => Sys2Proof.Machine.execPowerSlackReport r s
  | .powerAgeing r => Sys2Proof.Machine.execPowerAgeing r s
  | .powerVcore r op uv => Sys2Proof.Machine.execPowerVcore r op uv s
  | .secureKey r op key rights bytes => Sys2Proof.Machine.execSecureKey r op key rights bytes s
  | .secureFwUpdate r total => Sys2Proof.Machine.execSecureFwUpdate r total s
  | .secureFwStatus r => Sys2Proof.Machine.execSecureFwStatus r s
  | .secureImageSelect r which => Sys2Proof.Machine.execSecureImageSelect r which s
  | .secureRollbackRead r => Sys2Proof.Machine.execSecureRollbackRead r s
  | .mladirHeartbeat => Sys2Proof.Machine.execMladirHeartbeat s
  | .mladirLockstep => Sys2Proof.Machine.execMladirLockstep s
  | .ptpMessageInterval net kind => Sys2Proof.Machine.execPtpMessageInterval net kind s
  | .net4LinkChange up mbps => Sys2Proof.Machine.execNet4LinkChange up mbps s
  | .frequencyMonitor cand present inRange => Sys2Proof.Machine.execFrequencyMonitor cand present inRange s
  | .triggerPulseEnd trigger => Sys2Proof.Machine.execTriggerPulseEnd trigger s
  | .rootPortLinkUp found => Sys2Proof.Machine.execRootPortLinkUp found s
  | .rootPortInboundRequest ctrl granted => Sys2Proof.Machine.execRootPortInboundRequest ctrl granted s
  | .marchDone rows stays badWrites => Sys2Proof.Machine.execMarchDone rows stays badWrites s
  | .feedSenseSample a b => Sys2Proof.Machine.execFeedSenseSample a b s
  | .vauxPowerOn => Sys2Proof.Machine.execVauxPowerOn s
  | .hostDeliveryTimeout => Sys2Proof.Machine.execHostDeliveryTimeout s
  | .msixControlWrite enable masks => Sys2Proof.Machine.execMsixControlWrite enable masks s
  | .twlBadMessage crc => Sys2Proof.Machine.execTwlBadMessage crc s
  | .alignmentBlock lane bip => Sys2Proof.Machine.execAlignmentBlock lane bip s
  | .tapInstruction which => Sys2Proof.Machine.execTapInstruction which s

end Sys2Proof.Machine
end

