-- ==== Sys2Proof/Machine/Step.lean ====
section
/-!
DEFINITION. The step of the engine: the command at the front of the queue takes effect with the queue's rest waiting;
with no command waiting, RAW advances by one tick of 4 ns (log entry 1).
-/
namespace Sys2Proof.Machine
open Sys2Proof

/-- One step. -/
def step (s : State) : Host.Outcome State Fault Refusal :=
  match s.pending with
  | c :: rest => exec c { s with pending := rest }
  | [] => .next (idleTick s)

/-- The state with the command that a word spells put at the front of its queue; unchanged where it spells none. -/
def State.withFetchWord (s : State) (nbits w : Nat) : State :=
  match decodeTableWord nbits w with
  | some c => { s with pending := c :: s.pending }
  | none => s

end Sys2Proof.Machine
end

