-- ==== Sys2Proof/Safety.lean ====
section
/-!
DEFINITION. What a safe step is (one that answers a next state), a run of such steps, and the words in which statements
about the commands are made: when a frond core may execute an instruction, when a request is served, and what it answers.
-/
namespace Sys2Proof.Machine
open Sys2Proof

/-- A step from the state answers a next state: neither a fault nor a refusal. -/
def stepsOn (s : State) : Prop := ∃ t, step s = Host.Outcome.next t

/-- The state after n steps, when each answers a next state. -/
def runSteps : Nat → State → Option State
  | 0, s => some s
  | n + 1, s => match step s with
    | .next t => runSteps n t
    | _ => none

/-! ### Requests -/

/-- Nothing stands in the way of a request: the mailbox takes it, its number is new, fewer than eight are in progress, it
is meant for this engine, its data reference is good, the slot has the rights, the maintenance state is there where the
command needs it, a standby is not asked to change shared state, and the function needed is ready (R18, R451, R452, R454,
R463, R465 to R467, R469). -/
def runs (c : Cmd) (r : Req) (s : State) : Bool :=
  takes s r.slot && (histOf (slotOf s r.slot) r.seq).isNone && decide (inProgress (slotOf s r.slot) < 8) && !r.partner &&
  (match r.data with | some d => refOk (slotOf s r.slot) d | none => true) && hasRights (slotOf s r.slot) c &&
  (!c.maint || inMaint s) && (decide (c.reach ≠ .shared) || !isStandby s) && !hostFails r &&
  (match c.needs with | some f => isReady s f | none => true)

/-- The state while a request is at work: it stands in its slot's history and among the commands in progress (R451,
R454). -/
def entered (c : Cmd) (r : Req) (s : State) : State := enterHistory r c.code s

/-- The command answers a next state: the request is answered with `rep` in state t. -/
abbrev Answers (i : Instr) (c : Cmd) (r : Req) (s : State) (rep : Reply) (t : State) : Prop :=
  exec i s = .next (answer r.slot r.seq c.code 0 rep t)

/-- A page write with no commit list, on an engine that does not forward it, carries its plan through: where no one holds
its pages, none of them is re-seeding and admission accepts it, the answer names the frame of R53, the planned records stand
in the shadow banks, their pages are pending and the set waits for that frame; a plan that changes nothing is answered alone
(R53, R127, R128, R131). Where a page is re-seeding, the write waits, unanswered, with its edits and its time, and changes no
bank (R128, R456). -/
def CommitsPlan (i : Instr) (c : Cmd) (r : Req) (s : State) (pl : Plan) : Prop :=
  heldPage (entered c r s) none (pagesOf pl.edits ++ changePages pl.changes) = none → admitPlan pl = none → forwards s = false →
    ((∀ p ∈ pagesOf pl.edits, isReseeding s p = false) →
      ∃ t, Answers i c r s (done pl.clamps (fnB (commitFrame s) ++ pl.data)) t ∧
        (pl.edits ≠ [] ∨ pl.changes ≠ [] →
          t.page.shadow = pl.st.page.shadow ∧ (∀ p ∈ pagesOf pl.edits, Tbl.find t.page.status p = some .pending) ∧
          t.commit.sets = s.commit.sets ++ [{ due := some (commitFrame s), pages := pagesOf pl.edits, changes := pl.changes }])) ∧
    ((∃ p ∈ pagesOf pl.edits, isReseeding s p = true) →
      ∃ t w, exec i s = .next t ∧ t.page = s.page ∧ t.commit.sets = s.commit.sets ∧ t.commit.waits = s.commit.waits ++ [w] ∧
        w.slot = r.slot ∧ w.seq = r.seq ∧ w.since = s.clk.raw ∧ w.edits = pl.edits ∧ w.changes = pl.changes)

/-- A change of settings with no page: at the frame of R53, with the answer at once, on an engine that does not forward
it. -/
def CommitsChange (i : Instr) (c : Cmd) (r : Req) (s : State) (cs : List Change) (data : List Byte) : Prop :=
  ∃ cl t, Answers i c r s (done cl (fnB (commitFrame s) ++ data)) t ∧
    t.commit.sets = s.commit.sets ++ [{ due := some (commitFrame s), changes := cs }]

/-- Nothing waits in the request rings of the slots other than c. -/
def OtherRingsEmpty (s : State) (c : Nat) : Prop :=
  ∀ d < 8, d ≠ c → (slotOf s d).state ≠ 1 ∨ (slotOf s d).path = 2 ∨ (slotOf s d).reqProd = (slotOf s d).reqCons

/-! ### The twin link -/

/-- A sequenced message of the partner arrives in order on a link that is up (R345). -/
abbrev Arrives (h : LinkHdr) (s : State) : Prop := s.sys.pairEn = true ∧ s.pair.link.up = true ∧ h.seq = s.pair.link.rxSeq

/-- The state in which such a message takes its effect: it shows the partner alive, acknowledges what its header names,
and is counted and owed an acknowledgement (R345, R347). -/
def arrived (h : LinkHdr) (s : State) : State :=
  setLink (fun k => { k with rxSeq := (k.rxSeq + 1) % 65536, nakked := false, ackDue := true })
    (takeAck h.ack (setLink (fun k => { k with aliveAt := s.clk.raw }) s))

/-- Nothing waits, and the window has room: a message goes out at once with the next number (R345, R346). -/
abbrev LinkFree (s : State) : Prop := s.pair.link.up = true ∧ s.pair.link.unacked.length < 1024 ∧ s.pair.link.queue = []

/-! ### Frond cores -/

/-- Core c of frond f may execute an instruction of a class now: it runs task t (first page p) within its counts, its
address lies in the image's code, and the class may stand there (R156, R165, R166, R212, R214). -/
abbrev Issues (s : State) (f c : Nat) (cls : Cls) (waits : Bool) (p : Nat) (t : ExpertTask) (k : Core) : Prop :=
  runningOn s f c = some (p, t, k) ∧ mayIssue t k.main.settle cls waits = true

/-- The moves beside an operation keep within the run's rights (R161, R166, R190, R201). -/
abbrev MovesAllowed (s : State) (t : ExpertTask) (k : Core) (x y : Move) : Prop :=
  moveAllowed x t s.sys.b false k.main.settle = true ∧ moveAllowed y t s.sys.b true k.main.settle = true

/-- Where the word at the core's address spells it, the command answers a next state in which core c of frond f stands as
k', before an event that waits is taken, END not standing next (R215). -/
def CoreGoes (i : Instr) (s : State) (f c : Nat) (t : ExpertTask) (P : Core → State → Prop) : Prop :=
  frondFetch s f c i = true → ∃ u k', exec i s = .next u ∧ coreOf u f c = k'.takeEvents t (endsAt s.frond f c k'.main.pc) ∧ P k' u

/-- The exact value v as an accumulator holds it: saturated at the 56-bit limits (R192). -/
def acc56 (v : Int) : W56 := BitVec.ofInt 56 (max (-(2 ^ 55)) (min (2 ^ 55 - 1) v))

/-- Z in bit 0, N in bit 1, E in bit 2 of an accumulator's value (R189). -/
def zne (w : W56) : Nat :=
  (if w = 0 then 1 else 0) + (if w.toInt < 0 then 2 else 0) + (if w.toInt < -(2 ^ 47) ∨ 2 ^ 47 ≤ w.toInt then 4 else 0)

/-- An instruction with moves x and y writes the exact value v of its operands to accumulator ad (R192, R207): the
saturated value, seen by the accumulating use of the same register `fast` instructions later and by every other use
`slow` later; Z, N and E of the written value and, when it saturated, AV two instructions later; what the moves load
comes behind it; one instruction time is counted. -/
def WritesAcc (i : Instr) (f c ad fast slow : Nat) (x y : Move) (v : Bank → Int) : Prop :=
  ∀ s p t k, Issues s f c .plain false p t k → MovesAllowed s t k x y →
    CoreGoes i s f c t fun k' _ =>
      let b := k.main.settle
      let w := acc56 (v b)
      (∃ loads, k'.main.pend = b.pend ++ { target := .acc ad, value := w.toNat, issued := b.time, fastAt := b.time + fast
                                           slowAt := b.time + slow, late := decide (fast = 4) } :: loads) ∧
      { clr := 7, set := zne w, at_ := b.time + 2 } ∈ k'.main.swPend ∧
      (w.toInt ≠ v b → { clr := 0, set := 0x20, at_ := b.time + 2 } ∈ k'.main.swPend) ∧
      k'.main.time = b.time + 1 ∧ k'.instrs = k.instrs + 1

/-- An instruction with no element done: what its word spells (R216, R217). -/
def unstarted : Instr → Instr
  | .vmac f c ad pa pb n x y _ => .vmac f c ad pa pb n x y 0
  | .bmovSynchronous f c m _ => .bmovSynchronous f c m {}
  | .bmovPosted f c m => .bmovPosted f c { fields := m.fields }
  | i => i

/-- The frond, core and moves of an instruction of the parallel class (R202). -/
def parallelOf : Instr → Option (Nat × Nat × Move × Move)
  | .nop f c x y | .mac f c _ x y | .dmac f c _ x y | .add f c _ _ x y | .sub f c _ _ x y | .mov f c _ _ x y
  | .add24 f c _ _ x y | .clr f c _ x y | .neg f c _ x y | .abs f c _ x y | .max f c _ _ x y | .min f c _ _ x y
  | .ash f c _ _ x y | .ashr f c _ _ x y | .rnd f c _ x y | .addd f c _ _ x y | .subd f c _ _ x y | .log2 f c _ _ x y
  | .exp2 f c _ _ x y | .cmp f c _ _ x y | .xfr f c _ _ x y => some (f, c, x, y)
  | .cmov f c _ _ cond x y => if cond ≤ 10 then some (f, c, x, y) else none
  | _ => none

/-- The frond and core of an instruction that works on its core's registers alone (R206, R210 to R216, R218). -/
def coreOnlyOf : Instr → Option (Nat × Nat × Cls × Bool)
  | .ldi f c _ _ | .movr f c _ _ | .modp f c _ _ | .swset f c _ | .swclr f c _ | .clrb f c _ => some (f, c, .plain, false)
  | .waitb f c _ => some (f, c, .plain, true)
  | .br f c _ _ | .call f c _ _ | .rts f c _ => some (f, c, .flow, false)
  | .doLoop f c _ _ _ | .rete f c => some (f, c, .ender, false)
  | .vmac f c _ _ _ _ _ _ _ => some (f, c, .long, false)
  | _ => none

/-- An instruction that acts on the core alone answers a next state in which the core goes from bank b (with what has
landed by now) as P says, before an event that waits is taken. -/
def ActsOnCore (i : Instr) (f c : Nat) (cls : Cls) (waits : Bool) (ok : ExpertTask → Core → Bank → Prop)
    (P : ExpertTask → Core → Bank → Core → Prop) : Prop :=
  ∀ s p t k, Issues s f c cls waits p t k → ok t k k.main.settle →
    CoreGoes i s f c t fun k' _ => P t k k.main.settle k'

end Sys2Proof.Machine
end

