-- ==== Sys2Proof/Certificates/Slice0/Obligations.lean ====
section
/-!
DEFINITION. The statements about the engine, for the provers: each names in its docstring what it states of the commands.
-/
open Sys2Proof Sys2Proof.Machine

/-! ### Frond cores -/

/-- The operations of R202 that write Ad with a sum, a difference, a copy or a comparison of accumulators and data
registers answer the saturated exact value, with its flags, at the times of R207.

exec answers a next state, on conditions of the state and the operands alone, with the effect given here, for: add, sub, mov,
add24, clr, neg, abs, max, min, addd, subd. -/
def Obligations.FrondAddFamilyWritesSaturatedResult : Prop :=
  ∀ (f c ad as rs : Nat) (x y : Move),
    WritesAcc (.add f c ad as x y) f c ad 1 2 x y (fun b => (b.fast ad).toInt + (if as = ad then b.fast as else b.slow as).toInt) ∧
    WritesAcc (.sub f c ad as x y) f c ad 1 2 x y (fun b => (b.fast ad).toInt - (if as = ad then b.fast as else b.slow as).toInt) ∧
    WritesAcc (.mov f c ad as x y) f c ad 1 2 x y (fun b => (if as = ad then b.fast as else b.slow as).toInt) ∧
    WritesAcc (.add24 f c ad as x y) f c ad 1 2 x y
      (fun b => (b.fast ad).toInt + (if as = ad then b.fast as else b.slow as).toInt / 16777216) ∧
    WritesAcc (.clr f c ad x y) f c ad 1 2 x y (fun _ => 0) ∧
    WritesAcc (.neg f c ad x y) f c ad 1 2 x y (fun b => -(b.fast ad).toInt) ∧
    WritesAcc (.abs f c ad x y) f c ad 1 2 x y (fun b => |(b.fast ad).toInt|) ∧
    WritesAcc (.max f c ad as x y) f c ad 1 2 x y
      (fun b => let u := (b.fast ad).toInt; let v := (if as = ad then b.fast as else b.slow as).toInt; if u < v then v else u) ∧
    WritesAcc (.min f c ad as x y) f c ad 1 2 x y
      (fun b => let u := (b.fast ad).toInt; let v := (if as = ad then b.fast as else b.slow as).toInt; if v < u then v else u) ∧
    WritesAcc (.addd f c ad rs x y) f c ad 1 2 x y (fun b => (b.fast ad).toInt + (b.data.getD rs 0).toInt * 16777216) ∧
    WritesAcc (.subd f c ad rs x y) f c ad 1 2 x y (fun b => (b.fast ad).toInt - (b.data.getD rs 0).toInt * 16777216)

/-- MAC writes Ad with the exact product of its two words or with Ad plus or minus it; DMAC writes both accumulators of
its pair, each with the product of its half; ASH and ASHR shift by a count that acts within −56 to 56, left when it is
not negative; LOG2 and EXP2 answer four instructions later, LOG2 of zero −48 exponents.

exec answers a next state, on conditions of the state and the operands alone, with the effect given here, for: mac, dmac, ash,
ashr, log2, exp2. -/
def Obligations.FrondProductsAndShiftsWriteResult : Prop :=
  (∀ (f c : Nat) (m : MacFields) (x y : Move),
    WritesAcc (.mac f c m x y) f c m.ad 1 2 x y (fun b =>
      let a := b.data.getD m.sa 0
      let d := b.data.getD m.sb 0
      let p := 2 * ((if m.saUnsigned then (a.toNat : Int) else a.toInt) * (if m.sbUnsigned then (d.toNat : Int) else d.toInt))
      (if m.accumulate then (b.fast m.ad).toInt else 0) + (if m.negate then -p else p))) ∧
  (∀ (f c : Nat) (m : DmacFields) (x y : Move) s p t k, Issues s f c .plain false p t k → MovesAllowed s t k x y →
    CoreGoes (.dmac f c m x y) s f c t fun k' _ =>
      let b := k.main.settle
      let sh := (b.data.getD ((if m.sharedY then 2 else 0) + m.sharedIdx) 0).toInt
      let d0 := b.data.getD (if m.sharedY then 0 else 2) 0
      let d1 := b.data.getD ((if m.sharedY then 0 else 2) + 1) 0
      let p0 := 2 * (sh * (if m.uns0 then (d0.toNat : Int) else d0.toInt))
      let p1 := 2 * (sh * (if m.uns1 then (d1.toNat : Int) else d1.toInt))
      let v0 := (if m.acc0 then (b.fast (2 * m.pair)).toInt else 0) + (if m.neg0 then -p0 else p0)
      let v1 := (if m.acc1 then (b.fast (2 * m.pair + 1)).toInt else 0) + (if m.neg1 then -p1 else p1)
      (∃ loads, k'.main.pend = b.pend ++
        { target := .acc (2 * m.pair), value := (acc56 v0).toNat, issued := b.time, fastAt := b.time + 1, slowAt := b.time + 2 } ::
        { target := .acc (2 * m.pair + 1), value := (acc56 v1).toNat, issued := b.time, fastAt := b.time + 1, slowAt := b.time + 2 } ::
        loads) ∧ k'.instrs = k.instrs + 1) ∧
  (∀ (f c ad rs : Nat) (imm : Int) (x y : Move),
    WritesAcc (.ash f c ad imm x y) f c ad 1 2 x y (fun b =>
      let n := max (-56) (min 56 imm)
      if 0 ≤ n then (b.fast ad).toInt * 2 ^ n.toNat else (b.fast ad).toInt / 2 ^ (-n).toNat) ∧
    WritesAcc (.ashr f c ad rs x y) f c ad 1 2 x y (fun b =>
      let r := (b.data.getD rs 0).toNat % 128
      let n : Int := max (-56) (min 56 (if r < 64 then (r : Int) else (r : Int) - 128))
      if 0 ≤ n then (b.fast ad).toInt * 2 ^ n.toNat else (b.fast ad).toInt / 2 ^ (-n).toNat)) ∧
  (∀ (f c ad as : Nat) (x y : Move) s p t k, Issues s f c .plain false p t k → MovesAllowed s t k x y →
    CoreGoes (.log2 f c ad as x y) s f c t (fun k' _ =>
      let b := k.main.settle
      ∃ w loads, k'.main.pend = b.pend ++ { target := .acc ad, value := w, issued := b.time, fastAt := b.time + 4
                                            slowAt := b.time + 4, late := true } :: loads ∧
        (b.slow as = 0 → w = (BitVec.ofInt 56 (-(48 * 2 ^ 41))).toNat)) ∧
    CoreGoes (.exp2 f c ad as x y) s f c t (fun k' _ =>
      let b := k.main.settle
      ∃ w loads, k'.main.pend = b.pend ++ { target := .acc ad, value := w, issued := b.time, fastAt := b.time + 4
                                            slowAt := b.time + 4, late := true } :: loads ∧
        ((b.slow as).toInt < -(3 * 2 ^ 45) → w = 0) ∧ (2 ^ 44 ≤ (b.slow as).toInt → w = 2 ^ 55 - 1)))

/-- NOP changes no register; CMP sets Z, N and E of the difference and writes nothing; CMOV copies As when its condition
holds; RND and XFR round and range as a store with shift 0 does: to the nearest, ties to even, saturated, unless SW asks
for truncation or wrapping, with SS where the range was passed.

exec answers a next state, on conditions of the state and the operands alone, with the effect given here, for: nop, rnd, cmp,
cmov, xfr. -/
def Obligations.FrondMovesAndCompares : Prop :=
  ∀ (f c : Nat) (x y : Move) s p t k, Issues s f c .plain false p t k → MovesAllowed s t k x y →
    let b := k.main.settle
    let stored (v : W56) : Int := if b.sw.getLsbD 8 then v.toInt / 2 ^ 24 else Fx.roundEven v.toInt (2 ^ 24)
    let ranged (v : W56) : W24 :=
      BitVec.ofInt 24 (if b.sw.getLsbD 9 then stored v else max (-8388608) (min 8388607 (stored v)))
    let ss (v : W56) : Prop := stored v < -8388608 ∨ 8388607 < stored v
    CoreGoes (.nop f c x y) s f c t (fun k' _ => (∃ loads, k'.main.pend = b.pend ++ loads) ∧ k'.instrs = k.instrs + 1) ∧
    (∀ ad as : Nat, CoreGoes (.cmp f c ad as x y) s f c t (fun k' _ =>
      (∃ loads, k'.main.pend = b.pend ++ loads) ∧
      { clr := 7, set := zne (acc56 ((b.slow ad).toInt - (b.slow as).toInt)), at_ := b.time + 2 } ∈ k'.main.swPend)) ∧
    (∀ ad as cond : Nat, cond ≤ 10 → CoreGoes (.cmov f c ad as cond x y) s f c t (fun k' _ =>
      ∃ loads, k'.main.pend = b.pend ++
        (if b.cond cond then [{ target := .acc ad, value := (b.slow as).toNat, issued := b.time, fastAt := b.time + 1
                                slowAt := b.time + 2 }] else []) ++ loads)) ∧
    (∀ ad : Nat, CoreGoes (.rnd f c ad x y) s f c t (fun k' _ =>
      (∃ loads, k'.main.pend = b.pend ++
        { target := .acc ad, value := (BitVec.ofInt 56 ((ranged (b.fast ad)).toInt * 2 ^ 24)).toNat, issued := b.time
          fastAt := b.time + 1, slowAt := b.time + 2 } :: loads) ∧
      (ss (b.fast ad) → { clr := 0, set := 0x10, at_ := b.time + 2 } ∈ k'.main.swPend))) ∧
    (∀ rs as : Nat, CoreGoes (.xfr f c rs as x y) s f c t (fun k' _ =>
      (∃ loads, k'.main.pend = b.pend ++
        { target := .data rs, value := (ranged (b.slow as)).toNat, issued := b.time, fastAt := b.time + 2
          slowAt := b.time + 2 } :: loads) ∧
      (ss (b.slow as) → { clr := 0, set := 0x10, at_ := b.time + 2 } ∈ k'.main.swPend)))

/-- LDI and MOVR write a register by its code (a data register two instructions later, a pointer, modifier or loop count
at once), MODP moves a pointer linearly under a linear modifier, SWSET and SWCLR change the bits of their mask among the
RW fields of SW, CLRB clears bulk flags, WAITB goes on when every flag of its mask is set and holds the core otherwise.

exec answers a next state, on conditions of the state and the operands alone, with the effect given here, for: ldi, swset,
swclr, movr, modp, waitb, clrb. -/
def Obligations.FrondRegisterInstructions : Prop :=
  ∀ f c : Nat,
    (∀ code imm : Nat, ActsOnCore (.ldi f c code imm) f c .plain false (fun _ _ _ => code < 25) fun _ _ b k' =>
      (code < 4 → k'.main.pend = b.pend ++ [{ target := .data code, value := imm % 2 ^ 24, issued := b.time
                                              fastAt := b.time + 2, slowAt := b.time + 2 }]) ∧
      (4 ≤ code → code < 12 → k'.main.p = b.p.set (code - 4) (BitVec.ofNat 24 imm)) ∧
      (12 ≤ code → code < 20 → k'.main.m = b.m.set (code - 12) (BitVec.ofNat 24 imm)) ∧
      (code = 24 → k'.main.sw = (b.sw &&& ~~~(0x003300 : W24)) ||| (BitVec.ofNat 24 imm &&& 0x003300))) ∧
    (∀ (dst src : Nat) s p t k, Issues s f c .plain false p t k → dst < 25 → src < 27 →
      CoreGoes (.movr f c dst src) s f c t fun k' _ =>
        let b := k.main.settle
        ∃ v, k.readReg (portBusy s f) b src = some v ∧
          (4 ≤ dst → dst < 12 → k'.main.p = b.p.set (dst - 4) v) ∧ (12 ≤ dst → dst < 20 → k'.main.m = b.m.set (dst - 12) v) ∧
          (dst < 4 → k'.main.pend = b.pend ++ [{ target := .data dst, value := v.toNat, issued := b.time
                                                 fastAt := b.time + 2, slowAt := b.time + 2 }])) ∧
    (∀ (ptr : Nat) (amount : Int), ActsOnCore (.modp f c ptr amount) f c .plain false (fun _ _ b => (b.m.getD ptr 0).toNat < 2 ^ 22)
      fun _ _ b k' => k'.main.p = b.p.set ptr (BitVec.ofInt 24 ((b.p.getD ptr 0).toNat + amount))) ∧
    (∀ mask : Nat, ActsOnCore (.swset f c mask) f c .plain false (fun _ _ _ => True) fun _ _ b k' =>
      k'.main.sw = b.sw ||| (BitVec.ofNat 24 mask &&& 0x003300) ∧
      { clr := 0, set := (BitVec.ofNat 24 mask &&& (0x37 : W24)).toNat, at_ := b.time + 2 } ∈ k'.main.swPend) ∧
    (∀ mask : Nat, ActsOnCore (.swclr f c mask) f c .plain false (fun _ _ _ => True) fun _ _ b k' =>
      k'.main.sw = b.sw &&& ~~~(BitVec.ofNat 24 mask &&& 0x003300) ∧
      { clr := (BitVec.ofNat 24 mask &&& (0x37 : W24)).toNat, set := 0, at_ := b.time + 2 } ∈ k'.main.swPend) ∧
    (∀ mask : Nat, ActsOnCore (.clrb f c mask) f c .plain false (fun _ _ _ => True) fun _ k _ k' =>
      ∀ i < 4, k'.flags.testBit i = (k.flags.testBit i && !mask.testBit i)) ∧
    (∀ (mask : Nat) s p t k, Issues s f c .plain true p t k →
      (k.flags &&& mask = mask → CoreGoes (.waitb f c mask) s f c t fun k' _ => k'.run = .task p ∧ k'.flags = k.flags) ∧
      (k.flags &&& mask ≠ mask → frondFetch s f c (.waitb f c mask) = true → ∃ u, exec (.waitb f c mask) s = .next u ∧ (coreOf u f c).run = .heldFlags p mask))

/-- The conditions of CMOV and the flow class read SW; codes 11 to 15 are illegal. BR, CALL and RTS go to their target after the delay slot when the condition holds, and on when it does not; CALL
pushes its address + 2; DO pushes a loop of its count and skips the body when the count is zero; RETE swaps the banks
back.

exec answers a next state, on conditions of the state and the operands alone, with the effect given here, for: br, call, rts,
doLoop, rete. -/
def Obligations.FrondFlowInstructions : Prop :=
  (∀ b : Bank,
    let z := b.sw.getLsbD 0
    let n := b.sw.getLsbD 1
    let e := b.sw.getLsbD 2
    b.cond 0 = true ∧ b.cond 1 = z ∧ b.cond 2 = !z ∧ b.cond 3 = n ∧ b.cond 4 = !n ∧ b.cond 5 = (!n && !z) ∧ b.cond 6 = (n || z) ∧
    b.cond 7 = e ∧ b.cond 8 = !e ∧ b.cond 9 = b.sw.getLsbD 4 ∧ b.cond 10 = b.sw.getLsbD 5) ∧
  (∀ (f c cond ad as : Nat) (offset : Int) (x y : Move) (i : Instr) s p t k, 11 ≤ cond →
    i = .cmov f c ad as cond x y ∨ i = .br f c cond offset ∨ i = .call f c cond offset ∨ i = .rts f c cond →
    runningOn s f c = some (p, t, k) → frondFetch s f c i = true → exec i s = .next (stopRun f p K.taskBounds s)) ∧
  ∀ f c : Nat,
    (∀ (cond : Nat) (offset : Int), ActsOnCore (.br f c cond offset) f c .flow false
      (fun t _ b => cond ≤ 10 ∧ (t.codeLo : Int) ≤ b.pc + offset ∧ b.pc + offset < t.codeLo + t.codeLen)
      fun _ _ b k' => k'.main.pc = b.pc + 1 ∧ k'.main.slot = true ∧
        k'.main.target = (if b.cond cond then some (b.pc + offset).toNat else none)) ∧
    (∀ (cond : Nat) (offset : Int), ActsOnCore (.call f c cond offset) f c .flow false
      (fun t _ b => cond ≤ 10 ∧ b.calls.length < 4 ∧ (t.codeLo : Int) ≤ b.pc + offset ∧ b.pc + offset < t.codeLo + t.codeLen)
      fun _ _ b k' => k'.main.pc = b.pc + 1 ∧ k'.main.slot = true ∧
        k'.main.target = (if b.cond cond then some (b.pc + offset).toNat else none) ∧
        k'.main.calls = (if b.cond cond then (b.pc + 2) :: b.calls else b.calls)) ∧
    (∀ cond : Nat, ActsOnCore (.rts f c cond) f c .flow false (fun _ _ b => cond ≤ 10 ∧ b.calls ≠ [])
      fun _ _ b k' => k'.main.slot = true ∧ k'.main.target = (if b.cond cond then b.calls.head? else none) ∧
        k'.main.calls = (if b.cond cond then b.calls.tail else b.calls)) ∧
    (∀ (reg : Option Nat) (count stop : Nat), ActsOnCore (.doLoop f c reg count stop) f c .ender false
      (fun _ _ b => 1 ≤ stop ∧ stop ≤ 8191 ∧ b.loops.length < 4)
      fun _ _ b k' =>
        let n := match reg with | some r => (b.data.getD r 0).toNat | none => count
        (n = 0 → k'.main.pc = b.pc + stop + 1 ∧ k'.main.loops = b.loops) ∧
        (n ≠ 0 → k'.main.pc = b.pc + 1 ∧ k'.main.loops = { start := b.pc + 1, stop := b.pc + stop } :: b.loops ∧
          k'.main.l = b.l.set b.loops.length (BitVec.ofNat 24 n))) ∧
    (ActsOnCore (.rete f c) f c .ender false (fun _ k _ => k.handler = true)
      fun _ k b k' => k'.main = k.shadow ∧ k'.shadow = { b with time := b.time + 1 } ∧ k'.handler = false)

/-- END outside a handler with no posted transfer commits the run: the task's mark, its outputs from output staging, its
ping-pong copy, its run's counts, and the core is free; with transfers posted the core waits for them, and the completion
of the last one commits it. An END that takes the run past its instruction count is an overrun. Completion of the oldest
posted transfer of the frond's port sets its flag and takes it from the queue.

exec answers a next state, on conditions of the state and the operands alone, with the effect given here, for: endRun,
bulkCompletion. -/
def Obligations.FrondEndCommitsTheRun : Prop :=
  (∀ s (f c : Nat) p t k, Issues s f c .ender false p t k → k.handler = false → frondFetch s f c (.endRun f c) = true →
    t.f + t.v * s.sys.b ≤ k.instrs → ∃ u, exec (.endRun f c) s = .next u ∧ Tbl.find u.frond.mark p = some .failed) ∧
  (∀ s (f c : Nat) p t k, Issues s f c .ender false p t k → k.handler = false →
    frondFetch s f c (.endRun f c) = true → k.instrs < t.f + t.v * s.sys.b →
    (k.queue = [] → ∃ u, exec (.endRun f c) s = .next u ∧ (coreOf u f c).run = .idle ∧
      Tbl.find u.frond.mark p = some .committed ∧
      ∃ t', Tbl.find u.frond.tasks p = some t' ∧ t'.copy = !t.copy ∧ t'.undo = [] ∧ t'.maxInstr = max t.maxInstr (k.instrs + 1)) ∧
    (k.queue ≠ [] → ∃ u, exec (.endRun f c) s = .next u ∧ (coreOf u f c).run = .ending p ∧ (coreOf u f c).queue = k.queue)) ∧
  (∀ s (f c : Nat) p t x r y rest k, coreOf s f c = k → k.run = .task p → k.queue = x :: y :: rest → Tbl.find s.frond.tasks p = some t →
    (∀ z ∈ portQueue s f, x.order ≤ z.order) → t.rings[x.ring]? = some r → readFails s r x = [] →
    ∃ u, ∃ k' : Core, exec (.bulkCompletion f c) s = .next u ∧
      coreOf u f c = k'.takeEvents t (endsAt s.frond f c k'.main.pc) ∧ k'.queue = y :: rest ∧ k'.flags.testBit x.flag = true) ∧
  (∀ s (f c : Nat) p t x r k, coreOf s f c = k → k.run = .ending p → k.queue = [x] → Tbl.find s.frond.tasks p = some t →
    (∀ z ∈ portQueue s f, x.order ≤ z.order) → t.rings[x.ring]? = some r → readFails s r x = [] →
    ∃ u, exec (.bulkCompletion f c) s = .next u ∧ (coreOf u f c).run = .idle ∧ Tbl.find u.frond.mark p = some .committed)

/-- VMAC counts N + 4 instruction times and counts L3 down to 0; one element adds or subtracts the product of the X word
at Pa and the Y word at Pb. BMOV between X and Y spaces, posted or not, counts N + 3, and of one word copies it. A bulk read
of one word brings the ring's word; a posted BMOV clears its flag and L3, counts one, and its transfer stands in the
queue.

exec answers a next state, on conditions of the state and the operands alone, with the effect given here, for: vmac,
bmovSynchronous, bmovPosted. -/
def Obligations.FrondLongInstructions : Prop :=
  (∀ s (f c : Nat) p t k (ad pa pb : Nat) (negate ux uy : Bool) (elems : Nat), Issues s f c .long false p t k →
    let b := k.main.settle
    let n := (b.l.getD 3 0).toNat
    b.loops = [] → b.l.length = 4 → modLegal (b.m.getD pa 0) = true → modLegal (b.m.getD pb 0) = true → 0 < n → n ≤ elems →
    vmacAllowed t s.sys.b b pa pb n = true →
    CoreGoes (.vmac f c ad pa pb negate ux uy elems) s f c t fun k' _ =>
      k'.instrs = k.instrs + n + 4 ∧ k'.main.l.getD 3 0 = (0 : W24) ∧ k'.main.pc = b.pc + 1 ∧
      (n = 1 →
        let x := s.frond.read f c false (b.p.getD pa 0).toNat
        let y := s.frond.read f c true (b.p.getD pb 0).toNat
        let prod := 2 * ((if ux then (x.toNat : Int) else x.toInt) * (if uy then (y.toNat : Int) else y.toInt))
        ad < b.acc.length → k'.main.acc = b.acc.set ad (acc56 ((b.fast ad).toInt + (if negate then -prod else prod))))) ∧
  (∀ s (f c : Nat) p t k (m : BmovFields) (run : BmovRun), Issues s f c .long false p t k →
    let b := k.main.settle
    let n := min (b.l.getD 3 0).toNat 4096
    b.loops = [] → b.l.length = 4 → m.srcSpace < 2 → m.dstSpace < 2 → modLegal (b.m.getD m.srcPtr 0) = true →
    modLegal (b.m.getD m.dstPtr 0) = true → n ≤ run.elems →
    bmovAllowed t s.sys.b m b n = true → ∀ i, i = .bmovSynchronous f c m run ∨ i = .bmovPosted f c { fields := m, run := run } →
    CoreGoes i s f c t fun k' u =>
      k'.instrs = k.instrs + n + 3 ∧ k'.main.pc = b.pc + 1 ∧
      (n = 1 → k'.main.l.getD 3 0 = b.l.getD 3 0 - 1 ∧
        ¬((0x1000 : Nat) ≤ (b.p.getD m.dstPtr 0).toNat ∧ (b.p.getD m.dstPtr 0).toNat < 0x4000) →
        u.frond.read f c (decide (m.dstSpace = 1)) (b.p.getD m.dstPtr 0).toNat =
          s.frond.read f c (decide (m.srcSpace = 1)) (b.p.getD m.srcPtr 0).toNat)) ∧
  (∀ s (f c : Nat) p t k (m : BmovFields) (run : BmovRun) r, Issues s f c .long false p t k →
    let b := k.main.settle
    b.loops = [] → b.l.length = 4 → m.srcSpace = 2 → m.dstSpace < 2 → t.rings[m.ring]? = some r → r.bulk = true → 0 < r.size →
    modLegal (b.m.getD m.dstPtr 0) = true → b.l.getD 3 0 = 1 → 1 ≤ run.elems → run.fails = [] →
    mayWrite t s.sys.b (decide (m.dstSpace = 1)) (b.p.getD m.dstPtr 0).toNat = true →
    (bulkPoisoned s (r.base + (b.p.getD m.srcPtr 0).toNat % r.size) = false →
      CoreGoes (.bmovSynchronous f c m run) s f c t fun k' u =>
      k'.instrs = k.instrs + 3 ∧ k'.bulkWords = k.bulkWords + 1 ∧
      (¬((0x1000 : Nat) ≤ (b.p.getD m.dstPtr 0).toNat ∧ (b.p.getD m.dstPtr 0).toNat < 0x4000) →
        u.frond.read f c (decide (m.dstSpace = 1)) (b.p.getD m.dstPtr 0).toNat =
          readBulkWord s (r.base + (b.p.getD m.srcPtr 0).toNat % r.size))) ∧
    (portBusy s f < 4 → CoreGoes (.bmovPosted f c { fields := m, run := run }) s f c t fun k' _ =>
      k'.instrs = k.instrs + 1 ∧ k'.main.l.getD 3 0 = (0 : W24) ∧ k'.flags.testBit m.flag = false ∧
      ∃ x, k'.queue = k.queue ++ [x] ∧ x.words = 1 ∧ x.flag = m.flag))

/-- The frame of the parallel class: an instruction that may be issued, with its moves allowed, changes its core, the
words its stores write and what a discarded run must give back; accumulators, data registers and SW change only through
results in flight, a pointer only by its move's post-modify, and every other core, word and part of the engine stands. -/
def Obligations.FrondParallelFrame : Prop :=
  ∀ (i : Instr) (f c : Nat) (x y : Move) s p t k, parallelOf i = some (f, c, x, y) → Issues s f c .plain false p t k →
    MovesAllowed s t k x y →
    CoreGoes i s f c t fun k' u =>
      let b := k.main.settle
      u = { s with frond := u.frond } ∧
      (∀ f' c', f' * 4 + c' ≠ f * 4 + c → coreOf u f' c' = coreOf s f' c') ∧
      (∀ a, (∀ w ∈ (if x.kind = 0 then [] else (moveStores x b).1), memKey f c false w.1 ≠ a) →
            (∀ w ∈ (if y.kind = 0 then [] else (moveStores y b).1), memKey f c true w.1 ≠ a) →
        Tbl.getD u.frond.mem a 0 = Tbl.getD s.frond.mem a 0) ∧
      u.frond.own = s.frond.own ∧ u.frond.xconst = s.frond.xconst ∧ u.frond.yconst = s.frond.yconst ∧ u.frond.prog = s.frond.prog ∧
      u.frond.mark = s.frond.mark ∧ u.frond.images = s.frond.images ∧ u.frond.placed = s.frond.placed ∧
      k'.main.acc = b.acc ∧ k'.main.data = b.data ∧ k'.main.m = b.m ∧ k'.main.sw = b.sw ∧ k'.main.calls = b.calls ∧
      (∀ j, (x.kind = 0 ∨ j ≠ x.ptr) → (y.kind = 0 ∨ j ≠ y.ptr) → k'.main.p.getD j 0 = b.p.getD j 0) ∧
      k'.shadow = k.shadow ∧ k'.flags = k.flags ∧ k'.queue = k.queue ∧ k'.run = k.run

/-- The frame of the instructions that work on registers alone: where the run is not stopped, nothing but the issuing core
changes. -/
def Obligations.FrondRegisterFrame : Prop :=
  ∀ (i : Instr) (f c : Nat) (cls : Cls) (w : Bool) s u p t k, coreOnlyOf i = some (f, c, cls, w) → Issues s f c cls w p t k →
    frondFetch s f c i = true → exec i s = .next u → u = stopRun f p K.taskBounds s ∨ u = putCore f c (coreOf u f c) s

/-- A fetch outside the image's code, a word that spells no instruction, an instruction where its class may not stand (in a
delay slot, at a loop's end), a move that leaves the run's rights, a condition code above 10, a write of SPOS or BQS, a CALL
or a DO five deep, an RTS without a CALL, a RETE or an END on the wrong side of a handler: each stops the run, whose task
fails in the frame, whose outputs are those it last committed, and the frame is invalid. -/
def Obligations.FrondIllegalInstructionStopsTheRun : Prop :=
  (∀ (f p : Nat) s, (stopRun f p K.taskBounds s).frond.invalid = true ∧
    Tbl.find (stopRun f p K.taskBounds s).frond.mark p = some .failed) ∧
  (∀ (i : Instr) (f c : Nat) (x y : Move) (cls : Cls) (w : Bool) s p t k,
    parallelOf i = some (f, c, x, y) ∨ coreOnlyOf i = some (f, c, cls, w) → runningOn s f c = some (p, t, k) →
    (inRun k.main.pc t.codeLo t.codeLen = false ∨ frondFetch s f c i = false ∧ decodeFrond f c (wordAt s f c) = none) →
    exec i s = .next (stopRun f p K.taskBounds s)) ∧
  (∀ (i : Instr) (f c : Nat) (x y : Move) s p t k, parallelOf i = some (f, c, x, y) → runningOn s f c = some (p, t, k) →
    frondFetch s f c i = true → (mayIssue t k.main.settle .plain false = false ∨ ¬ MovesAllowed s t k x y) →
    exec i s = .next (stopRun f p K.taskBounds s)) ∧
  (∀ (i : Instr) (f c : Nat) (cls : Cls) (w : Bool) s p t k, coreOnlyOf i = some (f, c, cls, w) →
    runningOn s f c = some (p, t, k) → frondFetch s f c i = true → mayIssue t k.main.settle cls w = false →
    exec i s = .next (stopRun f p K.taskBounds s)) ∧
  (∀ (f c ad as cond : Nat) (x y : Move) s p t k, runningOn s f c = some (p, t, k) → 10 < cond →
    frondFetch s f c (.cmov f c ad as cond x y) = true →
    exec (.cmov f c ad as cond x y) s = .next (stopRun f p K.taskBounds s)) ∧
  (∀ (f c code imm cond : Nat) (offset : Int) (reg : Option Nat) (count stop : Nat) s p t k, runningOn s f c = some (p, t, k) →
    (25 ≤ code → frondFetch s f c (.ldi f c code imm) = true → exec (.ldi f c code imm) s = .next (stopRun f p K.taskBounds s)) ∧
    (4 ≤ k.main.settle.calls.length → frondFetch s f c (.call f c cond offset) = true →
      exec (.call f c cond offset) s = .next (stopRun f p K.taskBounds s)) ∧
    (4 ≤ k.main.settle.loops.length → frondFetch s f c (.doLoop f c reg count stop) = true →
      exec (.doLoop f c reg count stop) s = .next (stopRun f p K.taskBounds s)) ∧
    (k.main.settle.calls = [] → frondFetch s f c (.rts f c cond) = true →
      exec (.rts f c cond) s = .next (stopRun f p K.taskBounds s)) ∧
    (k.handler = false → frondFetch s f c (.rete f c) = true → exec (.rete f c) s = .next (stopRun f p K.taskBounds s)) ∧
    (k.handler = true → frondFetch s f c (.endRun f c) = true → exec (.endRun f c) s = .next (stopRun f p K.taskBounds s)))

/-- Every well-formed instruction has a 48-bit word, and the word spells that instruction, with no element of a long
instruction done; a word that spells an instruction is that instruction's word, but for the field that a DO's count source
leaves unread, and what it spells is well formed. -/
def Obligations.FrondEncodingRoundTrip : Prop :=
  (∀ (i : Instr) w, i.wellFormed = true → encodeFrond i = some w →
    w < 2 ^ 48 ∧ ∃ f c, decodeFrond f c w = some (unstarted i)) ∧
  (∀ (f c w : Nat) (i : Instr), w < 2 ^ 48 → decodeFrond f c w = some i → f < 32 → c < 4 →
    i.wellFormed = true ∧ encodeFrond i = some (readBits w))

/-! ### Requests: the protocol and the SYS commands -/

/-- The reports of the SYS group have the fields of R478 at their places: identity, state, events held in the ring with the
ring's own entries, what the engine keeps of a client's transactions, and the rest of a held result.

exec answers a next state, on conditions of the state and the operands alone, with the effect given here, for: sysIdentify,
sysStatus, sysResultRead, sysEventsRead, sysLastApplied. -/
def Obligations.SysReportsAnswerTheirFields : Prop :=
  ∀ (r : Req) (s : State),
    (runs { code := 0x0101 } r s = true → ∃ d, Answers (.sysIdentify r) { code := 0x0101 } r s (done [] d) (entered { code := 0x0101 } r s) ∧
      d.length = 46 ∧ d.take 8 = u64 Config.serial.toNat ∧ (d.drop 8).take 2 = u16 0x00B0 ∧ (d.drop 10).take 1 = u8 2 ∧
      (d.drop 20).take 8 = u64 Config.macBase.toNat ∧ (d.drop 28).take 2 = u8 (if s.sys.pairEn then 1 else 0) ++ u8 (if s.sys.pairPref then 1 else 0)) ∧
    (runs { code := 0x0102 } r s = true → ∃ d, Answers (.sysStatus r) { code := 0x0102 } r s (done [] d) (entered { code := 0x0102 } r s) ∧
      d.length = 20 ∧ (d.drop 4).take 1 = u8 (if s.sys.pairEn then s.pair.state else 7) ∧ (d.drop 6).take 2 = u8 s.sys.rate ++ u8 s.sys.b ∧
      (d.drop 8).take 1 = u8 (s.sys.spareFrond.getD 0xFF) ∧ (d.drop 9).take 1 = u8 (s.sys.spareBank.getD 0xFF) ∧
      (s.sys.maint = none → (d.drop 10).take 1 = u8 0xFF) ∧ (d.drop 12).take 8 = le 8 (s.sys.frameNo % 2 ^ 48)) ∧
    (runs { code := 0x0109 } r s = true → s.mbx.evProd < 2 ^ 32 →
      Answers (.sysEventsRead r) { code := 0x0109 } r s
        (done [] (u32 (s.mbx.evProd - min 256 s.mbx.evProd) ++ u16 (min 256 s.mbx.evProd))
          ((List.range (min 256 s.mbx.evProd)).flatMap fun i =>
            s.mem.mbx.readBytes (0x8200 + (s.mbx.evProd - min 256 s.mbx.evProd + i) % 256 * 64) 64))
        (entered { code := 0x0109 } r s)) ∧
    (∀ origin former of_ : Nat, runs { code := 0x010D } r s = true →
      ∃ d, Answers (.sysLastApplied r origin former of_) { code := 0x010D } r s (done [] d) (entered { code := 0x010D } r s) ∧ d.length = 10 ∧
        (∀ t ∈ s.pair.applied, t.origin = origin → t.slot = former → t.seq = of_ →
          (∀ u ∈ s.pair.applied, u.origin = origin → u.slot = former → u.seq = of_ → u = t) →
          d = u8 (if t.frame.isSome then 1 else 2) ++ u8 t.status ++ le 8 (t.frame.getD 0 % 2 ^ 48)) ∧
        ((∀ u ∈ s.pair.applied, ¬(u.origin = origin ∧ u.slot = former ∧ u.seq = of_)) → (d.drop 1).take 1 = u8 0)) ∧
    (∀ (of_ offset : Nat) d h, runs { code := 0x0108 } r s = true → r.data = some d →
      (slotOf s r.slot).held.find? (fun x => x.seq = of_) = some h →
      let bs := (h.data.drop offset).take d.length
      ∃ t, Answers (.sysResultRead r of_ offset) { code := 0x0108 } r s
          (done [] (u32 bs.length ++ u32 (h.data.length - (offset + bs.length))) bs) t ∧
        (bs ≠ [] → h.data.length ≤ offset + bs.length → ∀ x ∈ (slotOf t r.slot).held, x.seq ≠ of_))

/-- The settings of the SYS group: SYS.CLIENT sets the liveness time clamped to 1 to 600 s, SYS.EVENTS the mask of its own
slot, SYS.MEMORY_SPLIT the split of the next reset when the areas sum to 192 MiB and hold what stands in them; SYS.RATE and
SYS.FRAME_SIZE commit their change at the frame that the answer names, in the maintenance state; SYS.MAINTENANCE takes and
leaves the state for its slot.

exec answers a next state, on conditions of the state and the operands alone, with the effect given here, for: sysRate,
sysFrameSize, sysMemorySplit, sysMaintenance, sysClient, sysEvents. -/
def Obligations.SysSettingsTakeEffect : Prop :=
  ∀ (r : Req) (s : State),
    (∀ secs, runs { code := 0x0107, reach := .here } r s = true →
      ∃ t rep, Answers (.sysClient r 1 secs) { code := 0x0107, reach := .here } r s rep t ∧ t.mbx.liveness = max 1 (min 600 secs) ∧
        rep.status = (if 1 ≤ secs ∧ secs ≤ 600 then 0 else 1) ∧ rep.data.take 4 = u32 (max 1 (min 600 secs)) ∧ rep.data.length = 100) ∧
    (∀ mask, runs { code := 0x010A, reach := .here } r s = true →
      ∃ t, Answers (.sysEvents r 1 mask) { code := 0x010A, reach := .here } r s (done [] (le 32 mask)) t ∧
        (slotOf t r.slot).evMask = mask ∧ ∀ c, c ≠ r.slot → slotOf t c = slotOf s c) ∧
    (∀ sizes, runs { code := 0x0105, reach := .here } r s = true → sizes.length = 6 → sizes.foldl (· + ·) 0 = 192 →
      (∀ i < 6, (areaNeeds (entered { code := 0x0105 } r s)).getD i 0 ≤ sizes.getD i 0 * 1048576) →
      Answers (.sysMemorySplit r 1 sizes) { code := 0x0105, reach := .here } r s (done [] ((sizes ++ s.sys.split).flatMap u32))
        { entered { code := 0x0105 } r s with sys := { s.sys with nextSplit := sizes } }) ∧
    (∀ code, runs { code := 0x0103, reach := .shared, maint := true } r s = true → code ≤ 5 → code ≠ s.sys.rate → forwards s = false →
      rateRefusal code s.sys.b (entered { code := 0x0103 } r s) = none →
      ∃ cl, Answers (.sysRate r code) { code := 0x0103, reach := .shared, maint := true } r s (done cl (fnB (commitFrame s)))
        { entered { code := 0x0103 } r s with
            commit := { s.commit with sets := s.commit.sets ++ [{ due := some (commitFrame s), changes := [.rate code] }] } }) ∧
    (∀ size, runs { code := 0x0104, reach := .shared, maint := true } r s = true → size ∈ [1, 2, 4, 8, 16, 32] → size ≠ s.sys.b →
      forwards s = false → rateRefusal s.sys.rate size (entered { code := 0x0104 } r s) = none →
      Answers (.sysFrameSize r size) { code := 0x0104, reach := .shared, maint := true } r s (done [] (fnB (commitFrame s)))
        { entered { code := 0x0104 } r s with
            commit := { s.commit with sets := s.commit.sets ++ [{ due := some (commitFrame s), changes := [.frameSize size] }] } }) ∧
    (runs { code := 0x0106, reach := .shared, right := 2 } r s = true → (s.sys.maint = none ∨ s.sys.maint = some r.slot) →
      forwards s = false →
      ∃ t, Answers (.sysMaintenance r 1) { code := 0x0106, reach := .shared, right := 2 } r s (done [] (fnB (commitFrame s))) t ∧
        t.sys.maint = some r.slot) ∧
    (runs { code := 0x0106, reach := .shared } r s = true → s.sys.maint = some r.slot → forwards s = false →
      ∃ t, Answers (.sysMaintenance r 0) { code := 0x0106, reach := .shared } r s (done [] (fnB (commitFrame s))) t ∧ t.sys.maint = none)

/-- Sessions and objects: an opening datagram of a provisioned key claims the lowest free slot with the key's rights and
session key HMAC(K, "seril-session" ‖ both nonces); a close and an expiry free the slot; a chunk writes its bytes; an abort
and 30 s without a chunk end the object; a held result goes 10 s after its last read; a client that does not beat is
released.

exec answers a next state, on conditions of the state and the operands alone, with the effect given here, for:
clientLivenessExpiry, heldResultExpiry, objectAbandon, sessionExpiry, sysSessionOpen, sysSessionClose, sysObjectChunk,
sysObjectAbort. -/
def Obligations.SessionsAndObjects : Prop :=
  (∀ (seq key ip port : Nat) (nonce own : List Byte) (s : State) rights K c, s.mbx.isOpen = true → s.sys.mladirUp = true →
    Tbl.find s.mbx.keys key = some (rights, K) → nonce.length = 16 → own.length = 16 → freeSlot s = some c →
    ∃ t x, exec (.sysSessionOpen seq key ip port nonce own) s = .next t ∧ Tbl.find t.mbx.sessions s.mbx.nextSession = some x ∧
      x.slot = c ∧ x.ip = ip ∧ x.port = port ∧ x.key = hmac K (ascii "seril-session" ++ nonce ++ own) ∧
      (slotOf t c).state = 1 ∧ (slotOf t c).path = 2 ∧ (slotOf t c).rights = rights) ∧
  (∀ (r : Req) (s : State), runs { code := 0x010C, reach := .here } r s = true → (slotOf s r.slot).path = 2 →
    ∃ t, exec (.sysSessionClose r) s = .next t ∧ (slotOf t r.slot).state = 0 ∧ ∀ e ∈ t.mbx.sessions, e.2.slot ≠ r.slot) ∧
  (∀ (id : Nat) (s : State) x, Tbl.find s.mbx.sessions id = some x → (slotOf s x.slot).state = 1 →
    ∃ t, exec (.sessionExpiry id) s = .next t ∧ (slotOf t x.slot).state = 0 ∧ ∀ e ∈ t.mbx.sessions, e.2.slot ≠ x.slot) ∧
  (∀ (slot : Nat) (s : State), (slotOf s slot).state = 1 → (slotOf s slot).path ≠ 2 →
    ∃ t, exec (.clientLivenessExpiry slot) s = .next t ∧ (slotOf t slot).state = 0 ∧
      (∀ e ∈ t.mbx.objects, e.2.slot ≠ slot) ∧ ∀ i < 0x1000, t.mem.mbx.read (0x0200 + slot * 0x1000 + i) = 0) ∧
  (∀ (slot seq : Nat) (s : State) h, (slotOf s slot).held.find? (fun x => x.seq = seq) = some h →
    ∃ t, exec (.heldResultExpiry slot seq) s = .next t ∧ ∀ x ∈ (slotOf t slot).held, x.seq ≠ seq) ∧
  (∀ (r : Req) (handle offset : Nat) (bytes : List Byte) (s : State) o, Tbl.find s.mbx.objects handle = some o → o.slot = r.slot →
    offset + bytes.length ≤ o.length →
    let c : Cmd := { code := 0x0110, reach := if o.kind = .firmware then .here else .shared }
    runs c r s = true →
    ∃ t o', Answers (.sysObjectChunk r handle offset bytes) c r s (done [] []) t ∧ Tbl.find t.mbx.objects handle = some o' ∧
      o'.touched = s.clk.raw ∧ ∀ i < bytes.length, Tbl.find o'.data (offset + i) = bytes[i]?) ∧
  (∀ (r : Req) (handle : Nat) (s : State) o, Tbl.find s.mbx.objects handle = some o → o.slot = r.slot →
    let c : Cmd := { code := 0x0112, reach := if o.kind = .firmware then .here else .shared }
    runs c r s = true →
    Answers (.sysObjectAbort r handle) c r s (done [] [])
      { entered c r s with mbx := { (entered c r s).mbx with objects := Tbl.erase s.mbx.objects handle } }) ∧
  (∀ (handle : Nat) (s : State) o, Tbl.find s.mbx.objects handle = some o →
    ∃ t, exec (.objectAbandon handle) s = .next t ∧ t.mbx.objects = Tbl.erase s.mbx.objects handle)

/-! ### Routing, blocks and mixing -/

/-- ROUTE.CONNECT, ROUTE.DISCONNECT and ROUTE.BATCH put the sources of their sinks into the shadow banks and commit them at
the frame they answer; CONNECT names the source it replaces.

exec answers a next state, on conditions of the state and the operands alone, with the effect given here, for: routeConnect,
routeDisconnect, routeBatch. -/
def Obligations.RouteWritesCommitTheConnection : Prop :=
  ∀ (r : Req) (s : State),
    (∀ src sink len flags : Nat, runs (routeCmd 0x0201) r s = true → flags ≤ 1 → named s sink = true → named s src = true →
      isSource s sink = false → isSource s src = true → isHeld s (sink / 256) = false → shadowConnections s < 65536 → 0 ≤ shadowGet s (sink / 256) (sink % 256 * 4) →
      ∃ pl, CommitsPlan (.routeConnect r 0 src sink len flags) (routeCmd 0x0201) r s pl ∧
        shadowGet pl.st (sink / 256) (sink % 256 * 4) = src ∧
        (len ≤ 256 → shadowGet pl.st (sink / 256) (sink % 256 * 4 + 1) = len) ∧
        shadowGet pl.st (sink / 256) (sink % 256 * 4 + 2) = flags ∧
        pl.data = idB (if shadowGet s (sink / 256) (sink % 256 * 4) = src ∨ shadowGet s (sink / 256) (sink % 256 * 4) = noEndpoint
          then none else some (shadowGet s (sink / 256) (sink % 256 * 4)).toNat)) ∧
    (∀ sink : Nat, runs (routeCmd 0x0202) r s = true → named s sink = true → isSource s sink = false →
      isHeld s (sink / 256) = false →
      ∃ pl, CommitsPlan (.routeDisconnect r 0 sink) (routeCmd 0x0202) r s pl ∧
        shadowGet pl.st (sink / 256) (sink % 256 * 4) = noEndpoint ∧ pl.data = []) ∧
    (∀ e : RouteOp, runs (routeCmd 0x0203) r s = true → e.op = 0 → e.flags ≤ 1 → named s e.sink = true → named s e.src = true →
      isSource s e.sink = false → isSource s e.src = true → isHeld s (e.sink / 256) = false → shadowConnections s < 65536 →
      ∃ pl, CommitsPlan (.routeBatch r 0 [e]) (routeCmd 0x0203) r s pl ∧
        shadowGet pl.st (e.sink / 256) (e.sink % 256 * 4) = e.src ∧ pl.data = [])

/-- The reports of the routing commands: the committed source of a sink, with a pending one, its state and crossfade
length; the sinks of a source, at most 256 a response; the counts; path latencies in the order of R60; and the crossfade
default, set within 0 to 256.

exec answers a next state, on conditions of the state and the operands alone, with the effect given here, for: routeQuery,
routeFanout, routeCount, routeLatency, routeXfadeDefault. -/
def Obligations.RouteReports : Prop :=
  ∀ (r : Req) (s : State),
    (∀ sink : Nat, runs { code := 0x0204 } r s = true → named s sink = true → isSource s sink = false →
      ∃ d, Answers (.routeQuery r sink) { code := 0x0204 } r s (done [] d) (entered { code := 0x0204 } r s) ∧ d.length = 12 ∧
        d.take 4 = idB (if activeGet s (sink / 256) (sink % 256 * 4) = noEndpoint then none
          else some (activeGet s (sink / 256) (sink % 256 * 4)).toNat) ∧
        ((Tbl.getD s.route.sinks sink {}).pend.isSome = true → (d.drop 8).take 1 = u8 3) ∧
        (d.drop 10).take 2 = u16 (activeGet s (sink / 256) (sink % 256 * 4 + 1)).toNat) ∧
    (∀ src next : Nat, runs { code := 0x0205 } r s = true → named s src = true → isSource s src = true →
      ∃ d, Answers (.routeFanout r src next) { code := 0x0205 } r s (done [] d) (entered { code := 0x0205 } r s) ∧
        d.length = 6 + 4 * min 256 ((fanout s src).length - next) ∧
        d.drop 6 = (((fanout s src).drop next).take 256).flatMap u32) ∧
    (runs { code := 0x0206 } r s = true →
      ∃ d, Answers (.routeCount r) { code := 0x0206 } r s (done [] d) (entered { code := 0x0206 } r s) ∧ d.length = 20 ∧
        d.take 8 = u32 (connectedIn s.page.active).length ++ u32 (shadowConnections s)) ∧
    (∀ start stop : Nat, runs { code := 0x0207 } r s = true → named s start = true → named s stop = true → isPathStart start = true →
      isPathEnd stop = true →
      ∃ d x, Answers (.routeLatency r start stop) { code := 0x0207 } r s (done [] d x) (entered { code := 0x0207 } r s) ∧
        d.length = 12 ∧ (d.drop 4).take 8 = fnB s.sys.frameNo) ∧
    (∀ len : Nat, runs { code := 0x0208, reach := .shared, needs := some Fn.router } r s = true → forwards s = false →
      ∃ t cl, Answers (.routeXfadeDefault r 1 len) { code := 0x0208, reach := .shared, needs := some Fn.router } r s
          (done cl (u16 (min len 256))) t ∧ t.route.xfDefault = min len 256)

/-- BLOCK.CREATE takes the lowest free page and pin run of its type for one of the stages 1, 3 and 4; DELETE and RESHAPE
change a standalone instance; PARAM writes a parameter within its range; TAPS opens an object for the taps of a FIR.

exec answers a next state, on conditions of the state and the operands alone, with the effect given here, for: blockCreate,
blockDelete, blockReshape, blockParam, blockTaps. -/
def Obligations.BlockWritesCommit : Prop :=
  ∀ (r : Req) (s : State),
    (∀ (type stage : Nat) k page base, runs (blockCmd 0x0301) r s = true → blockType type = some k → stage ∈ [1, 3, 4] →
      (fam s = 2 → offeredAt192 k = true) → k ≠ .asrc → k ≠ .fir → lowestPages s 1 = some page →
      let bare : BlockInst := { kind := k, stage := stage, pinBase := 0x10000, ins := 0, outs := 0 }
      let s1 : State := { s with blk := { s.blk with inst := Tbl.put s.blk.inst page bare } }
      let n := blockPins k (shadowGet s1 page)
      lowestPins s (n.1 + n.2) = some base →
      ∃ pl, CommitsPlan (.blockCreate r 0 type stage 0 []) (blockCmd 0x0301) r s pl ∧
        pl.data = u16 page ++ idB (if n.1 + n.2 = 0 then none else some base) ++ u8 n.1 ++ u8 n.2 ∧
        pl.changes = [.blockNew page { kind := k, stage := stage, pinBase := base, ins := n.1, outs := n.2 } 0]) ∧
    (∀ (page : Nat) i, runs (blockCmd 0x0302) r s = true → Tbl.find s.blk.inst page = some i → i.live = true →
      isHeld s page = false → inEmergency s page = false → namedPins s (pinsOf s page) = false →
      ∃ pl, CommitsPlan (.blockDelete r 0 page 0) (blockCmd 0x0302) r s pl ∧ pl.changes = [.blockDrop page]) ∧
    (∀ (page : Nat) k pl0, runs (blockCmd 0x0303) r s = true → pageBlock s page = some (k, pl0) →
      ∀ pairs pl, planPairs (Plan.reshape page) (orderPairs pairs) { st := entered (blockCmd 0x0303) r s } = .ok pl →
      instanceRefusal (pl.raiseSplits page).st page (some k) = none → reshapePins (pl.raiseSplits page).st page = none →
      CommitsPlan (.blockReshape r 0 page pairs) (blockCmd 0x0303) r s { pl.raiseSplits page with changes := [.blockCost page 0] }) ∧
    (∀ (page id : Nat) (v : Int) f, runs (blockCmd 0x0304) r s = true → isBlockPage s page = true → isStructural s page id = false →
      fieldRefusal s page id v = none → fieldOf s page (shadowGet s page) id = some f → f.kind = .quantity → f.step = 1 →
      f.lo ≤ v → v ≤ f.hi →
      let pl := (({ st := entered (blockCmd 0x0304) r s } : Plan).edit page id v).raiseSplits page
      instanceRefusal pl.st page ((pageBlock s page).map (·.1)) = none →
      CommitsPlan (.blockParam r 0 page [{ id := id, value := v }]) (blockCmd 0x0304) r s pl ∧
        ((pageBlock s page).map (·.1) ≠ some .crossover → shadowGet pl.st page id = v)) ∧
    (∀ (page total : Nat) pl, runs (blockCmd 0x0306) r s = true → pageBlock s page = some (.fir, pl) →
      (s.mbx.objects.filter fun e => e.2.slot = r.slot).length < 2 → s.mbx.objects.length < 8 →
      ∃ t o, Answers (.blockTaps r 0 total page) (blockCmd 0x0306) r s (done [] (u32 s.mbx.nextHandle)) t ∧
        Tbl.find t.mbx.objects s.mbx.nextHandle = some o ∧ o.kind = .taps 0 page ∧ o.length = total ∧ o.slot = r.slot)

/-- The readings of the block group: every parameter of a page from the bank asked for, six bytes a meter and sixteen a
strip behind the frame of the readings; reading a strip clears its clip flag.

exec answers a next state, on conditions of the state and the operands alone, with the effect given here, for: blockParamRead,
blockMeterRead, stripMeterRead. -/
def Obligations.BlockReports : Prop :=
  ∀ (r : Req) (s : State),
    (∀ (page : Nat) k pl, runs { code := 0x0305 } r s = true → pageBlock s page = some (k, pl) → (typeNumber (activeGet s page) k).isSome = true →
      ∃ d, Answers (.blockParamRead r page 0) { code := 0x0305 } r s (done [] d) (entered { code := 0x0305 } r s) ∧
        d.drop 3 = (paramIds s page (activeGet s page)).flatMap fun i => u16 i ++ s32 (activeGet s page i)) ∧
    (∀ ms : List Nat, runs { code := 0x0307 } r s = true → (∀ m ∈ ms, m < 256) →
      ∃ d, Answers (.blockMeterRead r ms) { code := 0x0307 } r s (done [] d) (entered { code := 0x0307 } r s) ∧
        d.length = 8 + 6 * ms.length ∧ d.take 8 = fnB s.blk.meterFrame) ∧
    (∀ kind first count : Nat, runs { code := 0x0308 } r s = true → kind ≤ 2 → first + count ≤ stripCount s kind →
      ∃ d t, Answers (.stripMeterRead r kind first count) { code := 0x0308 } r s (done [] d) t ∧ d.length = 8 + 16 * count ∧
        (∀ n, first ≤ n → n < first + count → stripPage kind n ∉ t.blk.clip) ∧
        (∀ p ∈ s.blk.clip, (∀ n, first ≤ n → n < first + count → stripPage kind n ≠ p) → p ∈ t.blk.clip))

/-- The MIX commands that write: a selection, crosspoints with level, flags and precedence, a bus's trim, flags and limiter,
a precedence level, and control flags; a level is clamped to −120 to +18.06 dB.

exec answers a next state, on conditions of the state and the operands alone, with the effect given here, for: mixSelect,
mixGain, mixGainBatch, mixBus, mixPrecedence, mixFlag. -/
def Obligations.MixWritesCommit : Prop :=
  ∀ (r : Req) (s : State), fam s ≠ 2 →
    (∀ (input src : Nat), runs (mixCmd 0x0401) r s = true → input < mixInputs (fam s) → named s src = true → isSource s src = true →
      isHeld s (0x200 + input / 256) = false →
      ∀ pl, planSelect 0 input src 64 0 0 (entered (mixCmd 0x0401) r s) = .ok pl →
        CommitsPlan (.mixSelect r 0 input src 64 0 0) (mixCmd 0x0401) r s pl ∧ shadowGet pl.st (0x200 + input / 256) (input % 256 * 8) = src) ∧
    (∀ (g : GainOp), runs (mixCmd 0x0402) r s = true → g.lane < 512 → g.input < mixInputs (fam s) → g.flags < 8 →
      isHeld s (0x400 + g.lane) = false →
      ∃ pl, CommitsPlan (.mixGain r 0 g) (mixCmd 0x0402) r s pl ∧
        pl.edits = [⟨0x400 + g.lane, g.input,
          crossValue (if g.level = dbOff then dbOff else max (-12000) (min 1806 g.level)) g.flags (min g.prec 15)⟩]) ∧
    (∀ (g h : GainOp), runs (mixCmd 0x0403) r s = true → g.lane < 512 → g.input < mixInputs (fam s) → g.flags < 8 → h.lane < 512 →
      h.input < mixInputs (fam s) → h.flags < 8 → isHeld s (0x400 + g.lane) = false → isHeld s (0x400 + h.lane) = false →
      ∃ pl, CommitsPlan (.mixGainBatch r 0 [g, h]) (mixCmd 0x0403) r s pl ∧ pl.edits.map (fun e => (e.page, e.field)) =
        [(0x400 + g.lane, g.input), (0x400 + h.lane, h.input)]) ∧
    (∀ (lane : Nat) (b : BusSet), runs (mixCmd 0x0404) r s = true → lane < 512 → b.flags < 8 →
      ∀ pl, Plan.writes { st := entered (mixCmd 0x0404) r s } (0x400 + lane)
          [(0x1000, b.trim, 3, 0), (0x1001, (b.flags % 2 : Nat), 7, 0), (0x1002, (b.flags / 2 % 2 : Nat), 7, 0),
           (0x1004, (b.flags / 4 % 2 : Nat), 7, 0), (0x1003, b.ramp, 9, 0), (0x1005, b.threshold, 11, 0), (0x1006, b.knee, 15, 0),
           (0x1007, b.release, 19, 0), (0x1008, b.step, 23, 0), (0x1009, b.timeout, 27, 0)] = .ok pl →
        CommitsPlan (.mixBus r 0 lane b) (mixCmd 0x0404) r s pl ∧ pl.edits.map (fun e => (e.page, e.field)) =
          [0x1000, 0x1001, 0x1002, 0x1004, 0x1003, 0x1005, 0x1006, 0x1007, 0x1008, 0x1009].map fun i => (0x400 + lane, i)) ∧
    (∀ (lane level attack release : Nat) (depth : Int) pl, runs (mixCmd 0x0405) r s = true → lane < 512 → level < 16 →
      Plan.writes { st := entered (mixCmd 0x0405) r s } (0x400 + lane)
        [(0x1100 + level * 16, depth, 5, 0), (0x1100 + level * 16 + 1, attack, 9, 0), (0x1100 + level * 16 + 2, release, 13, 0)] = .ok pl →
      ∃ pl', CommitsPlan (.mixPrecedence r 0 lane level depth attack release []) (mixCmd 0x0405) r s pl' ∧
        pl'.edits = pl.edits ++ (List.range 8).map fun i => ⟨0x400 + lane, 0x1100 + level * 16 + 8 + i, 0xFFFFFFFF⟩) ∧
    (∀ (set clear : Nat), runs (mixCmd 0x0406) r s = true → set &&& clear = 0 →
      ∃ pl, CommitsPlan (.mixFlag r 0 set clear) (mixCmd 0x0406) r s pl ∧
        pl.edits = (bitsOf 256 set).map (fun i => ⟨0x208, i, 1⟩) ++ (bitsOf 256 clear).map (fun i => ⟨0x208, i, 0⟩))

/-- The reports of Bracken: committed and applied gain of a crosspoint with its remaining steps and level, the selection of
a mix input with its presence, and a bus's sticky saturation and reduction, which the read clears.

exec answers a next state, on conditions of the state and the operands alone, with the effect given here, for: mixQuery,
mixBusStatus. -/
def Obligations.MixReports : Prop :=
  ∀ (r : Req) (s : State), fam s ≠ 2 →
    (∀ lane input : Nat, runs { code := 0x0407 } r s = true → lane < 512 → input < mixInputs (fam s) →
      ∃ d, Answers (.mixQuery r 0 lane input) { code := 0x0407 } r s (done [] d) (entered { code := 0x0407 } r s) ∧ d.length = 12 ∧
        d.take 4 = u32 (Fx.toUnsigned 24 (crossIn s lane (activeRec s (0x400 + lane)) input).gain) ∧
        (d.drop 8).take 2 = u16 (Tbl.getD s.mix.xp (lane * 2048 + input) {}).steps.length) ∧
    (∀ lane input : Nat, runs { code := 0x0407 } r s = true → input < mixInputs (fam s) →
      ∃ d, Answers (.mixQuery r 1 lane input) { code := 0x0407 } r s (done [] d) (entered { code := 0x0407 } r s) ∧ d.length = 6 ∧
        (d.drop 4).take 1 = u8 (if (Tbl.getD s.mix.inp input {}).presNow then 1 else 0)) ∧
    (∀ lane : Nat, runs { code := 0x0408 } r s = true → lane < 512 →
      ∃ d t, Answers (.mixBusStatus r lane) { code := 0x0408 } r s (done [] d) t ∧ d.length = 70 ∧
        d.take 6 = u8 (if (Tbl.getD s.mix.bus lane {}).sat then 1 else 0) ++ u8 0 ++ s32 (Tbl.getD s.mix.bus lane {}).maxGr ∧
        (Tbl.getD t.mix.bus lane {}).sat = false ∧ (Tbl.getD t.mix.bus lane {}).maxGr = 0 ∧
        ∀ l, l ≠ lane → Tbl.getD t.mix.bus l {} = Tbl.getD s.mix.bus l {})

/-! ### Scenes, actions and emergency inputs -/

/-- The scene store: STORE opens a body's object, CAPTURE makes a body of the active content under the next version, which the
directory takes once the copies that Peat writes are read back (log entry 83 for the answer before), DELETE
drops a directory entry, DIRECTORY answers 48 bytes an entry, AREA sets the resident area within 512 to 4,096 KiB,
LATE_WINDOW the window up to 2,000 ms, STATUS lists actions, lists and inputs.

exec answers a next state, on conditions of the state and the operands alone, with the effect given here, for: sceneStore,
sceneCapture, sceneDelete, sceneDirectory, sceneStatus, sceneLateWindow, sceneArea. -/
def Obligations.SceneStoreCommands : Prop :=
  ∀ (r : Req) (s : State),
    (∀ (total number flags : Nat) name, runs (sceneCmd 0x0501) r s = true → flags < 2 → nameOk name = true → number ≤ 1023 → total ≤ 33554432 →
      (s.mbx.objects.filter fun e => e.2.slot = r.slot).length < 2 → s.mbx.objects.length < 8 →
      ∃ t o, Answers (.sceneStore r total number flags name) (sceneCmd 0x0501) r s (done [] (u32 s.mbx.nextHandle)) t ∧
        Tbl.find t.mbx.objects s.mbx.nextHandle = some o ∧ o.slot = r.slot ∧ o.length = total ∧
        o.kind = .scene number flags (padTo 32 name)) ∧
    (∀ (number flags : Nat) name (sel first last : Nat) ps, runs (sceneCmd 0x0502) r s = true → flags < 2 → nameOk name = true → number ≤ 1023 →
      homeMissing s number flags = false → (isReady s Fn.peat = true → objectRoom s = true) → captureSet s sel first last = .ok ps →
      let body := sceneBody number flags (padTo 32 name) (ps.map (captureRecord s))
      body.length ≤ 33554432 → areasFit (putScene number flags (padTo 32 name) body s) = true → forwards s = false →
      ∃ t, Answers (.sceneCapture r number flags name sel first last) (sceneCmd 0x0502) r s
          (done [] (u32 (storedVersion s 2 number + 1))) t ∧
        ((isReady s Fn.peat = false ∨ (systemCopies s).isEmpty = true) → ∃ d, Tbl.find t.scene.dir number = some d ∧
          d.body = body ∧ d.crc = crc32c body ∧ d.version = storedVersion s 2 number + 1) ∧
        (isReady s Fn.peat = true → (systemCopies s).isEmpty = false → t.scene.dir = s.scene.dir ∧
          ∃ x ∈ t.peat.storing, x.kind = 2 ∧ x.id = number ∧ x.body = body ∧ x.version = storedVersion s 2 number + 1)) ∧
    (∀ number : Nat, runs (sceneCmd 0x0503) r s = true → number ≤ 1023 → Tbl.has s.scene.dir number = true →
      isPersistent s number = false → (∀ e ∈ s.scene.actions, e.2.isList = true ∨ e.2.number ≠ number) → forwards s = false →
      ∃ t, Answers (.sceneDelete r number) (sceneCmd 0x0503) r s (done [] []) t ∧ t.scene.dir = Tbl.erase s.scene.dir number) ∧
    (∀ first : Nat, runs { code := 0x0504 } r s = true → first ≤ 1023 →
      let es := s.scene.dir.filter fun e => decide (first ≤ e.1)
      Answers (.sceneDirectory r first) { code := 0x0504 } r s (done [] (u16 es.length) (es.flatMap fun e => dirEntry e.1 e.2))
        (entered { code := 0x0504 } r s) ∧
      ∀ e ∈ es, e.2.name.length ≤ 32 → (dirEntry e.1 e.2).length = 48) ∧
    (∀ number : Nat, runs { code := 0x050A } r s = true →
      Answers (.sceneArea r 0 0 number) { code := 0x050A } r s (done [] (u32 s.scene.areaKiB ++ u32 (residentKiB s)))
        (entered { code := 0x050A } r s)) ∧
    (∀ size number : Nat, runs { code := 0x050A, reach := .shared } r s = true →
      residentKiB s ≤ 512 → areasFit { s with scene := { s.scene with areaKiB := 512 } } = true → forwards s = false →
      ∃ t cl, Answers (.sceneArea r 1 size number) { code := 0x050A, reach := .shared } r s
          (done cl (u32 (max 512 (min 4096 size)) ++ u32 (residentKiB s))) t ∧ t.scene.areaKiB = max 512 (min 4096 size)) ∧
    (∀ window : Nat, runs { code := 0x0509, reach := .shared } r s = true → forwards s = false →
      ∃ t cl, Answers (.sceneLateWindow r 1 window) { code := 0x0509, reach := .shared } r s (done cl (u32 (min window 2000))) t ∧
        t.scene.lateMs = min window 2000) ∧
    (runs { code := 0x0508 } r s = true →
      ∃ d t, Answers (.sceneStatus r) { code := 0x0508 } r s (done [] d) t ∧ d.length = 6 + 8 * s.scene.actions.length ∧
        d.take 2 = u8 s.scene.actions.length ++ u8 s.scene.lists.length ∧
        (d.drop 4).take 2 = u8 (emergBits s (·.asserted)) ++ u8 (emergBits s (·.latched)) ∧ t.scene = s.scene)

/-- The life of an action: RECALL and ARM create one that loads and hold its pages, LIST_COMMIT one that stands loaded with
its list's edits; DISARM and LIST_DISCARD end what they name; the load's end arms it; the hand-over fixes its frame.

exec answers a next state, on conditions of the state and the operands alone, with the effect given here, for: actionHandover,
sceneLoadDone, sceneRecall, sceneArm, sceneDisarm, sceneListOpen, sceneListCommit, sceneListDiscard. -/
def Obligations.SceneActions : Prop :=
  ∀ (r : Req) (s : State),
    (∀ (n flags : Nat) pl left, runs (actionCmd 0x0505 false) r s = true → flags < 4 → n ≤ 1023 → Tbl.has s.scene.dir n = true →
      needsPeat s n = false → s.scene.actions.length < 64 → planScene n (Fx.bit flags 1) (entered (actionCmd 0x0505 false) r s) = .ok (pl, left) →
      (∀ p ∈ pagesOf pl.edits, isHeld s p = false) →
      ∃ t x, Answers (.sceneRecall r n flags) (actionCmd 0x0505 false) r s
          { status := 2, detail := reason 0 left, data := u16 (freeAction s) } t ∧
        Tbl.find t.scene.actions (freeAction s) = some x ∧ x.number = n ∧ x.state = .loading ∧ x.time = none ∧
        x.pages = pagesOf pl.edits ∧
        ∀ p ∈ pagesOf pl.edits, isPending s p = false → isReseeding s p = false → Tbl.find t.page.status p = some (.heldAction (freeAction s))) ∧
    (∀ (n flags : Nat) (at_ : NetTime) pl left, runs (actionCmd 0x0506 false) r s = true → flags < 4 → n ≤ 1023 →
      Tbl.has s.scene.dir n = true → needsPeat s n = false → s.scene.actions.length < 64 → malformedTime at_ = false →
      (s.clk.unset = false ∨ isNextFrame at_ = true) →
      planScene n (Fx.bit flags 1) (entered (actionCmd 0x0506 false) r s) = .ok (pl, left) → (∀ p ∈ pagesOf pl.edits, isHeld s p = false) →
      judge s (timeValue at_) (Fx.bit flags 0) (commitFrame s) ≠ .expired →
      ∃ t x, Answers (.sceneArm r n flags at_) (actionCmd 0x0506 false) r s
          { status := 2, detail := reason 0 left, data := u16 (freeAction s) } t ∧
        Tbl.find t.scene.actions (freeAction s) = some x ∧ x.number = n ∧ x.state = .loading ∧ x.time = timeValue at_ ∧
        x.always = Fx.bit flags 0) ∧
    (∀ (a : Nat) x, runs (sceneCmd 0x0507) r s = true → Tbl.find s.scene.actions a = some x → x.state ≠ .handed → x.frame = none →
      forwards s = false →
      ∃ t, Answers (.sceneDisarm r a) (sceneCmd 0x0507) r s (done [] []) t ∧ t.scene.actions = Tbl.erase s.scene.actions a ∧
        ∀ c ∈ t.commit.sets, c.action ≠ some a) ∧
    (∀ n : Nat, runs { code := 0x050D, reach := .shared, expert := true } r s = true → 1 ≤ n → n ≤ 16 →
      Tbl.has s.scene.lists n = false → (∀ m, 1 ≤ m → m < n → Tbl.has s.scene.lists m = true) →
      ∃ t l, Answers (.sceneListOpen r) { code := 0x050D, reach := .shared, expert := true } r s (done [] (u8 n)) t ∧
        Tbl.find t.scene.lists n = some l ∧ l.slot = r.slot ∧ l.edits = [] ∧ l.changes = []) ∧
    (∀ (n flags : Nat) (at_ : NetTime) l, runs (actionCmd 0x050E true) r s = true → flags < 4 → malformedTime at_ = false →
      (s.clk.unset = false ∨ isNextFrame at_ = true) → Tbl.find s.scene.lists n = some l →
      (pagesHeldBy s (.heldList n) ≠ [] ∨ l.changes ≠ []) → s.scene.actions.length < 64 →
      judge s (timeValue at_) (Fx.bit flags 0) (commitFrame s) ≠ .expired →
      ∃ t x, Answers (.sceneListCommit r n flags at_) (actionCmd 0x050E true) r s { status := 2, data := u16 (freeAction s) } t ∧
        Tbl.find t.scene.actions (freeAction s) = some x ∧ x.isList = true ∧ x.number = n ∧ x.edits = l.edits ∧
        x.changes = l.changes ∧ t.scene.lists = Tbl.erase s.scene.lists n) ∧
    (∀ n : Nat, runs { code := 0x050F, reach := .shared, expert := true } r s = true → Tbl.has s.scene.lists n = true →
      ∃ t, Answers (.sceneListDiscard r n) { code := 0x050F, reach := .shared, expert := true } r s (done [] []) t ∧
        t.scene.lists = Tbl.erase s.scene.lists n ∧
        ∀ p, Tbl.find s.page.status p = some (.heldList n) → Tbl.find t.page.status p = some .reseeding) ∧
    (∀ (a : Nat) x pl left, Tbl.find s.scene.actions a = some x → x.isList = false → x.state = .loading → x.txn = none →
      (∀ p ∈ x.pages, isPending s p = false ∧ Tbl.find s.page.status p ≠ some .reseeding) → s.sys.mladirUp = true →
      planScene x.number x.skipAbsent s = .ok (pl, left) → (∀ p ∈ pagesOf pl.edits, heldByOther s (.heldAction a) p = false) →
      (x.time = none ∨ forwards s = true) →
      ∃ u y, exec (.sceneLoadDone a false none) s = .next u ∧ Tbl.find u.scene.actions a = some y ∧ y.pages = pagesOf pl.edits ∧
        y.edits = pl.edits ∧ y.changes = pl.changes ∧ (forwards s = false → y.state = .loaded) ∧ (forwards s = true → y.txn = some s.pair.nextTxn)) ∧
    (∀ (a : Nat) x t, Tbl.find s.scene.actions a = some x → x.time = some t → x.state = .loaded → x.txn = none →
      s.sys.mladirUp = true → t ≤ s.clk.full + 2000000000 →
      ∀ f, judge s (some t) x.always (commitFrame s) = .onTime f →
      ∃ u y, exec (.actionHandover a) s = .next u ∧ Tbl.find u.scene.actions a = some y ∧ y.state = .handed ∧
        y.frame = some (if s.sys.pairEn then max f (commitFrame s) else f))

/-- Emergency inputs and re-seeding: an assignment and a clear commit at their boundary; a debounced change of a pin that
decides is due at the emergency frame; a standby whose pin differs reports it; a page whose re-seed ends is free, its shadow
bank holds the active content, and a write that waited for it is staged into its list, or committed; where the bank memory
shows an uncorrectable error, the loads that wait for the page end.

exec answers a next state, on conditions of the state and the operands alone, with the effect given here, for: emergAssert,
emergRelease, emergMismatch, reseedDone, sceneEmergAssign, sceneEmergClear. -/
def Obligations.EmergencyInputsAndReseeding : Prop :=
  (∀ (r : Req) (s : State) (input number release : Nat), runs (sceneCmd 0x050B) r s = true → input ≤ 3 → release ≤ 1 → forwards s = false →
    (number ≠ 0xFFFF → assignRefusal input number (decide (release = 1)) (entered (sceneCmd 0x050B) r s) = none) →
    CommitsChange (.sceneEmergAssign r input number release) (sceneCmd 0x050B) r s
      [if number = 0xFFFF then .emergAssign input none false else .emergAssign input (some number) (decide (release = 1))] []) ∧
  (∀ (r : Req) (s : State) (input : Nat), runs (sceneCmd 0x050C) r s = true → input ≤ 3 → (emergOf s input).asserted = false → forwards s = false →
    CommitsChange (.sceneEmergClear r input) (sceneCmd 0x050C) r s [.emergClear input] []) ∧
  (∀ (input : Nat) (s : State) e, input ≤ 3 → Tbl.find s.scene.emerg input = some e → e.pin = false →
    ∃ u, exec (.emergAssert input) s = .next u ∧ (emergOf u input).pin = true ∧
      (pinsDecide s = true → e.asserted = false → e.due = none → (emergOf u input).due = some (emergFrame s, true)) ∧
      (pinsDecide s = false → (emergOf u input).due = e.due)) ∧
  (∀ (input : Nat) (s : State) e, input ≤ 3 → Tbl.find s.scene.emerg input = some e → e.pin = true →
    ∃ u, exec (.emergRelease input) s = .next u ∧ (emergOf u input).pin = false ∧
      (pinsDecide s = true → e.asserted = true → e.due = none → (emergOf u input).due = some (emergFrame s, false)) ∧
      (pinsDecide s = false → (emergOf u input).due = e.due)) ∧
  (∀ (input : Nat) (s : State), input ≤ 3 → isStandby s = true → (emergOf s input).pin ≠ Fx.bit s.pair.partnerEmerg input →
    ∃ rec_ s1, recordOf Src.scene K.emergMismatch 2 1 input 0 s = (rec_, s1) ∧ exec (.emergMismatch input) s = .next (collect rec_ s1) ∧
      rec_.source = Src.scene ∧ rec_.kind = K.emergMismatch ∧ rec_.sev = 2) ∧
  (∀ (page : Nat) (s : State), Tbl.find s.page.status page = some .reseeding → s.commit.waits = [] →
    ∃ u, exec (.reseedDone page false) s = .next u ∧ u.page.status = Tbl.erase s.page.status page ∧
      u.page.shadow = Tbl.put s.page.shadow page (activeRec s page) ∧ u.page.active = s.page.active) ∧
  (∀ (page : Nat) (s : State) (w : WaitWrite), Tbl.find s.page.status page = some .reseeding → s.commit.waits = [w] → w.txn = none →
    pagesOf w.edits = [page] → changePages w.changes = [] →
    let s1 : State := { finishReseed page s with commit := { s.commit with waits := [] } }
    let pl : Plan :=
      { st := w.edits.foldl (fun s e => putShadow e s) s1, edits := w.edits, changes := w.changes, clamps := w.clamps, data := w.data }
    admitPlan pl = none →
    ∃ u, exec (.reseedDone page false) s = .next u ∧ u.commit.waits = [] ∧
      (w.list ≠ 0 → Tbl.has s.scene.lists w.list = true → Tbl.find u.page.status page = some (.heldList w.list)) ∧
      (w.list = 0 → forwards s = false → Tbl.find u.page.status page = some .pending ∧
        u.commit.sets = s.commit.sets ++ [{ due := some (commitFrame s), pages := [page], changes := w.changes }])) ∧
  (∀ (page : Nat) (s : State), Tbl.find s.page.status page = some .reseeding → s.commit.waits = [] →
    ∃ u, exec (.reseedDone page true) s = .next u ∧ Tbl.find u.page.status page = none ∧
      ∀ a x, Tbl.find s.scene.actions a = some x → x.state = .loading → page ∈ x.pages → Tbl.find u.scene.actions a = none)

/-! ### Serial audio ports -/

/-- The PORT commands that change ports: CONFIG, ENABLE, MASK and MARK_RAW commit at their frame; MARK, EXPECT, MCLK and
CLKGEN set what they name, an MCLK output at a frame start edge of its new source; PROOF marks its outputs for 16 blocks and waits for its inputs.

exec answers a next state, on conditions of the state and the operands alone, with the effect given here, for: portConfig,
portEnable, portMask, portMclk, portMark, portExpect, portProof, portClkgen, portMarkRaw. -/
def Obligations.PortChanges : Prop :=
  ∀ (r : Req) (s : State),
    (∀ (port : Nat) (f : PortFields), runs (portCmd 0x0601) r s = true → port < 96 → f.format ≤ 2 → f.width ∈ [16, 24, 32] → f.role ≤ 1 →
      f.gen ≤ 15 → f.rate ≤ 6 → f.flags < 16 → forwards s = false →
      let c : PortCfg := {
        format := f.format, width := f.width, slots := max 2 (min (if f.format = 2 then maxSlots (foreignRate f.rate) else 2) f.slots)
        master := decide (f.role = 1), gen := f.gen, rate := f.rate, bclkInv := Fx.bit f.flags 0, fsyncInv := Fx.bit f.flags 1
        noDelay := Fx.bit f.flags 2, hiZ := Fx.bit f.flags 3 }
      (f.role = 1 → ∀ u ∈ genUsers s f.gen port, u = (foreignRate c.rate, frameSlots c * c.width)) →
      portAdmitted port c (entered (portCmd 0x0601) r s) = none →
      CommitsChange (.portConfig r port f) (portCmd 0x0601) r s [.port port c] []) ∧
    (∀ (port dirs : Nat), runs (portCmd 0x0602) r s = true → port < 96 → dirs < 4 → forwards s = false →
      CommitsChange (.portEnable r port dirs) (portCmd 0x0602) r s [.enable port dirs] []) ∧
    (∀ (port dir mask count : Nat), runs (portCmd 0x0603) r s = true → port < 96 → dir ≤ 1 →
      ∃ pl, CommitsPlan (.portMask r 0 port dir mask count) (portCmd 0x0603) r s pl ∧
        pl.edits = [⟨0x600 + port, dir, mask⟩, ⟨0x600 + port, 2, Fx.clamp 1 (frameSlots (portCfg s port)) count⟩]) ∧
    (∀ (port slot : Nat) bytes, let c : Cmd := { code := 0x060C, reach := .shared, expert := true, needs := some Fn.ports }
      runs c r s = true → port < 96 → slot < 32 → bytes.length = 23 → (portCfg s port).width = 32 →
      ∃ pl, CommitsPlan (.portMarkRaw r 0 port slot bytes) c r s pl ∧ pl.edits = [] ∧ pl.changes = [.markRaw port slot bytes]) ∧
    (∀ (port slot mode sender tag : Nat), runs (portCmd 0x0608) r s = true → port < 96 → slot < 32 → mode ≤ 2 →
      (mode = 0 ∨ (portCfg s port).width = 32) → forwards s = false →
      ∃ t m, Answers (.portMark r port 1 (2 ^ slot) mode sender [tag]) (portCmd 0x0608) r s (done [] []) t ∧
        Tbl.find (portOf t port).markTx slot = some m ∧ m.mode = mode ∧ m.tag = tag ∧ m.raw = none ∧ (portOf t port).sender = sender ∧
        ∀ q, q ≠ port → portOf t q = portOf s q) ∧
    (∀ (port slot : Nat) (f : ExpectFields), runs (portCmd 0x0609) r s = true → port < 96 → slot < 32 → f.flags < 16 → forwards s = false →
      ∃ t e, Answers (.portExpect r port slot f) (portCmd 0x0609) r s (done [] []) t ∧ Tbl.find (portOf t port).expect slot = some e ∧
        e = { anyId := Fx.bit f.flags 0, anyPort := Fx.bit f.flags 1, anySlot := Fx.bit f.flags 2, anyTag := Fx.bit f.flags 3
              sender := f.sender, port := f.port, slot := f.slot, tag := f.tag }) ∧
    (∀ (output gen mult : Nat), runs (portCmd 0x0607) r s = true → output ≤ 3 → gen ≤ 15 → mult ∈ [64, 128, 256, 384, 512] →
      fsOf s.sys.rate * (Tbl.getD s.port.pcg gen {}).n * mult ≤ 49152000 * (Tbl.getD s.port.pcg gen {}).d → forwards s = false →
      ∃ t, Answers (.portMclk r output gen mult) (portCmd 0x0607) r s (done [] []) t ∧
        Tbl.find t.port.mclk output = some { Tbl.getD s.port.mclk output {} with next := some (gen, mult) }) ∧
    (∀ (gen : Nat) (f : GenFields), let c : Cmd := { code := 0x060B, reach := .shared, expert := true, needs := some Fn.ports }
      runs c r s = true → gen ≤ 15 → genRefusal s gen f = none → forwards s = false →
      ∃ t g d, Answers (.portClkgen r 1 gen f) c r s (done [] d) t ∧ Tbl.find t.port.pcg gen = some g ∧
        g = { Tbl.getD s.port.pcg gen {} with n := f.n, d := f.d, len := f.len, phase := f.phase, start := f.start }) ∧
    (∀ (out in_ : PortSlot), runs (portCmd 0x060A) r s = true → out.port < 96 → out.slot < 32 → in_.port < 96 → in_.slot < 32 →
      s.port.proof = none → provable s true out = true → provable s false in_ = true → forwards s = false →
      ∃ t m, exec (.portProof r [out] [in_]) s = .next t ∧ atWork (slotOf t r.slot) r.seq = true ∧
        t.port.proof = some { slot := r.slot, seq := r.seq, outs := [(out.port, out.slot)], ins := [(in_.port, in_.slot)], at_ := s.clk.raw } ∧
        Tbl.find (portOf t out.port).markTx out.slot = some m ∧ m.once = 16)

/-- The reports of ports: 24 bytes a port of state, hold stage, phase, rate and counters; the rate's threshold, set within 1
to 10,000 ppm; the block stamps, oldest first, their length within 64 to 4,096; a finished proof answers its results.

exec answers a next state, on conditions of the state and the operands alone, with the effect given here, for: pathProofDone,
portStatus, portRate, portTimestamps. -/
def Obligations.PortReports : Prop :=
  ∀ (r : Req) (s : State),
    (∀ first count : Nat, runs { code := 0x0604 } r s = true → first + count ≤ 96 →
      ∃ d t, Answers (.portStatus r first count) { code := 0x0604 } r s (done [] d) t ∧ d.length = 24 * count ∧
        (0 < count → d.take 2 = u8 (portOf s first).state ++
          u8 (if (portOf s first).outOn then (portOf s first).outHold else (portOf s first).inHold).code)) ∧
    (∀ port : Nat, runs { code := 0x0605 } r s = true → port < 96 →
      ∃ d t, Answers (.portRate r 0 port 0) { code := 0x0605 } r s (done [] d) t ∧ d.length = 13 ∧ d.take 4 = u32 (portOf s port).threshold ∧
        (d.drop 12) = u8 (if (portOf s port).lost then 2 else if (portOf s port).rateNow.isSome then 1 else 0)) ∧
    (∀ port ppm : Nat, runs { code := 0x0605, reach := .shared, needs := some Fn.ports } r s = true → port < 96 → forwards s = false →
      ∃ d t cl, Answers (.portRate r 1 port ppm) { code := 0x0605, reach := .shared, needs := some Fn.ports } r s (done cl d) t ∧
        (portOf t port).threshold = max 1 (min 10000 ppm)) ∧
    (∀ port : Nat, runs { code := 0x0606 } r s = true → port < 96 →
      Answers (.portTimestamps r 0 port 0) { code := 0x0606 } r s
        (done [] (u16 (portOf s port).tsLen ++ u32 (portOf s port).tsLost ++ u8 (portOf s port).stamps.length)
          ((portOf s port).stamps.reverse.flatMap fun e => u64 e.1 ++ u32 e.2.1 ++ u32 e.2.2)) (entered { code := 0x0606 } r s)) ∧
    (∀ port len : Nat, runs { code := 0x0606, reach := .shared, needs := some Fn.ports } r s = true → port < 96 → forwards s = false →
      ∃ d t cl, Answers (.portTimestamps r 1 port len) { code := 0x0606, reach := .shared, needs := some Fn.ports } r s (done cl d) t ∧
        (portOf t port).tsLen = max 64 (min 4096 len)) ∧
    (∀ p, s.port.proof = some p → p.nightly = false →
      ∃ t, exec .pathProofDone s = .next (answer p.slot p.seq 0x060A 0 (done [] (proofResults s p.ins)) t) ∧ t.port.proof = none)

/-- The events of ports: a frame start edge counts a port frame, sets the drivers and locks a slave on its sixteenth right
frame; a violation lengthens its run; a measurement gives round(1.024 × 10^15 / Δt) mHz; a loss, the end of a hold, a marking
block, an ASRC's lock and a restart's end have their effects.

exec answers a next state, on conditions of the state and the operands alone, with the effect given here, for:
portFrameStartEdge, rateMeasurementDone, rateLoss, holdTimeout, markBlock, asrcLocked, portRestartDone. -/
def Obligations.PortEvents : Prop :=
  (∀ (port phase : Nat) words (bad : Nat) (contention off : Bool) (s : State), seesEdges s port = true →
    ∃ u, exec (.portFrameStartEdge port phase words bad contention off) s = .next u ∧
      (portOf u port).frames = ((portOf s port).frames + 1) % 2 ^ 48 ∧ (portOf u port).driving = drivesNow s ∧
      (bad = 0 → (portOf s port).wrongLong = false → (portOf s port).lost = false → (portOf s port).state = 1 →
        (portOf s port).lockCount = 15 → (portOf u port).state = 2 ∧ (portOf u port).phi0 = some (edgePhase s port phase)) ∧
      (bad ≠ 0 → (portOf u port).wrongRun = (portOf s port).wrongRun + 1 ∧ (portOf u port).rightRun = 0)) ∧
  (∀ (port dt : Nat) (s : State), (portOf s port).measDone = some (dt, false) → dt ≠ 0 →
    ∃ u, exec (.rateMeasurementDone port) s = .next u ∧ (portOf u port).measDone = none ∧
      (portOf u port).rateNow = some ((1024000000000000 + dt / 2) / dt) ∧
      ((portOf s port).rateRef = none → (portOf u port).rateRef = some ((1024000000000000 + dt / 2) / dt))) ∧
  (∀ (port : Nat) (s : State), ((portOf s port).inOn = true ∨ (portOf s port).outOn = true) → (portOf s port).lost = false →
    (portOf s port).state ≠ 0 →
    ∃ u, exec (.rateLoss port) s = .next u ∧ (portOf u port).lost = true ∧ (portOf u port).rateNow = none ∧
      ((portOf s port).state = 2 → (portCfg s port).master = false → (portOf u port).state = 1)) ∧
  (∀ (port n : Nat) (s : State), (portOf s port).outHold.phase = .hold n → holdSamples (portHz s port) ≤ n →
    ∃ u, exec (.holdTimeout port true) s = .next u ∧ (portOf u port).outHold = { (portOf s port).outHold with phase := .down 0 } ∧
      (portOf u port).inHold = (portOf s port).inHold) ∧
  (∀ (port n : Nat) (s : State), (portOf s port).inHold.phase = .hold n → holdSamples (portHz s port) ≤ n →
    ∃ u, exec (.holdTimeout port false) s = .next u ∧ (portOf u port).inHold = { (portOf s port).inHold with phase := .down 0 } ∧
      (portOf u port).outHold = (portOf s port).outHold) ∧
  (∀ (port slot : Nat) (s : State) m bs, Tbl.find (portOf s port).markRx slot = some m → m.full = some (bs, true) →
    ∃ u m', exec (.markBlock port slot) s = .next u ∧ Tbl.find (portOf u port).markRx slot = some m' ∧ m'.full = none ∧
      (blockCrc bs = bs.getD 23 0 → m.last = none → m'.good = min (m.good + 1) 2 ∧ m'.bad = 0 ∧ m'.last = some bs ∧ (1 ≤ m.good → m'.locked = true)) ∧
      (blockCrc bs ≠ bs.getD 23 0 → m'.crc = m.crc + 1 ∧ m'.good = 0 ∧ m'.last = m.last ∧ (1 ≤ m.bad → m'.locked = false))) ∧
  (∀ (page : Nat) (s : State) i, Tbl.find s.blk.inst page = some i → i.kind = .asrc → i.live = true →
    (Tbl.getD s.blk.asrc page {}).locked = false →
    withinNominal s (effGet s page 0).toNat (effGet s page 2).toNat = true →
    ∃ u, exec (.asrcLocked page) s = .next u ∧ Tbl.find u.blk.asrc page =
      some { Tbl.getD s.blk.asrc page {} with locked := true, ramp := (Tbl.getD s.blk.asrc page {}).ramp.retarget gainOne 64 }) ∧
  (∀ (port : Nat) (s : State), (portOf s port).away = true → (portOf s port).state = 2 →
    ∃ u, exec (.portRestartDone port) s = .next u ∧ portOf u port = { portOf s port with away := false } ∧
      ∀ q, q ≠ port → portOf u q = portOf s q)

/-! ### The media network -/

/-- NET.CONFIG sets its port on this engine; the STREAM commands commit a definition that R262 to R265 allow, or its removal;
the expert settings of classes, gates, preemption and stream table take effect.

exec answers a next state, on conditions of the state and the operands alone, with the effect given here, for: netConfig,
streamTx, streamRx, streamDelete, netClasses, netGates, netPreempt, netStreamTable. -/
def Obligations.NetAndStreamChanges : Prop :=
  ∀ (r : Req) (s : State),
    (∀ (port : Nat) (f : NetFields) c cl, let k : Cmd := { code := 0x0701, reach := .here, needs := some Fn.network }
      runs k r s = true → f.flags < 2 → planNet port f (entered k r s) = .ok (c, cl) →
      ∃ t, Answers (.netConfig r port f) k r s (done cl []) t ∧ (netOf t port).cfg = c ∧ c.ip = f.ip ∧ c.speed = f.speed ∧
        c.ttl = max 1 (min 255 f.ttl) ∧ c.serilPort = max 1024 (min 65535 f.seril) ∧ ∀ n, n ≠ port → netOf t n = netOf s n) ∧
    (∀ (id : Nat) (f : StreamFields) (offset ssrc : Nat) (paths : List StreamPath), runs (netCmd 0x0703 false) r s = true →
      let c : StreamCfg := { first := f.first, channels := f.channels, enc := f.enc, ptime := f.ptime, ptype := f.ptype
                             offset := offset, ssrc := ssrc, paths := paths.map (pathOf false) }
      streamRefused (foreseeStreams 0 (entered (netCmd 0x0703 false) r s)) false id c = none →
      ∃ pl, CommitsPlan (.streamTx r 0 id f offset ssrc paths) (netCmd 0x0703 false) r s pl ∧ pl.edits = [] ∧
        pl.changes = [.stream false id c]) ∧
    (∀ (id : Nat) (f : StreamFields) (us ms : Nat) (paths : List StreamPath) text, runs (netCmd 0x0704 false) r s = true →
      let c : StreamCfg := { first := f.first, channels := f.channels, enc := f.enc, ptime := f.ptime, ptype := f.ptype
                             paths := paths.map (pathOf true), linkUs := max 125 (min 20000 us), lossMs := max 1 (min 1000 ms) }
      streamRefused (foreseeStreams 0 (entered (netCmd 0x0704 false) r s)) true id c = none →
      ∃ pl, CommitsPlan (.streamRx r 0 id f us ms 0 paths text) (netCmd 0x0704 false) r s pl ∧ pl.edits = [] ∧
        pl.changes = [.stream true id c]) ∧
    (∀ (id dir : Nat), runs (netCmd 0x0705 false) r s = true → dir ≤ 1 →
      (if dir = 0 then Tbl.has (foreseeStreams 0 (entered (netCmd 0x0705 false) r s)).net.rx id
        else Tbl.has (foreseeStreams 0 (entered (netCmd 0x0705 false) r s)).net.tx id) = true →
      ∃ pl, CommitsPlan (.streamDelete r 0 id dir) (netCmd 0x0705 false) r s pl ∧ pl.changes = [.dropStream (decide (dir = 0)) id]) ∧
    (isStandby s = false → isReady s Fn.network = true → forwards s = false →
      (∀ (classes : List ClassFields) (queue : Nat), runs { code := 0x0708, expert := true } r s = true → classes.length = 4 → queue ≤ 5 →
        ∃ d cl t, Answers (.netClasses r 1 classes queue) { code := 0x0708, expert := true } r s (done cl d) t ∧
          t.net.pcp = classes.map (fun c => min 7 c.pcp) ∧ t.net.dscp = classes.map (fun c => min 63 c.dscp) ∧ t.net.ctrlQueue = queue) ∧
      (∀ (port cycle : Nat) (base : NetTime) (es : List GateFields) g, runs { code := 0x0709, expert := true } r s = true → port < 4 →
        malformedTime base = false → (s.clk.unset = false ∨ isNextFrame base = true) →
        planGates port cycle es (baseTime s (timeValue base)) (entered { code := 0x0709, expert := true } r s) = .ok g →
        ∃ t, Answers (.netGates r port 1 base cycle es) { code := 0x0709, expert := true } r s (done [] (ntNs g.start)) t ∧
          (netOf t port).nextGates = some g ∧ g.cycle = cycle ∧
          g.entries = es.map fun e => { op := e.op, states := e.states, interval := e.interval }) ∧
      (∀ (port enable verify ms frag : Nat), runs { code := 0x070A, expert := true } r s = true → port < 4 → enable ≤ 1 → verify ≤ 1 →
        ∃ d cl t, Answers (.netPreempt r 1 port enable verify ms frag) { code := 0x070A, expert := true } r s (done cl d) t ∧
          (netOf t port).preempt = decide (enable = 1) ∧ (netOf t port).verify = decide (verify = 1) ∧
          (netOf t port).verifyMs = max 1 (min 128 ms) ∧ (netOf t port).fragSize = min 3 frag) ∧
      (∀ (i : Nat) (e : EntryFields), runs { code := 0x070B, expert := true } r s = true → i < 2048 → e.valid ≤ 1 →
        let x : TableEntry := { valid := decide (e.valid = 1), port := e.port, udp := e.udp, dst := e.dst, src := e.src, stream := e.stream, path := e.path }
        tableFault s (Tbl.put s.net.table i x) i = false →
        ∃ t, Answers (.netStreamTable r 1 i 1 [e]) { code := 0x070B, expert := true } r s (done [] []) t ∧ Tbl.find t.net.table i = some x))

/-- The reports of the network: 52 bytes of a port, the counters of a stream's paths, its SDP text, the gate list, the stream
table's entries of 28 bytes, and the 512 bytes of a port's hash table.

exec answers a next state, on conditions of the state and the operands alone, with the effect given here, for: netStatus,
streamStatus, streamSdp, netGates, netStreamTable, netHashRead. -/
def Obligations.NetReports : Prop :=
  ∀ (r : Req) (s : State),
    (∀ port : Nat, runs { code := 0x0702 } r s = true → port < 5 →
      ∃ d, Answers (.netStatus r port) { code := 0x0702 } r s (done [] d) (entered { code := 0x0702 } r s) ∧
        d.take 2 = u8 (if (netOf s port).up then 1 else 0) ++ u8 (speedCode port (netOf s port)) ∧ d.drop 12 = (netOf s port).counters.flatMap u32) ∧
    (∀ (id : Nat) x, runs { code := 0x0706 } r s = true → Tbl.find s.net.rx id = some x →
      ∃ d, Answers (.streamStatus r id 0) { code := 0x0706 } r s (done [] d) (entered { code := 0x0706 } r s) ∧
        d.length = 12 + 24 * x.cfg.paths.length ∧ d.take 1 = u8 (streamLevel s.sys.rate x.cfg)) ∧
    (∀ (id : Nat) x, runs { code := 0x0706 } r s = true → Tbl.find s.net.tx id = some x →
      ∃ d, Answers (.streamStatus r id 1) { code := 0x0706 } r s (done [] d) (entered { code := 0x0706 } r s) ∧
        d.length = 12 + 24 * x.cfg.paths.length ∧ d.take 1 = u8 (streamLevel s.sys.rate x.cfg)) ∧
    (∀ (id : Nat) x, runs { code := 0x0707 } r s = true → Tbl.find s.net.tx id = some x →
      Answers (.streamSdp r id) { code := 0x0707 } r s (done [] (u32 (sdpText s id x.cfg).length) (sdpText s id x.cfg))
        (entered { code := 0x0707 } r s)) ∧
    (∀ (port : Nat) g base cycle es, runs { code := 0x0709, expert := true } r s = true → port < 5 → (netOf s port).gates = some g →
      Answers (.netGates r port 0 base cycle es) { code := 0x0709, expert := true } r s (done [] (ntNs g.start) (gateBytes g))
        (entered { code := 0x0709, expert := true } r s)) ∧
    (∀ first count es, runs { code := 0x070B, expert := true } r s = true → first + count ≤ 2048 →
      ∃ d, Answers (.netStreamTable r 0 first count es) { code := 0x070B, expert := true } r s (done [] [] d)
          (entered { code := 0x070B, expert := true } r s) ∧ d.length = 28 * count) ∧
    (∀ port : Nat, runs { code := 0x070C, expert := true } r s = true → port < 5 →
      ∃ d, Answers (.netHashRead r port) { code := 0x070C, expert := true } r s (done [] [] d) (entered { code := 0x070C, expert := true } r s) ∧
        d.length = 512 ∧ ∀ g ∈ portGroups s port, Fx.bit (d.getD (hashBin (groupMac g) / 8) 0).toNat (hashBin (groupMac g) % 8) = true)

/-- What comes in at a network port: a frame of the stream table is counted in its entry and received on its path; a short
frame is dropped and counted; verify frames are answered; links, gates and the verify timer follow R248, R255 and R258; NET4
steps down and up.

exec answers a next state, on conditions of the state and the operands alone, with the effect given here, for: macFrameReceived,
mediaLinkUp, mediaLinkDown, gateIntervalEnd, gateListStart, verifyTimeout, net4StepDown, net4StepUp, net4LinkChange. -/
def Obligations.NetLinkEvents : Prop :=
  (∀ (n : Nat) (bs : List Byte) (s : State) u i e x, (netOf s n).up = true → 64 ≤ bs.length → bs.length ≤ 1522 →
    getLE bs (bs.length - 4) 4 = crc32 (bs.take (bs.length - 4)) → (untag (bs.take (bs.length - 4))).1 = 0 →
    (let f := (untag (bs.take (bs.length - 4))).2
     getBE f 12 2 ≠ 0x8808 ∧ macAccepts n f s = true ∧ udpIn f = some u) →
    matchEntry s.net.table n u = some (i, e) → u.ok = true → Tbl.find s.net.rx e.stream = some x → x.st.length = 2 → e.path < 2 →
    (let p := rtpIn u.body
     let row := x.cfg.channels * (2 + x.cfg.enc)
     p.version = 2 ∧ p.ptype = x.cfg.ptype ∧ p.payload.length ≠ 0 ∧ p.payload.length % row = 0 ∧
     p.payload.length / row ≤ packetSamples (fam s) x.cfg.ptime) →
    ∃ t y, exec (.macFrameReceived n 0 bs) s = .next t ∧
      Tbl.find t.net.table i = some { e with hits := (e.hits + 1) % 2 ^ 32, last := s.clk.ns } ∧ Tbl.find t.net.rx e.stream = some y ∧
      (y.st.getD e.path {}).packets = ((x.st.getD e.path {}).packets + 1) % 2 ^ 32 ∧ (y.st.getD e.path {}).arrived = true) ∧
  (∀ (n : Nat) (bs : List Byte) (s : State), (netOf s n).up = true → bs.length < 64 →
    ∃ t, exec (.macFrameReceived n 0 bs) s = .next t ∧
      (netOf t n).counters = (netOf s n).counters.set 0 (((netOf s n).counters.getD 0 0 + 1) % 2 ^ 32) ∧ t.net.rx = s.net.rx) ∧
  (∀ (n : Nat) (bs : List Byte) (s : State), (netOf s n).up = true → n ≠ 4 →
    ∃ t, exec (.macFrameReceived n 3 bs) s = .next t ∧ t.out = s.out ++ [.mergeFrame n true]) ∧
  (∀ (n mbps : Nat) (s : State), n < 4 → mbps = portMbps (netOf s n) → (netOf s n).up = false →
    ∃ t, exec (.mediaLinkUp n mbps) s = .next t ∧ (netOf t n).up = true ∧ (s.sys.tested.contains Fn.network = true → isReady s Fn.time = true → isReady t Fn.network = true)) ∧
  (∀ (n : Nat) (s : State), n < 4 → (netOf s n).up = true →
    ∃ t, exec (.mediaLinkDown n) s = .next t ∧ (netOf t n).up = false ∧ (netOf t n).preState = 0 ∧ s.clk.raw ∈ (netOf t n).flaps) ∧
  (∀ (mbps : Nat) (s : State), (netOf s 4).upNext = false →
    ∃ t, exec (.net4LinkChange true mbps) s = .next t ∧ (netOf t 4).up = true ∧ (netOf t 4).rate = mbps ∧ (netOf t 4).stepping = none) ∧
  (∀ (mbps : Nat) (s : State), ∃ t, exec (.net4LinkChange false mbps) s = .next t ∧ (netOf t 4).up = false ∧ (netOf t 4).rate = 0) ∧
  (∀ s : State, (netOf s 4).cfg.stepDown = true → (netOf s 4).up = true → (netOf s 4).rate = 1000 → (netOf s 4).lastUp = none →
    (∀ c ∈ txCfgs s ++ rxCfgs s, ∀ p ∈ c.paths, p.port ≠ 4) →
    exec .net4StepDown s = .next (putNet 4 { netOf s 4 with stepping := some 100, up := false } s)) ∧
  (∀ s : State, (netOf s 4).rate = 100 → (netOf s 4).stepping = none → portMbps (netOf s 4) = 1000 →
    exec .net4StepUp s = .next (putNet 4 { netOf s 4 with stepping := some 1000, up := false } s)) ∧
  (∀ (n : Nat) (s : State) g, (netOf s n).gates = some g → (netOf s n).nextGates = none →
    ∃ t, exec (.gateIntervalEnd n) s = .next t ∧
      (netOf t n).gateIndex = (if (netOf s n).gateIndex + 1 < g.entries.length then (netOf s n).gateIndex + 1 else 0) ∧
      (netOf t n).gates = some g) ∧
  (∀ (n : Nat) (s : State) g, (netOf s n).nextGates = some g →
    ∃ t, exec (.gateListStart n) s = .next t ∧ (netOf t n).gates = some g ∧ (netOf t n).nextGates = none ∧ (netOf t n).gateIndex = 0) ∧
  (∀ (n : Nat) (s : State), (netOf s n).preState = 1 → (netOf s n).up = true →
    ∃ t, exec (.verifyTimeout n) s = .next t ∧
      ((netOf s n).verifySent < 3 → (netOf t n).verifySent = (netOf s n).verifySent + 1 ∧ t.out = s.out ++ [.mergeFrame n false]) ∧
      (3 ≤ (netOf s n).verifySent → (netOf t n).preState = 3))

/-- Control protocols and streams at work: queries, requests and echoes for what the engine holds are answered; conflicts are
defended; an identity is claimed; paths are updated every 125 µs; packets are released; arrivals are stated to the partner.

exec answers a next state, on conditions of the state and the operands alone, with the effect given here, for: pathUpdate,
packetRelease, igmpQuery, igmpReportRepeat, arpRequest, icmpEcho, addressDefence, identityClaim, reconcilePoint. -/
def Obligations.NetProtocolEvents : Prop :=
  (∀ (n group : Nat) (s : State) f, (netOf s n).up = true → (controlAdmits n s).1 = true → group ≠ 0 →
    Tbl.find (netOf s n).groups group = some f → (netOf s n).igmpVer = 3 →
    ∃ t, exec (.igmpQuery n 3 group []) s = .next t ∧
      t.out = (sendIgmp n 0xE0000016 (igmp3Report (if f = [] then 2 else 1) group f) s).out) ∧
  (∀ (n group : Nat) (s : State) old new, Tbl.find (netOf s n).repeats group = some (old, new) →
    ∃ t, exec (.igmpReportRepeat n group) s = .next t ∧ Tbl.find (netOf t n).repeats group = none ∧
      t.out = (reportChange n group old new s).out) ∧
  (∀ (n mac sender : Nat) (s : State) a, (netOf s n).up = true → (controlAdmits n s).1 = true → a ∈ heldAddrs s n → a.2 ≠ 0 →
    (∀ b ∈ heldAddrs s n, b.1 ≠ mac ∧ b.2 ≠ sender ∧ (b.2 = a.2 → b = a)) →
    ∃ t, exec (.arpRequest n mac sender a.2) s = .next t ∧
      t.out = (sendControl n mac a.1 0x0806 (arpPacket 2 a.1 a.2 mac sender) s).out) ∧
  (∀ (n mac src : Nat) (s : State) a (ident seq : Nat) payload, (netOf s n).up = true → (controlAdmits n s).1 = true →
    a ∈ heldAddrs s n → (∀ b ∈ heldAddrs s n, b.2 = a.2 → b = a) →
    ∃ t, exec (.icmpEcho n mac src a.2 ident seq payload) s = .next t ∧
      t.out = (sendControl n mac a.1 0x0800
        (ipPacket a.2 src 1 (classDscp s 2) (netOf s n).cfg.ttl [] (echoReply ident seq payload)) s).out) ∧
  (∀ (n : Nat) (s : State) a c b, Tbl.find (netOf s n).conflicts a = some c → (heldAddrs s n).find? (fun b => decide (b.2 = a)) = some b →
    ∃ t, exec (.addressDefence n a) s = .next t ∧ Tbl.find (netOf t n).conflicts a = some t.clk.raw ∧
      t.out = (gratuitousArp n b (advanceTo (c + msTicks 10000) s)).out) ∧
  (∀ (s : State) at_, s.net.aloneSince = some at_ → s.sys.pairEn = true → s.pair.activeOut = true → s.pair.link.up = false →
    s.pair.partnerIn = false → ∃ t, exec .identityClaim s = .next t ∧ ∀ n ∈ partnerPorts s, (netOf t n).claimed = true) ∧
  (∀ (s : State) id x k0 k1, s.net.rx = [(id, x)] → x.st = [k0, k1] →
    ∃ t y, exec .pathUpdate s = .next t ∧ Tbl.find t.net.rx id = some y ∧
      ((netOf s (pathPort s id 0 x)).up = true → k0.arrived = true → y.st.getD 0 {} = { k0 with arrived := false, timer := 0 }) ∧
      ((netOf s (pathPort s id 0 x)).up = true → k0.arrived = false → k0.up = true → x.cfg.lossMs * 8 ≤ k0.timer + 1 →
        (y.st.getD 0 {}).up = false) ∧
      ((netOf s (pathPort s id 0 x)).up = false → (y.st.getD 0 {}).up = false)) ∧
  (∀ (s : State) id at_ x, nextRelease s = some (id, at_) → Tbl.find s.net.tx id = some x →
    ∃ t y, exec .packetRelease s = .next t ∧ Tbl.find t.net.tx id = some y ∧ y.built = x.built.tail) ∧
  (∀ (id count : Nat) (s : State) x, Tbl.find s.net.rx id = some x → inCopyOrStep s = true →
    (∀ a ∈ s.net.reconPeer, a.item ≠ .packet id count) →
    ∃ t, exec (.reconcilePoint id count) s = .next t ∧
      t.net.reconOwn = ({ item := .packet id count, here := (x.placed.find? fun p => decide (p.count = count)).isSome
                          crc := ((x.placed.find? fun p => decide (p.count = count)).map (·.crc)).getD 0 } :: s.net.reconOwn).take 4096)

/-! ### Time, references, PTP and triggers -/

/-- The TIME and CLOCK commands that report and set: STATUS and NOW answer the present time; SET steps the full time and ends
UNSET; DIRECT writes rate or OFFSET and stands in MANUAL; PHASE_STEP changes the bias; REALIGN answers its extension and commits
it; OUTPUTS and HOLDOVER set what they name.

exec answers a next state, on conditions of the state and the operands alone, with the effect given here, for: timeStatus,
timeNow, timeSet, timeHoldover, clockRealign, clockOutputs, timeDirect, clockPhaseStep. -/
def Obligations.TimeSettingCommands : Prop :=
  ∀ (r : Req) (s : State),
    (runs { code := 0x0801 } r s = true →
      ∃ d, Answers (.timeStatus r) { code := 0x0801 } r s (done [] d) (entered { code := 0x0801 } r s) ∧ d.length = 128 ∧
        d.take 1 = u8 s.time.state ∧ (d.drop 2).take 1 = u8 (s.time.sel.getD 0xFF) ∧ (d.drop 4).take 8 = u64 s.clk.offset ∧
        (d.drop 12).take 8 = s64 s.clk.rate) ∧
    (runs { code := 0x0802 } r s = true →
      Answers (.timeNow r) { code := 0x0802 } r s
        (done [] (ntNs s.clk.full ++ u32 s.clk.ns ++ u32 s.clk.wraps ++ fnB s.sys.frameNo ++ u32 s.clk.boundaryNs)) (entered { code := 0x0802 } r s)) ∧
    (∀ at_ : NetTime, runs (timeCmd 0x0803 false) r s = true → malformedTime at_ = false → isNextFrame at_ = false → timeHeld s = false →
      forwards s = false →
      ∃ t, Answers (.timeSet r at_) (timeCmd 0x0803 false) r s (done [] []) t ∧
        t.clk.full = (at_.sec * 1000000000 + at_.ns) % 2 ^ 64 ∧ t.clk.unset = false ∧ t.time.steps = (s.time.steps + 1) % 2 ^ 32 ∧
        Fx.bit t.int.status0 11 = true) ∧
    (∀ (rate : Int) (offset : Nat), runs (timeCmd 0x080B true) r s = true → forwards s = false →
      ∃ t cl, Answers (.timeDirect r 1 rate offset) (timeCmd 0x080B true) r s (done cl []) t ∧
        t.clk.rate = max (-549755813888) (min 549755813887 rate) ∧ t.clk.count = s.clk.count ∧ t.time.state = 4) ∧
    (∀ (rate : Int) (offset : Nat), runs (timeCmd 0x080B true) r s = true → offset < 2 ^ 48 → forwards s = false →
      ∃ t, Answers (.timeDirect r 2 rate offset) (timeCmd 0x080B true) r s (done [] []) t ∧ t.clk.offset = offset ∧ t.time.state = 4) ∧
    (∀ amount : Int, runs (timeCmd 0x080C true) r s = true → -1000000000 ≤ amount → amount ≤ 1000000000 → forwards s = false →
      ∃ t, Answers (.clockPhaseStep r 0 amount) (timeCmd 0x080C true) r s (done [] (s64 (s.time.bias + amount))) t ∧
        t.time.bias = s.time.bias + amount ∧ t.clk = s.clk) ∧
    (runs (timeCmd 0x0808 false) r s = true → forwards s = false →
      let ns := extensionFor s (commitFrame s) none
      Answers (.clockRealign r 0) (timeCmd 0x0808 false) r s (done [] (u32 ns ++ u16 (skippedCounts s ns) ++ fnB (commitFrame s)))
        { entered (timeCmd 0x0808 false) r s with
            commit := { s.commit with sets := s.commit.sets ++ [{ changes := [.realign ns], due := some (commitFrame s) }] } }) ∧
    (∀ op, runs (timeCmd 0x0808 false) r s = true → op = 1 ∨ op = 2 → forwards s = false →
      ∃ t d, Answers (.clockRealign r op) (timeCmd 0x0808 false) r s (done [] d) t ∧ t.clk.alignAtLock = decide (op = 2)) ∧
    (∀ w0 w1 pps us : Nat, runs { code := 0x0809 } r s = true → w0 ≤ 2 → w1 ≤ 2 → pps ≤ 1 → isStandby s = false → isReady s Fn.time = true →
      forwards s = false →
      ∃ t cl, Answers (.clockOutputs r 1 w0 w1 pps us) { code := 0x0809 } r s (done cl (u8 w0 ++ u8 w1 ++ u8 pps ++ u32 (max 1 (min 500000 us)))) t ∧
        t.time.wclk0 = w0 ∧ t.time.wclk1 = w1 ∧ t.time.pps = decide (pps = 1) ∧ t.time.ppsUs = max 1 (min 500000 us)) ∧
    (∀ c1 c2 c3 a b : Int, runs { code := 0x0807, reach := .here } r s = true → Fx.bit (slotOf s r.slot).rights 1 = true →
      isReady s Fn.time = true →
      ∃ t d, Answers (.timeHoldover r 1 [c1, c2, c3, a, b]) { code := 0x0807, reach := .here } r s (done [] d) t ∧ d.length = 46 ∧
        t.time.hold.c1 = c1 ∧ t.time.hold.c2 = c2 ∧ t.time.hold.c3 = c3 ∧ t.time.hold.a = a ∧ t.time.hold.b = b ∧ t.time.hold.state = 3)

/-- References, PTP, servo and triggers: each setting takes its clamped values at once; TIME.PTP makes an instance on the ports
that it names and on no other; a trigger is armed or cancelled.

exec answers a next state, on conditions of the state and the operands alone, with the effect given here, for: timeReferences,
timePtp, timeTrigger, timeServo. -/
def Obligations.ReferencesAndTriggersAreSet : Prop :=
  ∀ (r : Req) (s : State), isStandby s = false → isReady s Fn.time = true → forwards s = false →
    (∀ (cs : List RefFields) (port : Nat), runs { code := 0x0804 } r s = true → cs.length = 11 → port < 96 →
      ∃ t d cl, Answers (.timeReferences r 1 cs port) { code := 0x0804 } r s (done cl d) t ∧ t.time.sapPort = port ∧
        ∀ (i : Nat) (c : RefFields), cs[i]? = some c → (candOf t i).priority = min 16 c.priority ∧
          (candOf t i).window = max 1 (min 600 c.window) ∧ (candOf t i).restore = max 10 (min 3600 c.restore)) ∧
    (∀ f : PtpFields, runs { code := 0x0805 } r s = true → f.ports < 32 → f.profile ≤ 1 → f.mechanism ≤ 1 → f.role ≤ 1 → f.flags < 4 →
      ∃ t d cl, Answers (.timePtp r 1 f) { code := 0x0805 } r s (done cl d) t ∧ t.time.ptpCfg = (planPtp f).1 ∧
        ∀ n < 5, Tbl.has t.time.ptp n = Fx.bit f.ports n) ∧
    (∀ f : ServoFields, runs { code := 0x080A, expert := true } r s = true → f.bw.length = 4 → f.gains.length = 4 →
      ∃ t d cl, Answers (.timeServo r 1 f) { code := 0x080A, expert := true } r s (done cl d) t ∧
        t.time.stepThr = (if f.stepThr = 0 then 0 else max 1000 (min 1000000000 f.stepThr)) ∧ t.time.slope = max 10 (min 10000 f.slope) ∧
        t.time.bw = f.bw.map (fun v => max 1 (min 10000 v)) ∧ t.time.raw = f.gains ∧ t.time.avgWindow = max 60 (min 86400 f.avgWindow)) ∧
    (∀ (n : Nat) (f : TriggerFields) c cl, runs (timeCmd 0x0806 false) r s = true → n < 16 → malformedTime f.time = false →
      (s.clk.unset = false ∨ isNextFrame f.time = true) →
      planTrigger n f (baseTime s (timeValue f.time)) (entered (timeCmd 0x0806 false) r s) = .ok (c, cl) → (trigOf s n).pulseEnd = none →
      ∃ t, Answers (.timeTrigger r n 1 f) (timeCmd 0x0806 false) r s (done cl (u8 1)) t ∧ trigOf t n = { cfg := some c, time := c.time } ∧
        c.action = f.action ∧ c.pin = f.pin ∧ c.time = baseTime s (timeValue f.time) ∧ ∀ m, m ≠ n → trigOf t m = trigOf s m) ∧
    (∀ (n : Nat) (f : TriggerFields), runs (timeCmd 0x0806 false) r s = true → n < 16 → (trigOf s n).pulseEnd = none →
      ∃ t, Answers (.timeTrigger r n 0 f) (timeCmd 0x0806 false) r s (done [] (u8 0)) t ∧ (trigOf t n).cfg = none)

/-- Measurements and candidates: Syncs, answers and pulses are taken; an average phase slews by the loop of R293; candidates
become valid, qualify, wait and are lost.

exec answers a next state, on conditions of the state and the operands alone, with the effect given here, for: ptpEventMessage,
ppsInPulse, phaseAverageInterval, referenceTimeout, qualificationExpiry, refWaitToRestoreExpiry, ptpMessageInterval,
frequencyMonitor. -/
def Obligations.ReferenceEvents : Prop :=
  (∀ (n src seq : Nat) (t1 corr : Int) (s : State), Tbl.has s.time.ptp n = true → (netOf s n).up = true → fromLeader n src s = true →
    ∃ t, exec (.ptpEventMessage n (.syncMsg src seq true t1 corr)) s = .next t ∧ (ptpOf t n).await = some (seq, stampNow s, corr)) ∧
  (∀ (n src seq : Nat) (t1 corr t2 c : Int) (s : State), Tbl.has s.time.ptp n = true → (netOf s n).up = true → fromLeader n src s = true →
    (ptpOf s n).await = some (seq, t2, c) → s.time.ptpCfg.p2p = false → (ptpOf s n).sm = none →
    ∃ t, exec (.ptpEventMessage n (.followUp src seq t1 corr)) s = .next t ∧ (ptpOf t n).ms = some (t2 - t1 * 65536 - c - corr) ∧
      (ptpOf t n).await = none) ∧
  (∀ (n src seq : Nat) (t4 corr t3 : Int) (s : State), Tbl.has s.time.ptp n = true → (netOf s n).up = true → fromLeader n src s = true →
    (ptpOf s n).req = some (seq, t3) →
    ∃ t, exec (.ptpEventMessage n (.delayResp src seq (portId n) t4 corr)) s = .next t ∧ (ptpOf t n).sm = some (t4 * 65536 - t3 - corr) ∧
      (ptpOf t n).req = none) ∧
  (∀ (n : Nat) (s : State), Tbl.has s.time.ptp n = true → (netOf s n).up = true → (ptpOf s n).role = 2 →
    ∃ t, exec (.ptpMessageInterval n 0) s = .next t ∧ (ptpOf t n).seqSync = ((ptpOf s n).seqSync + 1) % 65536 ∧
      ((netOf s n).gates = none → (netOf s n).nextGates = none → (netOf s n).queue = [] → (∀ e ∈ s.net.tx, e.2.queued = []) →
        ∃ a b, t.out = s.out ++ [.netFrame n a, .netFrame n b])) ∧
  (∀ (n : Nat) (s : State), Tbl.has s.time.ptp n = true → (netOf s n).up = true → (ptpOf s n).role = 1 →
    ∃ t, exec (.ptpMessageInterval n 2) s = .next t ∧ (ptpOf t n).req = some ((ptpOf s n).seqReq, stampNow s)) ∧
  (∀ s : State, s.time.ppsAt = none → ∃ t, exec .ppsInPulse s = .next t ∧ t.time.ppsAt = some s.clk.raw) ∧
  (∀ (s : State) at_, s.time.ppsAt = some at_ → s.clk.raw = at_ + 250000000 →
    ∃ t, exec .ppsInPulse s = .next t ∧ t.time.ppsAt = some s.clk.raw ∧ (candOf t 5).signal = true) ∧
  (∀ (c : Nat) (phase : Int) (s : State), 6 ≤ c → c ≤ 9 → s.time.sel = some c → s.time.state ≠ 4 →
    let u := advanceToCount (nextMultiple s 62500000) s
    let e := samplePhase u (phase - s.time.bias * 65536)
    ∃ t, exec (.phaseAverageInterval c phase false) s = .next t ∧ t.clk.rate = (servoSlew 2 e u).clk.rate ∧
      t.time.integ = (servoSlew 2 e u).time.integ ∧ t.time.offset = e) ∧
  (∀ (c : Nat) (s : State), 6 ≤ c → c ≤ 9 →
    ∃ t, exec (.referenceTimeout c false) s = .next t ∧ (candOf t c).signal = false ∧ (candOf t c).valid = false) ∧
  (∀ (c : Nat) (s : State), 6 ≤ c → c ≤ 9 →
    ∃ t, exec (.frequencyMonitor c true true) s = .next t ∧ (candOf t c).valid = true ∧ (candOf t c).outOfRange = false) ∧
  (∀ (c : Nat) (s : State), c ≤ 9 → (candOf s c).valid = true → (candOf s c).qualified = false →
    ∃ t, exec (.qualificationExpiry c) s = .next t ∧ (candOf t c).qualified = true ∧ (candOf t c).waiting = (candOf s c).dropped) ∧
  (∀ (c : Nat) (s : State), c ≤ 9 → (candOf s c).waiting = true →
    ∃ t, exec (.refWaitToRestoreExpiry c) s = .next t ∧ (candOf t c).waiting = false)

/-- Holdover, the wrap of the counter and the triggers: the rate of R306 every second, the temperature, the records and the
stored model of R308, TIME_WRAPS, and a trigger's hand-over, firing and pulse.

exec answers a next state, on conditions of the state and the operands alone, with the effect given here, for: holdoverSecond,
modelRecord, modelStore, temperatureRead, timeWrap, triggerHandover, triggerFire, triggerPulseEnd. -/
def Obligations.HoldoverAndTriggerEvents : Prop :=
  (∀ s : State, s.time.state = 3 → s.time.hold.keep = false →
    let u := advanceTo ((rawSec s + 1) * 250000000) s
    ∃ t, exec .holdoverSecond s = .next t ∧ t.clk.rate = max (-549755813888) (min 549755813887 (holdoverRate u)) ∧ t.clk.count = u.clk.count) ∧
  (∀ (v : Int) (s : State), ∃ t, exec (.temperatureRead 1 v) s = .next t ∧ t.time.hold.temp = Fx.roundAway (v * 100) 256 ∧
    t.time.hold.sensor = 1 ∧ t.time.hold.fails = 0) ∧
  (∀ (v : Int) (s : State), ∃ t, exec (.temperatureRead 2 v) s = .next t ∧ t.time.hold.fails = s.time.hold.fails + 1 ∧
    (s.time.hold.fails < 2 → t.time.hold.temp = s.time.hold.temp) ∧ (2 ≤ s.time.hold.fails → t.time.hold.temp = v ∧ t.time.hold.sensor = 0)) ∧
  (∀ (s : State) c, s.time.sel = some c → s.time.state = 2 → (candOf s c).qualAt + msTicks 3600000 ≤ s.clk.raw →
    ∃ t m, exec .modelRecord s = .next t ∧ t.time.hold.recs.getLast? = some m ∧ m.temp = s.time.hold.temp ∧ m.rate = s.clk.rate) ∧
  (∀ (s : State) e, s.time.hold.epoch = some e →
    exec .modelStore s = .next { s with time := { s.time with hold := { s.time.hold with
      stored := some ([s.time.hold.c1, s.time.hold.c2, s.time.hold.c3, s.time.hold.a, s.time.hold.b], e, s.clk.rate) } } }) ∧
  (∀ s : State, let raw := s.clk.rawOf (s.clk.count + (2 ^ 48 - s.clk.reading : Nat))
    s.clk.raw < raw → raw < 2 ^ 64 → s.clk.wraps < 2 ^ 32 →
    ∃ t, exec .timeWrap s = .next t ∧ t.clk.raw = raw ∧ t.clk.wraps = (s.clk.wraps + s.clk.wrapsBetween s.clk.raw raw) % 2 ^ 32 ∧
      (s.clk.wrapsBetween s.clk.raw raw ≠ 0 → Fx.bit t.int.status0 10 = true)) ∧
  (∀ (n : Nat) (s : State) c, (trigOf s n).cfg = some c → (trigOf s n).handed = false → s.sys.mladirUp = true →
    (advanceToTime ((trigOf s n).time - 2000000000) s).clk.full ≤ (trigOf s n).time →
    ∃ t, exec (.triggerHandover n) s = .next t ∧ (trigOf t n).handed = true ∧ (trigOf t n).late = false ∧ (trigOf t n).time = (trigOf s n).time) ∧
  (∀ (n : Nat) (s : State) c, (trigOf s n).cfg = some c → (trigOf s n).handed = true →
    ∃ t, exec (.triggerFire n) s = .next t ∧ Fx.bit t.time.fired n = true ∧ (c.period = 0 → (trigOf t n).cfg = none ∧ (trigOf t n).handed = false) ∧
      (c.action = 0 → (s.sys.pairEn = false ∨ s.pair.activeOut = true) → Output.pulse c.pin (if c.low then 1 else 0) c.width ∈ t.out)) ∧
  (∀ (n : Nat) (s : State) e c, (trigOf s n).pulseEnd = some e → (trigOf s n).waiting = some c →
    ∃ t, exec (.triggerPulseEnd n) s = .next t ∧ trigOf t n = { cfg := some c, time := c.time }) ∧
  (∀ (n : Nat) (s : State) e c, (trigOf s n).pulseEnd = some e → (trigOf s n).waiting = none → (trigOf s n).cfg = some c →
    ∃ t, exec (.triggerPulseEnd n) s = .next t ∧ trigOf t n = { trigOf s n with pulseEnd := none })

/-! ### The pair and the twin link -/

/-- The PAIR commands: CONFIG and LINK take their clamped values; STATUS begins with state, role, reason and lane sets; SWITCH
names its frame; RETRY starts the handshake after a refusal; RESYNC starts the state copy; SIGNATURES reports its records.

exec answers a next state, on conditions of the state and the operands alone, with the effect given here, for: pairConfig,
pairStatus, pairSwitch, pairRetry, pairLink, pairResync, pairSignatures. -/
def Obligations.PairCommands : Prop :=
  ∀ (r : Req) (s : State),
    (∀ enable mode adopting restore : Nat, runs { code := 0x0901 } r s = true → isStandby s = false → forwards s = false →
      enable ≤ 1 → mode ≤ 1 → adopting ≤ 1 →
      ∃ t d cl, Answers (.pairConfig r 1 enable mode adopting restore) { code := 0x0901 } r s (done cl d) t ∧
        t.pair.enable = decide (enable = 1) ∧ t.pair.autoReturn = decide (mode = 0) ∧ t.pair.adopt = decide (adopting = 1) ∧
        t.pair.restoreS = max 10 (min 1800 restore)) ∧
    (runs { code := 0x0902 } r s = true →
      ∃ d, Answers (.pairStatus r 0) { code := 0x0902 } r s (done [] d) (entered { code := 0x0902 } r s) ∧
        d.take 5 = u8 s.pair.state ++ u8 (Fx.b2n s.pair.activeOut + 2 * Fx.b2n s.sys.pairPref) ++ u8 s.pair.reason ++
          u8 s.pair.link.txSet ++ u8 s.pair.link.rxSet) ∧
    (runs { code := 0x0903 } r s = true → s.sys.pairEn = true → s.pair.activeOut = true → s.pair.state = 4 →
      ∃ t, Answers (.pairSwitch r 0) { code := 0x0903 } r s (done [] (fnB (applyFrame s))) t ∧
        t.pair.switchAt = some (applyFrame s) ∧ t.pair.forced = false ∧ t.pair.activeOut = true) ∧
    (runs { code := 0x0904, reach := .here } r s = true → s.pair.state = 2 → s.pair.link.up = true → s.pair.enable = true →
      ∃ t, Answers (.pairRetry r) { code := 0x0904, reach := .here } r s (done [] []) t ∧ t.pair.state = 1 ∧ t.pair.step = 1) ∧
    (∀ (timeout interval retx : Nat) (asym : Int), runs { code := 0x0905, expert := true } r s = true → isStandby s = false →
      forwards s = false →
      ∃ t d cl, Answers (.pairLink r 1 timeout interval retx asym) { code := 0x0905, expert := true } r s (done cl d) t ∧
        t.pair.link.timeoutUs = max (heartbeatFloor s) (min 100000 timeout) ∧
        t.pair.link.intervalUs = max 10 (min (t.pair.link.timeoutUs / 4) interval) ∧ t.pair.link.retxUs = max 4 (min 9 retx) ∧
        t.pair.link.asym = max (-5000) (min 5000 asym)) ∧
    (runs { code := 0x0906, reach := .here, expert := true } r s = true → s.pair.state = 5 →
      ∃ t, Answers (.pairResync r) { code := 0x0906, reach := .here, expert := true } r s (done [] []) t ∧ t.pair.state = 3 ∧
        t.pair.copying = true) ∧
    (runs { code := 0x0907, expert := true } r s = true →
      ∃ d x, Answers (.pairSignatures r) { code := 0x0907, expert := true } r s (done [] d x)
          (entered { code := 0x0907, expert := true } r s) ∧ d = u8 s.pair.sigs.length ∧ x.length = 57 * s.pair.sigs.length)

/-- The link itself: training, lanes that leave and rejoin, alignment, delivery and its failure, acknowledgements, the
heartbeat and its timeout.

exec answers a next state, on conditions of the state and the operands alone, with the effect given here, for: linkTrained,
laneLockLost, laneRejoin, retransmissionTimer, deliveryFailure, ackInterval, heartbeatInterval, heartbeatTimeout, timeInterval,
linkAck, linkNak, lanes, twlBadMessage, alignmentBlock. -/
def Obligations.LinkEvents : Prop :=
  (∀ (rx tx : Nat) (s : State), s.sys.pairEn = true → s.pair.link.up = false → 3 ≤ laneCount rx → 3 ≤ laneCount tx →
    ∃ t, exec (.linkTrained rx tx) s = .next t ∧ t.pair.link.up = true ∧ t.pair.link.rxSet = rx ∧ t.pair.link.txSet = tx ∧
      Output.link 0 0 (s.sys.frameNo % 2 ^ 32) false (.lanes tx 0) ∈ t.out ∧ (s.pair.enable = true → t.pair.state = 1 ∧ t.pair.step = 1)) ∧
  (∀ (lane : Nat) (s : State), s.pair.link.up = true → Fx.bit s.pair.link.txSet lane = true →
    3 ≤ laneCount (s.pair.link.txSet - 2 ^ lane) →
    ∃ t, exec (.laneLockLost lane true) s = .next t ∧ t.pair.link.up = true ∧ t.pair.link.txSet = s.pair.link.txSet - 2 ^ lane ∧
      t.pair.link.laneDrops = (s.pair.link.laneDrops + 1) % 2 ^ 32) ∧
  (∀ (lane : Nat) (s : State), s.pair.link.up = true → Fx.bit s.pair.link.rxSet lane = true →
    laneCount (s.pair.link.rxSet - 2 ^ lane) < 3 →
    ∃ t, exec (.laneLockLost lane false) s = .next t ∧ t.pair.link.up = false ∧ t.pair.state = 0) ∧
  (∀ (lane : Nat) (s : State), s.pair.link.up = true → Fx.bit s.pair.link.txSet lane = false →
    ∃ t, exec (.laneRejoin lane true) s = .next t ∧ t.pair.link.txSet = s.pair.link.txSet + 2 ^ lane) ∧
  (∀ s : State, s.pair.link.up = true → Fx.bit s.pair.link.rxSet ((bitsOf 4 s.pair.link.rxSet).headD 0) = true → s.pair.link.nextSet = none →
    exec (.alignmentBlock ((bitsOf 4 s.pair.link.rxSet).headD 0) false) s =
      .next (setLink (fun k => { k with align := (k.align + 1) % 2 ^ 32 }) s)) ∧
  (∀ (s : State) m ms, s.pair.link.up = true → s.pair.link.unacked = m :: ms → m.2.2.2 = false →
    ∃ t, exec .retransmissionTimer s = .next t ∧ Output.link m.1 s.pair.link.rxSeq (s.sys.frameNo % 2 ^ 32) true m.2.1 ∈ t.out ∧
      t.clk.raw = (advanceTo (m.2.2.1 + usTicks s.pair.link.retxUs) s).clk.raw) ∧
  (∀ (s : State) m ms, s.pair.link.up = true → s.pair.link.unacked = m :: ms →
    ∃ t, exec .deliveryFailure s = .next t ∧ t.pair.link.up = false ∧ t.pair.state = 0) ∧
  (∀ s : State, s.pair.link.up = true → s.pair.link.ackDue = true →
    ∃ t, exec .ackInterval s = .next t ∧ t.out = s.out ++ [linkOut s.pair.link.txSeq false .ack s] ∧ t.pair.link.ackDue = false) ∧
  (∀ s : State, LinkFree s →
    ∃ t, exec .heartbeatInterval s = .next t ∧ t.pair.link.txSeq = (s.pair.link.txSeq + 1) % 65536 ∧
      t.out = s.out ++ [linkOut s.pair.link.txSeq false (.heartbeat s.pair.state s.pair.activeOut s.pair.activeOut s.pair.partnerIn (topSeverity s)) s]) ∧
  (∀ s : State, LinkFree s →
    ∃ t number boundary, exec .timeInterval s = .next t ∧
      t.out = s.out ++ [linkOut s.pair.link.txSeq false (.time s.clk.full16 s.pair.link.latest number boundary) s]) ∧
  (∀ s : State, s.pair.link.up = true →
    ∃ t, exec (.heartbeatTimeout false) s = .next t ∧ t.pair.link.up = false ∧ t.pair.state = 0) ∧
  (∀ s : State, s.sys.pairEn = true → s.pair.link.up = true →
    ∃ t, exec (.twlBadMessage true) s = .next t ∧ t.pair.link.crcFail = (s.pair.link.crcFail + 1) % 2 ^ 32 ∧ t.pair.link.nakked = true ∧
      t.pair.link.rxSeq = s.pair.link.rxSeq) ∧
  (∀ (h : LinkHdr) (s : State), s.sys.pairEn = true → s.pair.link.up = true → s.pair.link.queue = [] →
    ∃ t, exec (.linkAck h) s = .next t ∧
      t.pair.link.unacked = s.pair.link.unacked.filter (fun m => decide (32768 ≤ (h.ack + 65535 - m.1) % 65536))) ∧
  (∀ (h : LinkHdr) (expected : Nat) (s : State), s.sys.pairEn = true → s.pair.link.up = true → s.pair.link.queue = [] →
    ∃ t, exec (.linkNak h expected) s = .next t ∧ ∀ m ∈ s.pair.link.unacked, 32768 ≤ (h.ack + 65535 - m.1) % 65536 →
      (m.1 + 65536 - expected) % 65536 < 32768 → m.2.2.2 = false → Output.link m.1 s.pair.link.rxSeq (s.sys.frameNo % 2 ^ 32) true m.2.1 ∈ t.out) ∧
  (∀ (h : LinkHdr) (active fromCount : Nat) (s : State), Arrives h s → 3 ≤ laneCount active →
    ∃ t, exec (.lanes h active fromCount) s = .next t ∧
      (fromCount ≤ s.pair.link.align → t.pair.link.rxSet = active ∧ t.pair.link.nextSet = none) ∧
      (s.pair.link.align < fromCount → t.pair.link.rxSet = s.pair.link.rxSet ∧ t.pair.link.nextSet = some (active, fromCount)))

/-- The messages of the link: those of the handshake, of time and of control, what each one that arrives in order leaves
behind; and those of a pair whose inputs are reconciled and whose commands are forwarded.

exec answers a next state, on conditions of the state and the operands alone, with the effect given here, for: hello, verdict,
config, configHash, time, heartbeat, recon, pktRecon, fetch, data, command, commit, commandAck, signature, switch, identity,
state, stateCtrl. -/
def Obligations.LinkMessages : Prop :=
  (∀ (h : LinkHdr) (s : State), Arrives h s →
    (∀ told : Hello, s.pair.enable = true →
      ∃ t, exec (.hello h told) s = .next t ∧ t.pair.partner = some told ∧ t.pair.hello = some told ∧ t.pair.state = 1 ∧ t.pair.step = 1) ∧
    (∀ reached why : Nat, s.pair.state = 1 → ∃ t, exec (.verdict h reached false why) s = .next t ∧ t.pair.state = 2 ∧ t.pair.reason = why) ∧
    (∀ reached why : Nat, s.pair.state = 1 →
      ∃ t, exec (.verdict h reached true why) s = .next t ∧ t.pair.partnerPassed = max s.pair.partnerPassed reached) ∧
    (∀ (part : Nat) edits changes, s.pair.state = 1 → s.pair.step = 5 → s.pair.source = false →
      ∃ t, exec (.config h part edits changes) s = .next t ∧ t.pair.config = Tbl.put s.pair.config part (edits, changes) ∧
        (s.pair.adopt = true → t.pair.config.length = 5 → t.pair.adoptAt = some (applyFrame s))) ∧
    (∀ hash, s.pair.state = 1 → s.pair.step = 5 → s.pair.source = false → s.pair.adopt = true →
      ∃ t, exec (.configHash h hash) s = .next t ∧ t.pair.partnerHash = hash) ∧
    (∀ hash, s.pair.state = 1 → s.pair.step = 5 → s.pair.source = true → s.pair.passed < 5 → hash ≠ [] → hash ≠ configHash s →
      ∃ t, exec (.configHash h hash) s = .next t ∧ t.pair.state = 2 ∧ t.pair.reason = 5) ∧
    (∀ (sent : Int) (number : Nat) (boundary : Int),
      ∃ t, exec (.time h sent none number boundary) s = .next t ∧ t.pair.link.latest = some (sent, s.clk.full16) ∧ t.clk = s.clk) ∧
    (∀ (sent : Int) (x : Stamps) (number : Nat) (boundary : Int), ¬ (s.pair.state = 1 ∧ s.pair.step = 6) → followsPartner s = true →
      let e := ((s.clk.full16 - sent) - (x.got - x.sent)) / 2 - s.pair.link.asym * 65536 / 2000
      exec (.time h sent (some x) number boundary) s =
        .next (servoMeasure 3 e (setLink (fun k => { k with latest := some (sent, s.clk.full16) }) (arrived h s)))) ∧
    (∀ (st : Nat) (active drives reads : Bool) (severity : Nat),
      ∃ t, exec (.heartbeat h st active drives reads severity) s = .next t ∧ t.pair.peer = some (st, drives, reads, severity)) ∧
    (∀ number : Nat, s.pair.activeOut = false →
      ∃ t, exec (.switch h false number) s = .next t ∧ t.pair.switchAt = some (ownFrame s number) ∧
        t.pair.forced = decide (s.pair.state ≠ 4)) ∧
    (∃ t, exec (.identity h true (ownBlue s)) s = .next t ∧ t.pair.ownId = false) ∧
    (∃ t, exec (.identity h false (ownBlue s)) s = .next t ∧ t.pair.ownId = true) ∧
    (∀ item u, s.pair.state = 3 → s.pair.activeOut = false → takeItem item (arrived h s) = some u →
      exec (.state h item) s = .next u) ∧
    (s.pair.activeOut = false → 3 ≤ s.pair.state → ∀ value : Nat,
      (∃ t, exec (.stateCtrl h 1 value) s = .next t ∧ t.pair.round = s.pair.round + 1 ∧ t.pair.progress = 1000) ∧
      (∃ t, exec (.stateCtrl h 2 value) s = .next t ∧ t.pair.finalFrame = some (ownFrame s value)))) ∧
  (∀ (h : LinkHdr) (s : State), Arrives h s → s.pair.state = 4 →
    (∀ (number : Nat) crcs (emerg : Nat) figures, s.pair.activeOut = false → frameExpected s (ownFrame s number) 4 = true →
      Tbl.find s.pair.ownRecon (ownFrame s number) = none →
      ∃ t, exec (.recon h number crcs emerg figures) s = .next t ∧ t.pair.partnerEmerg = emerg ∧
        t.pair.peerRecon = Tbl.put s.pair.peerRecon (ownFrame s number) (crcs.map fun e => (e.port, e.crc))) ∧
    (∀ items, exec (.pktRecon h items) s = .next (items.foldl (fun s a => peerArrival a s) (arrived h s))) ∧
    (∀ item ws, itemWords s item = some ws → LinkFree (arrived h s) →
      ∃ t, exec (.fetch h item) s = .next t ∧ linkOut (arrived h s).pair.link.txSeq false (.data item ws) (arrived h s) ∈ t.out) ∧
    (∀ (p f : Nat) words, s.pair.activeOut = false → ownFrame s f ≤ s.sys.frameNo → s.sys.frameNo ≤ ownFrame s f + 2 →
      ∃ t x, exec (.data h (.portSection p f) words) s = .next t ∧ Tbl.find (portOf t p).inRing (ownFrame s f % 4) = some x ∧
        x.frame = ownFrame s f) ∧
    (∀ (txn slot seq : Nat) edits, s.pair.activeOut = false →
      ∃ t, exec (.command h txn slot seq edits []) s = .next t ∧
        ((∀ p ∈ pagesOf edits, isReseeding s p = false) → ({ pages := pagesOf edits, txn := some txn } : CommitSet) ∈ t.commit.sets ∧
          (∀ p ∈ pagesOf edits, Tbl.find t.page.status p = some .pending)) ∧
        ((∃ p ∈ pagesOf edits, isReseeding s p = true) → t.page = s.page ∧
          ∃ w, t.commit.waits = s.commit.waits ++ [w] ∧ w.txn = some txn ∧ w.edits = edits)) ∧
    (∀ (txn number : Nat) x, s.pair.activeOut = false → (s.pair.txns.find? fun t => decide (t.id = txn)) = some x → x.action = none →
      s.sys.frameNo < ownFrame s number →
      ∃ t, exec (.commit h txn number) s = .next t ∧ t.commit.sets = s.commit.sets.map (fun (c : CommitSet) =>
        if c.txn = some txn then { c with due := some (ownFrame s number), txn := none } else c)) ∧
    (∀ (txn : Nat) x, s.pair.activeOut = true → (s.pair.txns.find? fun t => decide (t.id = txn)) = some x → x.action = none →
      x.acked = false →
      ∃ t, exec (.commandAck h txn true false) s = .next t ∧ t.commit.sets = s.commit.sets.map (fun (c : CommitSet) =>
        if c.txn = some txn then { c with due := some (applyFrame s) } else c)) ∧
    (∀ (txn : Nat) x, s.pair.activeOut = true → (s.pair.txns.find? fun t => decide (t.id = txn)) = some x →
      ∃ t, exec (.commandAck h txn true true) s = .next t ∧ ∀ y ∈ t.pair.txns, y.id ≠ txn) ∧
    (∀ (number sap net record detection : Nat) (invalid : Bool), frameExpected s (ownFrame s number) 64 = true →
      (s.pair.sigs.find? fun x => x.frame = ownFrame s number) = none →
      ∃ t, exec (.signature h number sap net record invalid detection) s = .next t ∧
        t.pair.sigs.head? = some { frame := ownFrame s number, partner := some (sap, net, record), partnerDet := detection, invalid := invalid }))

/-- The timers of pairing: refusal after 10 s of step 6, its retry, the copy's retry, the return of control and the
takeovers.

exec answers a next state, on conditions of the state and the operands alone, with the effect given here, for:
handshakeTimeTimeout, refusedRetry, syncRetry, waitToRestoreExpiry, alternateStart, unsteppedTakeover. -/
def Obligations.PairTimers : Prop :=
  ∀ s : State,
    (s.pair.state = 1 → s.pair.step = 6 → ∃ t, exec .handshakeTimeTimeout s = .next t ∧ t.pair.state = 2 ∧ t.pair.reason = 6) ∧
    (s.pair.state = 2 → s.pair.reason = 6 → s.pair.link.up = true → s.pair.enable = true →
      ∃ t, exec .refusedRetry s = .next t ∧ t.pair.state = 1 ∧ t.pair.step = 1 ∧ t.pair.reason = 0) ∧
    (s.pair.state = 5 → s.pair.link.up = true → ∃ t, exec .syncRetry s = .next t ∧ t.pair.state = 3 ∧ t.pair.copying = true) ∧
    (∀ at_, s.pair.restoreAt = some at_ → s.pair.state = 4 → s.pair.activeOut = true → s.sys.pairPref = false → s.pair.autoReturn = true →
      ∃ t, exec .waitToRestoreExpiry s = .next t ∧ t.pair.restoreAt = none ∧ t.pair.switchAt.isSome = true ∧ t.pair.forced = false) ∧
    (s.sys.pairEn = true → s.sys.pairPref = false → s.pair.placed = false → s.pair.activeOut = false → s.pair.partnerIn = false →
      s.pair.state ≠ 2 → isReady s Fn.ports = true → isReady s Fn.router = true → 1 ≤ s.pair.lowTicks →
      ∃ t, exec .alternateStart s = .next t ∧ t.pair.activeOut = true ∧ t.pair.placed = true) ∧
    (s.sys.pairEn = true → s.pair.placed = true → s.pair.activeOut = false → s.pair.partnerIn = false → s.pair.state ≠ 2 →
      s.pair.state ≠ 4 → s.pair.stepAt = none → 1 ≤ s.pair.lowTicks →
      ∃ t, exec .unsteppedTakeover s = .next t ∧ t.pair.activeOut = true ∧
        ∀ e ∈ t.port.port, e.2.outHold = silentStage)

/-! ### Faults, self-test and supervision -/

/-- Records and resets: a record of severity 2 to 4 enters the table, an END takes its entry out; the delayed safe state, the
end of a function reset, Mladir's watch and the watchdogs.

exec answers a next state, on conditions of the state and the operands alone, with the effect given here, for: faultRecord,
safeStateDelay, resetFunctionDone, mladirStall, watchdog, mladirHeartbeat, mladirLockstep. -/
def Obligations.FaultRecordsAndResets : Prop :=
  (∀ (source kind sev count index detail : Nat) (s : State), 2 ≤ sev → sev ≤ 4 → K.all.contains kind = true →
    Tbl.find s.flt.table (faultKey (source % 4096) kind) = none → s.flt.table.length < 256 →
    ∃ t e, exec (.faultRecord source kind sev count index false detail) s = .next t ∧
      Tbl.find t.flt.table (faultKey (source % 4096) kind) = some e ∧ e.sev = sev ∧ e.total = max 1 count ∧
      e.first = e.latest ∧ t.flt.latest = e.first ∧ e.first.detail = detail % 32768) ∧
  (∀ (source kind sev count index detail : Nat) (s : State), sev ≤ 4 → K.all.contains kind = true → isCondition kind = true →
    ∃ t, exec (.faultRecord source kind sev count index true detail) s = .next t ∧
      Tbl.find t.flt.table (faultKey (source % 4096) kind) = none) ∧
  (∀ (s : State) at_, s.pair.requestAt = some at_ →
    ∃ t, exec .safeStateDelay s = .next t ∧ t.pair.requestAt = none ∧ ∀ k e, Tbl.find s.flt.table k = some e →
      Tbl.find t.flt.table k = some { e with safe := e.safe || (e.safeWait && !s.pair.partnerIn), safeWait := false }) ∧
  (∀ (source : Nat) (s : State), s.flt.resets.contains source = true → s.flt.resetsDue.contains source = false → source ≠ Src.mladir →
    ∃ t, exec (.resetFunctionDone source [] []) s = .next t ∧ t.flt.resets.contains source = false ∧
      ∀ kind e, kind < 256 → Tbl.find s.flt.table (faultKey source kind) = some e → e.resetting = true →
        Tbl.find t.flt.table (faultKey source kind) = some { e with resetting := false, safe := false, safeWait := false }) ∧
  (∀ s : State, s.sys.mladirUp = true → ∃ t, exec .mladirStall s = .next t ∧ t.sys.mladirUp = false ∧ t.flt.latest.kind = K.mladirStall) ∧
  (∀ s : State, s.sys.inReset = false → s.sys.mladirRestarting = false →
    exec .mladirHeartbeat s = .next { s with sys := { s.sys with
      mladirUp := true, mladirBeat := s.clk.raw, heartbeat := (s.sys.heartbeat + 1) % 2 ^ 32 } }) ∧
  (∀ s : State, ∃ t, exec .mladirLockstep s = .next t ∧ t.flt.latest.kind = K.mladirLockstep ∧ t.flt.latest.sev = 3) ∧
  (∀ (source : Nat) (s : State), ∃ t, exec (.watchdog source) s = .next t ∧ t.flt.latest.kind = K.watchdog ∧
    t.flt.latest.source = source % 4096 ∧ t.flt.latest.sev = 3)

/-- Memories and the window: scrubbing, marches, migration, the frond's test, the nightly window's start and end, a detector's
block and the ageing record.

exec answers a next state, on conditions of the state and the operands alone, with the effect given here, for: scrubWord,
nightlyWindowStart, nightlyWindowEnd, bankMigrationDone, frondTestDone, detectorBlock, ageingHour, ageingDay, marchDone. -/
def Obligations.SelfTestEvents : Prop :=
  (∀ (offset page : Nat) (s : State), s.supv.injected = [] → ∃ t, exec (.scrubWord 576 offset false 0 page) s = .next t ∧ (0, offset / 4) ∈ t.mem.poison ∧
    576 ∈ t.flt.repairs ∧ t.flt.latest.kind = K.scrubUe) ∧
  (∀ (s : State) m c q, s.supv.march = some (m, c, q) →
    exec (.marchDone [] false 0) s = .next (answer c q 0x0A0C 0 (done [] (u16 0 ++ u16 0)) { s with
      supv := { s.supv with march := none }
      flt := { s.flt with marchHold := false, repairs := s.flt.repairs.filter (· != m) } })) ∧
  (∀ (s : State) b sp l, s.supv.migrating = some b → s.sys.spareBank = some sp → logicalOf s b = some l → s.supv.step = none →
    ∃ t, exec (.bankMigrationDone [] false 0) s = .next t ∧ t.sys.bankMap = Tbl.put s.sys.bankMap l sp ∧
      t.sys.spareBank = some b ∧ t.supv.migrating = none) ∧
  (∀ (s : State) f, s.supv.testing = some f → s.sys.spareFrond = some f → s.supv.step = some 3 → s.supv.todo = [] →
    ∃ t, exec (.frondTestDone true [] 0) s = .next t ∧ t.supv.testing = none ∧ t.supv.lastFrond = some f ∧
      t.supv.results = s.supv.results.set 2 0) ∧
  (∀ (s : State) sp b, s.supv.enable = true → s.supv.step = none → followsPartner s = false → forwards s = false →
    s.clk.unset = false → inMaint s = false → safeInForce s = false → s.supv.left = [] → s.sys.spareBank = some sp →
    s.supv.migrating = none → nextOf 25 (fun b => (logicalOf s b).isSome) s.supv.lastBank = some b →
    ∃ t, exec (.nightlyWindowStart [] false) s = .next t ∧ t.supv.step = some 2 ∧ t.supv.todo = [3, 4, 5, 6] ∧
      t.supv.results = [0, 2, 2, 2, 2, 2] ∧ t.supv.migrating = some b) ∧
  (∀ s : State, s.supv.enable = true → s.supv.step = none → followsPartner s = false → forwards s = false →
    s.clk.unset = true → s.supv.left = [] →
    ∃ t, exec (.nightlyWindowStart [] false) s = .next t ∧ t.supv.step = none ∧ t.supv.last = [1, 1, 1, 1, 1, 0]) ∧
  (∀ (s : State) i, s.supv.step = some i →
    ∃ t, exec .nightlyWindowEnd s = .next t ∧ t.supv.step = none ∧ t.supv.left = i :: s.supv.todo ∧ t.supv.todo = [] ∧ t.supv.asked = none) ∧
  (∀ (n : Nat) (s : State) d, Tbl.find s.blk.pilot n = some d → d.fresh = true → (zoneOf s n).calOn = true → (zoneOf s n).calN < 15 →
    ∃ t, exec (.detectorBlock n) s = .next t ∧ Tbl.find t.blk.pilot n = some { d with fresh := false } ∧
      (zoneOf t n).calN = (zoneOf s n).calN + 1) ∧
  (∀ s : State, let g := s.pwr.ageing
    g.hour ≠ [] → (∀ v ∈ g.hour, v ≠ 680000 ∧ v ≠ 860000) → g.direct = false → g.tjN ≠ 0 →
    ∃ t, exec .ageingHour s = .next t ∧ t.pwr.ageing.hour = [] ∧ t.pwr.ageing.day = g.day ++
      [(v90 (medianVcore g.hour) (Fx.roundAway g.tjSum g.tjN) s.pwr.target).toNat]) ∧
  (∀ s : State, let g := s.pwr.ageing
    g.day ≠ [] →
    ∃ t, exec .ageingDay s = .next t ∧ t.pwr.ageing.day = [] ∧ t.pwr.ageing.days = g.days ++ [g.day.foldl (· + ·) 0 / g.day.length] ∧
      (g.v90ref = none → g.days.length = 29 → t.pwr.ageing.v90ref = some (t.pwr.ageing.days.foldl (· + ·) 0 / 30)))

/-- The FAULT commands: the log's entries, the uncleared entries, their clearing, and the settings of reactions, pin and
limit.

exec answers a next state, on conditions of the state and the operands alone, with the effect given here, for: faultLogRead,
faultActive, faultClear, faultReaction, faultPinLevel, faultRetryLimit. -/
def Obligations.FaultCommands : Prop :=
  ∀ (r : Req) (s : State),
    (∀ start limit : Nat, runs { code := 0x0A01 } r s = true →
      let es := (s.flt.persist.reverse.filter fun e => decide (start ≤ e.seq)).take limit
      ∃ next, Answers (.faultLogRead r 1 start limit) { code := 0x0A01 } r s
        (done [] (u32 next ++ u32 s.flt.persistLost ++ u16 es.length) (es.flatMap LogEntry.bytes)) (entered { code := 0x0A01 } r s)) ∧
    (∀ start limit : Nat, runs { code := 0x0A01 } r s = true →
      let es := (s.flt.log.reverse.filter fun e => decide (start ≤ e.seq)).take limit
      ∃ t next, Answers (.faultLogRead r 0 start limit) { code := 0x0A01 } r s
          (done [] (u32 next ++ u32 s.flt.lost ++ u16 es.length) (es.flatMap LogEntry.bytes)) t ∧
        (∀ e, es.getLast? = some e → next = e.seq + 1 ∧ t.flt.readSeq = max s.flt.readSeq next)) ∧
    (runs { code := 0x0A02 } r s = true →
      ∃ d x, Answers (.faultActive r) { code := 0x0A02 } r s (done [] d x) (entered { code := 0x0A02 } r s) ∧
        d.take 2 = u16 (s.flt.table.length + Fx.b2n s.flt.full.isSome) ∧ (d.drop 2).take 1 = u8 (Fx.b2n (faultNLow s)) ∧
        (d.drop 3).take 1 = u8 (Fx.b2n (safeInForce s)) ∧ x.length = 40 * (s.flt.table.length + Fx.b2n s.flt.full.isSome)) ∧
    (runs { code := 0x0A03, reach := .here } r s = true → s.flt.full = none →
      ∃ t, Answers (.faultClear r []) { code := 0x0A03, reach := .here } r s (done [] (u16 0)) t ∧ ∀ k,
        (isCondition (k % 256) = false → Tbl.find t.flt.table k = none) ∧
        (isCondition (k % 256) = true → Tbl.find t.flt.table k = Tbl.find s.flt.table k)) ∧
    (∀ kind value : Nat, runs { code := 0x0A04, reach := .shared } r s = true → forwards s = false → value < 2 ^ 30 →
      ∃ t d cl, Answers (.faultReaction r 1 [{ kind := kind, value := value }]) { code := 0x0A04, reach := .shared } r s (done cl d) t ∧
        reactionOf t kind = value ||| 0x01041000 ∧ ∀ k, k ≠ kind → reactionOf t k = reactionOf s k) ∧
    (∀ level : Nat, runs { code := 0x0A05, reach := .here } r s = true →
      ∃ t cl, Answers (.faultPinLevel r 1 level) { code := 0x0A05, reach := .here } r s (done cl (u8 (max 1 (min 4 level)))) t ∧
        t.flt.pinLevel = max 1 (min 4 level)) ∧
    (∀ limit : Nat, runs { code := 0x0A06, reach := .shared } r s = true → forwards s = false →
      ∃ t cl, Answers (.faultRetryLimit r 1 limit) { code := 0x0A06, reach := .shared } r s (done cl (u8 (max 1 (min 64 limit)))) t ∧
        t.flt.retryLimit = max 1 (min 64 limit))

/-- The SUPV and TEST commands: a zone's clamped limits, calibration, status, the window's settings, the window at once, a
march, the repairs and injected faults.

exec answers a next state, on conditions of the state and the operands alone, with the effect given here, for: supvZone,
supvCalibrate, supvStatus, supvNightly, testNightlyNow, testMarch, testRepairs, testInject. -/
def Obligations.SupervisionCommands : Prop :=
  ∀ (r : Req) (s : State),
    (∀ n high low hyst declared : Nat, runs { code := 0x0A07, reach := .shared, needs := some Fn.supervision } r s = true →
      forwards s = false → isDetector s n = true →
      ∃ t cl, Answers (.supvZone r n high low hyst declared) { code := 0x0A07, reach := .shared, needs := some Fn.supervision } r s
          (done cl []) t ∧
        zoneOf t n = { zoneOf s n with hi := max 105 (min 400 high), lo := max 25 (min 95 low), hyst := max 1 (min 20 hyst)
                                       declare_ := max 1 (min 100 declared) }) ∧
    (∀ (n : Nat) d, runs { code := 0x0A08, reach := .shared, needs := some Fn.supervision } r s = true → forwards s = false →
      isDetector s n = true → (zoneOf s n).state ≠ 0 → Tbl.find s.blk.pilot n = some d → d.present = true →
      ∃ t, exec (.supvCalibrate r n) s = .next t ∧ (zoneOf t n).calOn = true ∧ (zoneOf t n).calN = 0 ∧
        (r.slot, r.seq) ∈ (zoneOf t n).calFor) ∧
    (∀ first count : Nat, runs { code := 0x0A09 } r s = true → first + count ≤ 256 →
      ∃ d, Answers (.supvStatus r first count) { code := 0x0A09 } r s (done [] d) (entered { code := 0x0A09 } r s) ∧ d.length = 6 * count) ∧
    (∀ (enable : Nat) (start : NetTime) (period length segments : Nat),
      runs { code := 0x0A0A, reach := .shared, needs := some Fn.supervision } r s = true → forwards s = false → enable ≤ 1 →
      isNextFrame start = false → malformedTime start = false → s.clk.unset = false →
      ∃ t d cl, Answers (.supvNightly r 1 enable start period length segments)
          { code := 0x0A0A, reach := .shared, needs := some Fn.supervision } r s (done cl d) t ∧
        t.supv.enable = decide (enable = 1) ∧ t.supv.start = start.sec * 1000000000 + start.ns ∧
        t.supv.periodS = max 3600 (min 604800 period) ∧ t.supv.lengthS = max 600 (min 14400 length) ∧ t.supv.segments = min 4096 segments) ∧
    (∀ sp b, runs { code := 0x0A0B, reach := .shared, expert := true, maint := true, needs := some Fn.supervision } r s = true →
      forwards s = false → s.supv.step = none → s.supv.asked = none → s.clk.unset = false → safeInForce s = false →
      s.supv.left = [] → s.sys.spareBank = some sp → s.supv.migrating = none →
      nextOf 25 (fun b => (logicalOf s b).isSome) s.supv.lastBank = some b →
      ∃ t, exec (.testNightlyNow r) s = .next t ∧ t.supv.asked = some (r.slot, r.seq) ∧ t.supv.step = some 2 ∧
        t.supv.migrating = some b) ∧
    (∀ m : Nat, runs { code := 0x0A0C, reach := .here, expert := true, maint := !isSpareMemory s m } r s = true → isMemory m = true →
      s.supv.march = none → s.supv.migrating = none → s.supv.testing = none →
      ∃ t, exec (.testMarch r m) s = .next t ∧ t.supv.march = some (m, r.slot, r.seq) ∧ (isSpareMemory s m = false → safeInForce t = true)) ∧
    (runs { code := 0x0A0D, expert := true } r s = true →
      ∃ x, Answers (.testRepairs r) { code := 0x0A0D, expert := true } r s
          (done [] (u16 s.supv.otp.length ++ u16 (1024 - s.supv.otp.length)) x) (entered { code := 0x0A0D, expert := true } r s)) ∧
    (∀ fault element place : Nat, runs { code := 0x0A0E, reach := .here, expert := true, maint := true } r s = true →
      injectable fault element place = true →
      ∃ t, Answers (.testInject r fault element place) { code := 0x0A0E, reach := .here, expert := true, maint := true } r s
          (done [] (u32 (report Src.collector K.injected 0 0 0
            (entered { code := 0x0A0E, reach := .here, expert := true, maint := true } r s)).flt.seq)) t ∧
        (fault ≠ 5 → (fault, element, place) ∈ t.supv.injected) ∧ (fault = 1 → element = 576 → (0, 4 * place / 4) ∈ t.mem.poison))

/-! ### The Peat store -/

/-- The root port's events: completions free their tags, the last read-back of a stored clip puts it in force and frees the
versions before, what does not complete is aborted and its controller reset, links and
namespaces are lost and found, an idle cursor expires.

exec answers a next state, on conditions of the state and the operands alone, with the effect given here, for: nvmeCompletion,
commandTimeout, abortExpiry, controllerResetDone, completionPoll, smartPoll, peatLink, namespaceLost, namespaceIdentified,
cursorIdleExpiry, rootPortLinkUp, rootPortInboundRequest. -/
def Obligations.PeatEvents : Prop :=
  (∀ (e : Completion) (s : State) c clip block copy, e.badPhase = false → e.status = 0 →
    Tbl.find s.peat.cmds (e.cid % 4096) = some c → c.ctrl = e.ctrl → c.gen = e.cid / 4096 → c.for_ = .fetch clip block copy →
    Tbl.has s.peat.clip clip = true → s.peat.waiting = [] → s.peat.waits = [] → s.peat.storing = [] →
    ∃ t, exec (.nvmeCompletion e) s = .next t ∧ Tbl.find t.peat.cmds (e.cid % 4096) = none ∧
      (∃ b ∈ t.peat.cache, b.clip = clip ∧ b.index = block) ∧ exec (.completionPoll [e] []) s = .next t) ∧
  (∀ (e : Completion) (s : State) c clip v x, e.badPhase = false → e.status = 0 → s.peat.cmds = [(e.cid % 4096, c)] →
    c.ctrl = e.ctrl → c.gen = e.cid / 4096 → c.for_ = .object 1 clip v → c.opcode = 2 → s.peat.waiting = [] → s.peat.waits = [] →
    s.peat.storing = [x] → x.kind = 1 → x.id = clip → x.version = v → objectBytes s 1 clip v = some e.bytes →
    Tbl.find s.peat.objects c.index = some (1, clip, v) → ownsExtent s 0 0 c.index = true →
    ∃ t k, exec (.nvmeCompletion e) s = .next t ∧ t.peat.storing = [] ∧ Tbl.find t.peat.clip clip = some k ∧ k.version = v ∧
      k.body = x.body ∧ k.rate = x.tag ∧ ∀ o ∈ t.peat.objects, o.2.1 = 1 → o.2.2.1 = clip → v ≤ o.2.2.2) ∧
  (∀ (e : Completion) (s : State), e.badPhase = true → (ctrlOf s e.ctrl).resets = [] →
    ∃ t, exec (.nvmeCompletion e) s = .next t ∧ (ctrlOf t e.ctrl).resetting = true) ∧
  (∀ (tag : Nat) (s : State) c, Tbl.find s.peat.cmds tag = some c → c.aborted = none → ctrlTakes s c.ctrl = true →
    ∃ t at_, exec (.commandTimeout tag) s = .next t ∧ Tbl.find t.peat.cmds tag = some { c with aborted := some at_ } ∧
      Output.nvmeAdmin c.ctrl 8 (c.gen * 4096 + tag) ∈ t.out) ∧
  (∀ (tag : Nat) (s : State) c at_, Tbl.find s.peat.cmds tag = some c → c.aborted = some at_ →
    (ctrlOf s c.ctrl).resetting = false → (ctrlOf s c.ctrl).resets = [] →
    ∃ t, exec (.abortExpiry tag) s = .next t ∧ (ctrlOf t c.ctrl).resetting = true) ∧
  (∀ (n : Nat) (s : State), (ctrlOf s n).resetting = true →
    (∃ t, exec (.controllerResetDone n true) s = .next t ∧ (ctrlOf t n).resetting = false ∧ (ctrlOf t n).state = (ctrlOf s n).state) ∧
    ((ctrlOf s n).state = 1 → ∃ t, exec (.controllerResetDone n false) s = .next t ∧ (ctrlOf t n).state = 3)) ∧
  (∀ (n : Nat) (s : State), ctrlTakes s n = true → (ctrlOf s n).resets = [] →
    ∃ t, exec (.completionPoll [] [n]) s = .next t ∧ (ctrlOf t n).resetting = true) ∧
  (∀ (n : Nat) (s : State), (ctrlOf s n).state = 1 → Tbl.find s.flt.violations (faultKey (Src.nvme n) K.peatCmdError) = none →
    ∃ t, exec (.smartPoll n true) s = .next t ∧ t.flt.latest.kind = K.peatCmdError ∧ t.flt.latest.source = Src.nvme n) ∧
  (∀ (n : Nat) (s : State), (ctrlOf s n).linkUp = true →
    ∃ t, exec (.peatLink n) s = .next t ∧ ctrlOf t n = { ctrlOf s n with linkUp := false, downAt := s.clk.raw }) ∧
  (∀ (n : Nat) (s : State), (ctrlOf s n).state = 1 →
    (∃ t, exec (.namespaceLost n true) s = .next t ∧ (ctrlOf t n).state = 3) ∧
    ((ctrlOf s n).linkUp = false → ∃ t, exec (.namespaceLost n false) s = .next t ∧ (ctrlOf t n).state = 3)) ∧
  (∀ (n link : Nat) (s : State), n < 64 →
    ∃ t, exec (.rootPortLinkUp [{ ctrl := n, link := link }]) s = .next t ∧ ctrlOf t n = { ctrlOf s n with linkUp := true, link := link }) ∧
  (∀ (n : Nat) (s : State), (ctrlOf s n).resets = [] →
    exec (.rootPortInboundRequest n true) s = .next s ∧
    ∃ t, exec (.rootPortInboundRequest n false) s = .next t ∧ (ctrlOf t n).resetting = true) ∧
  (∀ (n : Nat) (told : Identify) (a b : List Byte) (s : State), n < 64 → (ctrlOf s n).linkUp = true → (ctrlOf s n).state ≠ 1 →
    bestLabel a b = none → (s.peat.ns.find? fun e => decide (e.2.ctrl = n)) = none →
    ∃ t, exec (.namespaceIdentified n told a b [] []) s = .next t ∧ (supported told = false → (ctrlOf t n).state = 2) ∧
      (supported told = true → (ctrlOf t n).state = 1 ∧ (ctrlOf t n).capacity = told.blocks * told.dataSize ∧
        (ctrlOf t n).depth = min s.peat.depth (told.mqes + 1))) ∧
  (∀ (n : Nat) (s : State) c, Tbl.find s.peat.cursor n = some c → c.expired = 0 →
    ∃ t, exec (.cursorIdleExpiry n) s = .next t ∧ Tbl.find t.peat.cursor n = some { c with expired := 1 })

/-- The PEAT commands of the store: status, a format that writes its label, tracks, retention, holds, chain heads, read-out,
queues and a raw command.

exec answers a next state, on conditions of the state and the operands alone, with the effect given here, for: peatStatus,
peatFormat, peatTrack, peatRetention, peatHold, peatChainHead, peatCursorOpen, peatRead, peatCursorClose, peatQueues,
peatPassthrough. -/
def Obligations.PeatStoreCommands : Prop :=
  ∀ (r : Req) (s : State),
    (runs { code := 0x0B01 } r s = true →
      ∃ d x, Answers (.peatStatus r) { code := 0x0B01 } r s (done [] d x) (entered { code := 0x0B01 } r s) ∧
        d.take 2 = u8 s.peat.ctrl.length ++ u8 s.peat.ns.length ∧ (d.drop 4).take 4 = u32 s.peat.gaps ∧ x.length = 64 * 16 + 2048 * 8) ∧
    (∀ ctrl group code base : Nat, runs { code := 0x0B02, reach := .here, needs := some Fn.peat } r s = true →
      group ≠ 0 → s.peat.ns = [] → formatRefusal ctrl group 0 code base false s = none →
      ∃ t n, exec (.peatFormat r ctrl group 0 code base 0) s = .next t ∧ t.peat.ns = [(0, n)] ∧ n.ctrl = ctrl ∧ n.group = group ∧
        n.copy = 0 ∧ n.segCode = code ∧ n.base = base ∧ n.extents = min (wholeExtents (ctrlOf s ctrl).capacity) (4194304 - base)) ∧
    (∀ first count group : Nat, runs { code := 0x0B03, reach := .here, needs := some Fn.peat } r s = true → fam s ≠ 2 → first + count ≤ 2048 →
      1 ≤ group → group ≤ 15 → (∃ e ∈ s.peat.ns, e.2.group = group) → sharesShort s (groupsAfter s first count group) = false →
      ∃ t, Answers (.peatTrack r first count group 2) { code := 0x0B03, reach := .here, needs := some Fn.peat } r s
          (done [] (fnB (commitFrame s))) t ∧
        ∀ n, first ≤ n → n < first + count → (trackOf t n).group = group) ∧
    (∀ first count group : Nat, runs { code := 0x0B03, reach := .shared, needs := some Fn.peat } r s = true → fam s ≠ 2 → first + count ≤ 2048 →
      1 ≤ group → group ≤ 15 → (∃ e ∈ s.peat.ns, e.2.group = group) → sharesShort s (groupsAfter s first count group) = false →
      forwards s = false →
      ∃ t, Answers (.peatTrack r first count group 1) { code := 0x0B03, reach := .shared, needs := some Fn.peat } r s
          (done [] (fnB (commitFrame s))) t ∧
        t.commit.sets = s.commit.sets ++ [{ due := some (commitFrame s), changes := [.tracks first count 16 1] }]) ∧
    (∀ days : Nat, runs { code := 0x0B04, reach := .here, needs := some Fn.peat } r s = true →
      ∃ t cl, Answers (.peatRetention r 1 days) { code := 0x0B04, reach := .here, needs := some Fn.peat } r s
          (done cl (u16 (min 3650 days))) t ∧ t.peat.retention = min 3650 days) ∧
    (∀ (group first last : Nat) (a b : NetTime), runs { code := 0x0B05, needs := some Fn.peat } r s = true →
      (∃ e ∈ s.peat.ns, e.2.group = group) →
      Answers (.peatHold r 0 group first last a b) { code := 0x0B05, needs := some Fn.peat } r s (holdReport (holdsOf s group))
        (entered { code := 0x0B05, needs := some Fn.peat } r s)) ∧
    (∀ (group first last : Nat) (a b : NetTime), runs { code := 0x0B05, reach := .here, needs := some Fn.peat } r s = true →
      (∃ e ∈ s.peat.ns, e.2.group = group) → Tbl.wf s.peat.ns = true → first ≤ last → last ≤ 4194303 → (holdsOf s group).length < 256 →
      ∃ t, exec (.peatHold r 1 group first last a b) s = .next t ∧
        holdsOf t group = holdsOf s group ++ [(first, last, s.clk.full / 1000000000 % 2 ^ 48)]) ∧
    (∀ group : Nat, runs { code := 0x0B06, needs := some Fn.peat } r s = true → nsOfCopy s group 0 ≠ [] →
      ∃ d, Answers (.peatChainHead r group) { code := 0x0B06, needs := some Fn.peat } r s (done [] d)
          (entered { code := 0x0B06, needs := some Fn.peat } r s) ∧
        d.take 40 = u64 (copyHead s group 0) ++ padTo 32 (writeOf s group).a.hash) ∧
    (∀ (group copy num tracks tok n : Nat) (at_ : NetTime), runs { code := 0x0B07, reach := .here, needs := some Fn.peat } r s = true →
      group ≠ 0 → nsOfCopy s group copy ≠ [] → cursorStart (writeOf s group) copy 1 0 num = some tok →
      ((List.range 16).find? fun n => !cursorAlive s n) = some n →
      ∃ t, Answers (.peatCursorOpen r group copy 1 at_ num 1 tracks) { code := 0x0B07, reach := .here, needs := some Fn.peat } r s
          (done [] (u8 n ++ u64 tok)) t ∧
        Tbl.find t.peat.cursor n = some { group := group, copy := copy, tracks := none, token := tok, readAt := s.clk.raw }) ∧
    (∀ (n : Nat) c, runs { code := 0x0B08 } r s = true → Tbl.find s.peat.cursor n = some c → c.expired = 0 →
      (writeOf s c.group).a.lost = false →
      ∃ t d x next, Answers (.peatRead r n c.token []) { code := 0x0B08 } r s (done [] d x) t ∧ d.take 8 = u64 next ∧
        Tbl.find t.peat.cursor n = some { c with prev := some c.token, token := next, readAt := s.clk.raw }) ∧
    (∀ n : Nat, runs { code := 0x0B09, reach := .here, needs := some Fn.peat } r s = true →
      ∃ t, Answers (.peatCursorClose r n) { code := 0x0B09, reach := .here, needs := some Fn.peat } r s (done [] []) t ∧
        Tbl.find t.peat.cursor n = none) ∧
    (∀ queues depth timeout : Nat, runs { code := 0x0B11, expert := true, reach := .here, needs := some Fn.peat } r s = true →
      ∃ t d cl, Answers (.peatQueues r 1 queues depth timeout)
          { code := 0x0B11, expert := true, reach := .here, needs := some Fn.peat } r s (done cl d) t ∧
        t.peat.queues = max 1 (min 4 queues) ∧ t.peat.depth = max 2 (min 256 depth) ∧ t.peat.timeoutMs = max 500 (min 30000 timeout)) ∧
    (∀ (ctrl tag : Nat) b entry payload, runs { code := 0x0B12, expert := true, maint := true, reach := .here, needs := some Fn.peat } r s = true →
      ctrlTakes s ctrl = true → tagFree s 2 = true → s.peat.waiting = [] → lowestTag s = some tag →
      ∃ t, exec (.peatPassthrough r ctrl 0 (b :: entry) payload) s = .next t ∧
        t.out = s.out ++ [.nvme ctrl ((Tbl.getD s.peat.gens tag 0 + 1) % 16 * 4096 + tag) b.toNat 0 payload.length (b :: entry ++ payload)])

/-- The PEAT commands of clips and voices: STORE opens the clip's object, DELETE drops an unpinned clip that nothing plays, LIST
answers 16 bytes a clip, PIN sets or clears the pin and drops the clip's cached blocks, PLAY and STOP commit at the frame they
answer, QUEUE appends the clip with a crossfade of at most 256 samples that fits both.

exec answers a next state, on conditions of the state and the operands alone, with the effect given here, for: peatClipStore,
peatClipDelete, peatClipList, peatPin, peatPlay, peatQueue, peatStop. -/
def Obligations.ClipCommands : Prop :=
  ∀ (r : Req) (s : State),
    (∀ total clip rate : Nat, runs { code := 0x0B0A, reach := .shared, needs := some Fn.peat } r s = true → clip ≠ 0 → total ≤ 1073741760 →
      rate ≤ 5 → (s.mbx.objects.filter fun e => e.2.slot = r.slot).length < 2 → s.mbx.objects.length < 8 →
      ∃ t o, Answers (.peatClipStore r total clip rate) { code := 0x0B0A, reach := .shared, needs := some Fn.peat } r s
          (done [] (u32 s.mbx.nextHandle)) t ∧
        Tbl.find t.mbx.objects s.mbx.nextHandle = some o ∧ o.kind = .clip clip rate ∧ o.slot = r.slot ∧ o.length = total) ∧
    (∀ (clip : Nat) c, runs { code := 0x0B0B, reach := .shared, needs := some Fn.peat } r s = true → forwards s = false →
      Tbl.find s.peat.clip clip = some c → c.pinned = false → clipInUse s clip = false →
      ∃ t, Answers (.peatClipDelete r clip) { code := 0x0B0B, reach := .shared, needs := some Fn.peat } r s (done [] []) t ∧
        Tbl.find t.peat.clip clip = none) ∧
    (∀ first : Nat, runs { code := 0x0B0C, needs := some Fn.peat } r s = true →
      let n := (s.peat.clip.filter fun e => decide (first ≤ e.1)).length
      ∃ x, Answers (.peatClipList r first) { code := 0x0B0C, needs := some Fn.peat } r s (done [] (u16 n) x)
          (entered { code := 0x0B0C, needs := some Fn.peat } r s) ∧ x.length = 16 * n) ∧
    (∀ (clip op : Nat) c, runs { code := 0x0B0D, reach := .here, needs := some Fn.peat } r s = true → Tbl.find s.peat.clip clip = some c →
      op = 0 ∨ (op = 1 ∧ pinFits s c = true) →
      ∃ t, Answers (.peatPin r clip op) { code := 0x0B0D, reach := .here, needs := some Fn.peat } r s (done [] []) t ∧
        Tbl.find t.peat.clip clip = some { c with pinned := decide (op = 1) } ∧ ∀ b ∈ t.peat.cache, b.clip ≠ clip) ∧
    (∀ (voice clip : Nat) (at_ : NetTime) (gain : Int) c, runs { code := 0x0B0E, reach := .shared, needs := some Fn.router } r s = true →
      forwards s = false → fam s ≠ 2 → voice < 256 → isNextFrame at_ = true → Tbl.find s.peat.clip clip = some c →
      (c.pinned = true ∨ isReady s Fn.peat = true) → c.rate = s.sys.rate → (voiceOf s voice).state = 0 → playPending s voice = false →
      cacheFits s clip = true → Tbl.has s.peat.playFor voice = false →
      ∃ t, Answers (.peatPlay r voice clip 0 at_ gain) { code := 0x0B0E, reach := .shared, needs := some Fn.router } r s
          (done [] (fnB (commitFrame s))) t ∧
        t.commit.sets = s.commit.sets ++ [{ due := some (commitFrame s), changes := [.play voice clip none false false (dbToGain gain)] }]) ∧
    (∀ (voice clip len whole left : Nat) c, runs { code := 0x0B0F, reach := .shared, needs := some Fn.router } r s = true →
      forwards s = false → fam s ≠ 2 → voice < 256 → Tbl.find s.peat.clip clip = some c → (c.pinned = true ∨ isReady s Fn.peat = true) →
      c.rate = s.sys.rate → (voiceOf s voice).state ≠ 0 → (voiceOf s voice).stop = none → (voiceOf s voice).next = none →
      (voiceOf s voice).queue.length < 8 → lastClip s (voiceOf s voice) = some (whole, left) →
      min (min 256 (min whole c.samples)) len + s.sys.b ≤ left →
      ∃ t cl, Answers (.peatQueue r voice clip len) { code := 0x0B0F, reach := .shared, needs := some Fn.router } r s (done cl []) t ∧
        (voiceOf t voice).queue = (voiceOf s voice).queue ++ [(clip, min (min 256 (min whole c.samples)) len)]) ∧
    (∀ voice : Nat, runs { code := 0x0B10, reach := .shared, needs := some Fn.router } r s = true → forwards s = false → voice < 256 →
      ∃ t, Answers (.peatStop r voice) { code := 0x0B10, reach := .shared, needs := some Fn.router } r s (done [] (fnB (commitFrame s))) t ∧
        t.commit.sets = s.commit.sets ++ [{ due := some (commitFrame s), changes := [.voiceStop voice] }])

/-! ### The EXPERT commands -/

/-- Raw tables, words and pages: reads answer what the active bank holds, writes put exactly the words they bring (crosspoint
words with the reserved field cleared) into the shadow banks and commit them.

exec answers a next state, on conditions of the state and the operands alone, with the effect given here, for: expertMoverRead,
expertMoverWrite, expertMixRead, expertMixWrite, expertCoefWrite, expertCoefRead, expertPageRead, expertPageWrite. -/
def Obligations.ExpertPageCommands : Prop :=
  ∀ (r : Req) (s : State),
    (∀ first count : Nat, runs { code := 0x0C01, expert := true } r s = true →
      let n := ((connectedIn s.page.active).filter fun e => decide (first ≤ e.1) && decide (e.1 < first + count)).length
      ∃ x, Answers (.expertMoverRead r 1 first count) { code := 0x0C01, expert := true } r s (done [] (u32 n) x)
          (entered { code := 0x0C01, expert := true } r s) ∧ x.length = 40 * n) ∧
    (∀ e : MoverOp, runs { code := 0x0C02, reach := .shared, expert := true, needs := some Fn.router } r s = true → e.prev ≤ 1 →
      named s e.sink = true → named s e.src = true → isSource s e.sink = false → isSource s e.src = true →
      isHeld s (e.sink / 256) = false → shadowConnections s < 65536 →
      ∃ pl, CommitsPlan (.expertMoverWrite r 0 [e]) { code := 0x0C02, reach := .shared, expert := true, needs := some Fn.router } r s pl ∧
        shadowGet pl.st (e.sink / 256) (e.sink % 256 * 4) = e.src ∧ pl.data = []) ∧
    (∀ lane first count : Nat, runs { code := 0x0C03, expert := true } r s = true → laneRun s lane first count = true →
      Answers (.expertMixRead r lane first count) { code := 0x0C03, expert := true } r s
        (done [] [] ((List.range count).flatMap fun i => le 6 (crossIn s lane (activeRec s (0x400 + lane)) (first + i)).word))
        (entered { code := 0x0C03, expert := true } r s)) ∧
    (∀ (lane first : Nat) (ws : List Nat), runs { code := 0x0C04, reach := .shared, expert := true, needs := some Fn.bracken } r s = true →
      ws ≠ [] → ws.length ≤ 2048 → laneRun s lane first ws.length = true →
      ∃ pl, CommitsPlan (.expertMixWrite r 0 lane first ws)
          { code := 0x0C04, reach := .shared, expert := true, needs := some Fn.bracken } r s pl ∧
        pl.edits = ((List.range ws.length).zip ws).map fun e => ⟨0x400 + lane, rawBase + first + e.1, (e.2 % 2 ^ 30 : Nat)⟩) ∧
    (∀ (page first : Nat) (ws : List Nat) k, runs { code := 0x0C05, reach := .shared, expert := true, needs := some Fn.fronds } r s = true →
      ws ≠ [] → (∀ w ∈ ws, w < 2 ^ 24) → Tbl.find s.frond.tasks page = some k → first + ws.length ≤ k.params →
      ∃ pl, CommitsPlan (.expertCoefWrite r 0 page first ws)
          { code := 0x0C05, reach := .shared, expert := true, needs := some Fn.fronds } r s pl ∧
        pl.edits = ((List.range ws.length).zip ws).map fun e => ⟨page, rawBase + first + e.1, (e.2 : Nat)⟩) ∧
    (∀ (page first count : Nat) ws, runs { code := 0x0C06, expert := true } r s = true → coefWords s page = some ws →
      first + count ≤ ws.length →
      Answers (.expertCoefRead r page first count) { code := 0x0C06, expert := true } r s
        (done [] [] (((ws.drop first).take count).flatMap u32)) (entered { code := 0x0C06, expert := true } r s)) ∧
    (∀ (page input : Nat), runs { code := 0x0C07, expert := true } r s = true → pageExists s page = true →
      (let bs := recordBytes s page (activeRec s page)
       Answers (.expertPageRead r page 0 input) { code := 0x0C07, expert := true } r s (done [] (u32 bs.length) bs)
        (entered { code := 0x0C07, expert := true } r s)) ∧
      (let bs := recordBytes s page (shadowRec s page)
       Answers (.expertPageRead r page 1 input) { code := 0x0C07, expert := true } r s (done [] (u32 bs.length) bs)
        (entered { code := 0x0C07, expert := true } r s))) ∧
    (∀ (page : Nat) bytes p rs x pl,
      let c : Cmd := { code := 0x0C08, reach := .shared, expert := true, needs := some (pageFunction page) }
      runs c r s = true → recordsOf 1 bytes = some ([p], []) → p.whole = true → p.page = page → ascending p.items = true →
      takeRecords (entered c r s) false [p] = .ok (rs, x) → planRecords rs { st := entered c r s } = .ok pl →
      CommitsPlan (.expertPageWrite r 0 page bytes) c r s pl)

/-- Images, instances and counts: an image opens an object, an unused one is unloaded, an instance takes its pins and pages,
and the readings say how many records follow.

exec answers a next state, on conditions of the state and the operands alone, with the effect given here, for: expertImageLoad,
expertImageUnload, expertImageList, expertInstanceCreate, expertInstanceDelete, expertPlacement, expertTaskStats,
expertFrondRead. -/
def Obligations.ExpertImageCommands : Prop :=
  ∀ (r : Req) (s : State),
    let c := fun code => ({ code := code, reach := .shared, expert := true, needs := some Fn.fronds } : Cmd)
    (∀ total : Nat, runs (c 0x0C09) r s = true → (s.mbx.objects.filter fun e => e.2.slot = r.slot).length < 2 → s.mbx.objects.length < 8 →
      ∃ t o, Answers (.expertImageLoad r total) (c 0x0C09) r s (done [] (u32 s.mbx.nextHandle)) t ∧
        Tbl.find t.mbx.objects s.mbx.nextHandle = some o ∧ o.kind = .image ∧ o.slot = r.slot ∧ o.length = total) ∧
    (∀ image : Nat, runs (c 0x0C0A) r s = true → forwards s = false → Tbl.has s.frond.images image = true → imageUsers s image = [] →
      ∃ t, Answers (.expertImageUnload r image) (c 0x0C0A) r s (done [] []) t ∧ Tbl.find t.frond.images image = none) ∧
    (runs { code := 0x0C0B, expert := true } r s = true →
      ∃ x, Answers (.expertImageList r) { code := 0x0C0B, expert := true } r s (done [] (u8 s.frond.images.length) x)
          (entered { code := 0x0C0B, expert := true } r s) ∧ x.length = 64 * s.frond.images.length) ∧
    (∀ (image : Nat) pl, runs (c 0x0C0C) r s = true → planInstance image (entered (c 0x0C0C) r s) = .ok pl →
      CommitsPlan (.expertInstanceCreate r 0 image) (c 0x0C0C) r s pl ∧
        ∃ pin page n, pl.data = idB (some pin) ++ u16 page ++ u8 n ∧ pl.changes = [.instNew image page pin (ringBases pl.st page)]) ∧
    (∀ (page : Nat) k pl, runs (c 0x0C0D) r s = true → Tbl.find s.frond.tasks page = some k → k.live = true → k.firstPage = page →
      planDelete ((s.frond.tasks.filter fun e => e.2.firstPage = page).map (·.1)) (pinsOf s page) false (.instDrop page)
        (entered (c 0x0C0D) r s) = .ok pl →
      CommitsPlan (.expertInstanceDelete r 0 page 0) (c 0x0C0D) r s pl ∧ .instDrop page ∈ pl.changes) ∧
    (runs { code := 0x0C0E, expert := true } r s = true →
      ∃ x, Answers (.expertPlacement r) { code := 0x0C0E, expert := true } r s (done [] (u8 (s.sys.spareFrond.getD 0xFF)) x)
          (entered { code := 0x0C0E, expert := true } r s) ∧ x.length = 32 * 16) ∧
    (runs { code := 0x0C0F, expert := true } r s = true →
      let n := (s.frond.tasks.filter fun e => e.2.live).length
      ∃ x t, Answers (.expertTaskStats r) { code := 0x0C0F, expert := true } r s (done [] (u16 n) x) t ∧ x.length = 24 * n ∧
        ∀ p k, Tbl.find s.frond.tasks p = some k → k.live = true → Tbl.find t.frond.tasks p = some { k with maxInstr := 0, maxBulk := 0 }) ∧
    (∀ f m offset count : Nat, runs { code := 0x0C10, expert := true } r s = true → f < 32 → m ≤ 12 → offset + count ≤ frondWords m →
      ∃ t, exec (.expertFrondRead r f m offset count) s = .next t ∧
        t.frond.bells = s.frond.bells ++ [{ frond := f, core := if m = 12 then 0 else m % 4, m := m, offset := offset, count := count
                                            slot := r.slot, seq := r.seq }])

/-- Memories, descriptor lists and the arbiter's tables, and the doorbell that reads a frond's words.

exec answers a next state, on conditions of the state and the operands alone, with the effect given here, for: doorbell,
expertMemRead, expertMemWrite, expertDma, expertArbRead, expertArbWrite. -/
def Obligations.ExpertMemoryCommands : Prop :=
  (∀ (f c : Nat) (s : State) b, (s.frond.bells.find? fun b => decide (b.frond = f) && decide (b.core = c)) = some b →
    coreFree s f c = true →
    exec (.doorbell f c) s = .next (answer b.slot b.seq 0x0C10 0
      (done [] [] ((List.range b.count).flatMap fun i => frondBytes s f b.m (b.offset + i)))
      { s with frond := { s.frond with bells := s.frond.bells.erase b } })) ∧
  ∀ (r : Req) (s : State),
    (∀ addr length : Nat, runs { code := 0x0C11, expert := true } r s = true →
      (rangeRefusal 0 addr length = none → poisoned s 0 addr length = false →
        Answers (.expertMemRead r 0 addr length) { code := 0x0C11, expert := true } r s
          (done [] [] (s.mem.sram.readBytes addr length)) (entered { code := 0x0C11, expert := true } r s)) ∧
      (rangeRefusal 1 addr length = none → poisoned s 1 addr length = false →
        Answers (.expertMemRead r 1 addr length) { code := 0x0C11, expert := true } r s
          (done [] [] (s.mem.bulk.readBytes addr length)) (entered { code := 0x0C11, expert := true } r s))) ∧
    (∀ (addr : Nat) (bytes : List Byte), runs { code := 0x0C12, reach := .here, expert := true, maint := true } r s = true →
      (rangeRefusal 0 addr bytes.length = none →
        ∃ t, Answers (.expertMemWrite r 0 addr bytes.length bytes) { code := 0x0C12, reach := .here, expert := true, maint := true } r s
            (done [] []) t ∧
          t.mem.sram = s.mem.sram.writeBytes addr bytes ∧ t.mem.bulk = s.mem.bulk) ∧
      (rangeRefusal 1 addr bytes.length = none →
        ∃ t, Answers (.expertMemWrite r 1 addr bytes.length bytes) { code := 0x0C12, reach := .here, expert := true, maint := true } r s
            (done [] []) t ∧
          t.mem.bulk = s.mem.bulk.writeBytes addr bytes ∧ t.mem.sram = s.mem.sram)) ∧
    (∀ (count : Nat) (bytes : List Byte) (host : List (Nat × Byte)), runs { code := 0x0C13, reach := .here, expert := true } r s = true →
      1 ≤ count → count ≤ 256 → bytes.length = 32 * count →
      ∃ t d, Answers (.expertDma r count bytes host) { code := 0x0C13, reach := .here, expert := true } r s (done [] d) t ∧
        d.length = 5 * count) ∧
    (∀ group : Nat, runs { code := 0x0C14, expert := true } r s = true → group ≤ 5 →
      ∃ x, Answers (.expertArbRead r group) { code := 0x0C14, expert := true } r s (done [] [] x)
          (entered { code := 0x0C14, expert := true } r s) ∧ x.length = 823 ∧ (x.drop 560).take 2 = u16 s.arb.hogMax) ∧
    (∀ group index v : Nat, runs { code := 0x0C15, reach := .here, expert := true } r s = true →
      let c : Cmd := { code := 0x0C15, reach := .here, expert := true }
      (group ≤ 5 → index < 256 → (Tbl.getD (groupOf s group).slots index (63, false)).2 = false → v ∈ [36, 37, 39, 40, 63] →
        ∃ t, Answers (.expertArbWrite r 0 group index [v]) c r s (done [] []) t ∧
          Tbl.getD (groupOf t group).slots index (63, false) = (v, false)) ∧
      (index < 41 → ∃ t cl, Answers (.expertArbWrite r 1 group index [v]) c r s (done cl []) t ∧ rankOf t index = min 15 v) ∧
      (∃ t cl, Answers (.expertArbWrite r 2 group index [v]) c r s (done cl []) t ∧ t.arb.hogMax = max 4 (min 256 v)) ∧
      (∃ t cl, Answers (.expertArbWrite r 3 group index [v]) c r s (done cl []) t ∧ t.arb.starveUs = max 5 (min 1000 v)) ∧
      ((defaultPriority (index / 7) (index % 7)).isSome = true →
        ∃ t cl, Answers (.expertArbWrite r 4 group index [v]) c r s (done cl []) t ∧ priorityOf t index = min 7 v))

/-! ### Power, reset and boot -/

/-- Feeds, stages, rails, temperature, the last gasp and the always-on domain: what each event leaves.

exec answers a next state, on conditions of the state and the operands alone, with the effect given here, for: feedLost,
feedReturned, stageSample, railCheck, tjSample, lastGasp, coarseTimeUpdate, vauxPowerOnReset, feedSenseSample, vauxPowerOn. -/
def Obligations.PowerEvents : Prop :=
  (∀ (a b : Nat) (s : State), s.pwr.aon = true → s.pwr.feeds.length = 2 →
    ∃ t, exec (.feedSenseSample a b) s = .next t ∧ (feedOf t 0).mv = a / 10 * 10 ∧ (feedOf t 1).mv = b / 10 * 10) ∧
  (∀ (feed : Bool) (s : State) at_, s.pwr.aon = true → s.pwr.feeds.length = 2 → (feedOf s (Fx.b2n feed)).badSince = some at_ →
    (feedOf s (Fx.b2n feed)).lost = false →
    ∃ t, exec (.feedLost feed) s = .next t ∧ (feedOf t (Fx.b2n feed)).lost = true ∧
      (s.flt.started = true → Fx.bit t.pwr.flags (Fx.b2n feed) = true ∧ Fx.bit t.int.status0 20 = true)) ∧
  (∀ (feed : Bool) (s : State) at_, s.pwr.feeds.length = 2 → (feedOf s (Fx.b2n feed)).goodSince = some at_ →
    (feedOf s (Fx.b2n feed)).lost = true → s.pwr.gasp = none →
    ∃ t, exec (.feedReturned feed) s = .next t ∧ (feedOf t (Fx.b2n feed)).lost = false) ∧
  (∀ (xs : List StageReading) (s : State), s.pwr.aon = true → xs.length = 8 → s.pwr.stages.length = 8 →
    ∃ t, exec (.stageSample xs) s = .next t ∧ ∀ i x, xs[i]? = some x →
      (t.pwr.stages.getD i {}).ma = x.ma ∧ (t.pwr.stages.getD i {}).temp = x.temp ∧
      (x.fault = true ∨ 12500 ≤ x.temp → (t.pwr.stages.getD i {}).healthy = false)) ∧
  (∀ (uv : List Nat) (s : State), s.pwr.aon = true → s.pwr.up = true →
    ∃ t, exec (.railCheck uv) s = .next t ∧ t.pwr.rails = (List.range 11).map (fun i => uv.getD i 0) ∧
      (uv.getD 1 0 < 760000 ∨ 840000 < uv.getD 1 0 → 1 ∈ t.pwr.railBad)) ∧
  (∀ (tj : Int) (s : State), s.pwr.aon = true →
    ∃ t, exec (.tjSample tj) s = .next t ∧ t.pwr.tj = tj ∧ t.pwr.tjCrit = decide (11500 ≤ tj) ∧
      t.pwr.ageing.tjN = s.pwr.ageing.tjN + 1 ∧ t.pwr.ageing.tjSum = s.pwr.ageing.tjSum + tj) ∧
  (∀ s : State, s.sys.inReset = false → 12500 ≤ s.pwr.tj →
    ∃ t, exec (.lastGasp 3) s = .next t ∧ t.pwr.gasp = some 3 ∧ t.sys.inReset = true ∧ t.pair.activeOut = false ∧
      t.pwr.ringSeq = s.pwr.ringSeq + 1 ∧ t.pwr.ring.length = s.pwr.ring.length + 1) ∧
  (∀ s : State, s.clk.unset = false → s.flt.started = true → s.sys.mladirUp = true →
    exec .coarseTimeUpdate s = .next { s with pwr := { s.pwr with coarse := s.clk.full / 1000000 % 2 ^ 48, coarseAt := s.clk.raw } }) ∧
  (∀ s : State, exec .vauxPowerOn s = .next { s with pwr := { s.pwr with aon := true } }) ∧
  (∀ s : State, ∃ t, exec .vauxPowerOnReset s = .next t ∧ t.sys.inReset = true ∧ t.mem.ret = State.reset.mem.ret ∧
    t.mem.flash = s.mem.flash ∧ t.supv.otp = s.supv.otp ∧ t.flt.persist = s.flt.persist ∧ t.clk = State.reset.clk)

/-- Reset and boot: what a reset keeps, the straps at its release, the clock's lock, host delivery, readiness, the servo's
hand-over, a confirmed trial, and the TAP's instruction.

exec answers a next state, on conditions of the state and the operands alone, with the effect given here, for: pllLock,
resetNAssert, resetNRelease, functionReady, servoHandoff, fwConfirm, bootGo, hostDeliveryTimeout, tapInstruction. -/
def Obligations.ResetAndBootEvents : Prop :=
  (∀ s : State, s.sys.resetLow = false →
    ∃ t, exec .resetNAssert s = .next t ∧ t.sys.inReset = true ∧ t.sys.resetLow = true ∧ t.mem.ret = s.mem.ret ∧
      t.mem.flash = s.mem.flash ∧ t.supv.otp = s.supv.otp ∧ t.flt.persist = s.flt.persist ∧ t.mbx.keys = s.mbx.keys ∧
      t.clk = State.reset.clk ∧ t.page.active = State.reset.page.active ∧ t.int = State.reset.int) ∧
  (∀ (en pref : Nat) (s : State), s.sys.resetLow = true → s.pwr.aon = true → s.pwr.gasp = none →
    ∃ t, exec (.resetNRelease en pref [] []) s = .next t ∧ t.sys.resetLow = false ∧ t.sys.inReset = false ∧
      t.sys.pairEn = decide (2 ≤ (bitsOf 3 en).length) ∧ t.sys.pairPref = decide (2 ≤ (bitsOf 3 pref).length)) ∧
  (∀ (hz f : Nat) (s : State), s.sys.inReset = false → s.pwr.up = true → s.clk.pllLocked = false → acceptedXo hz = some f →
    ∃ t, exec (.pllLock hz) s = .next t ∧ t.clk.pllLocked = true ∧ t.clk.xoKhz = f / 1000) ∧
  (∀ (go total offset length crc : Nat) (bytes : List Byte) (s : State), s.flt.started = false → s.sys.inReset = false →
    s.pwr.bootState = 1 ∨ s.pwr.bootState = 2 → go ≠ s.pwr.bootAck → chunkFault s.pwr total offset length crc bytes = 0 →
    s.pwr.bootAccepted + length ≠ total →
    ∃ t, exec (.bootGo go total offset length crc bytes) s = .next t ∧ t.pwr.bootState = 2 ∧ t.pwr.bootAck = go ∧
      t.pwr.bootAccepted = s.pwr.bootAccepted + length ∧ t.pwr.bootBytes = s.pwr.bootBytes ++ bytes) ∧
  (∀ (go total offset length crc : Nat) (bytes : List Byte) (s : State), s.flt.started = false → s.sys.inReset = false →
    s.pwr.bootState = 1 ∨ s.pwr.bootState = 2 → go ≠ s.pwr.bootAck → chunkFault s.pwr total offset length crc bytes ≠ 0 →
    ∃ t, exec (.bootGo go total offset length crc bytes) s = .next t ∧ t.pwr.bootState = 5 ∧
      t.pwr.bootReason = chunkFault s.pwr total offset length crc bytes) ∧
  (∀ s : State, s.flt.started = false → s.pwr.bootState = 1 → s.pwr.bootFirst = true →
    ∃ t, exec .hostDeliveryTimeout s = .next t ∧ t.pwr.bootFirst = false) ∧
  (∀ (code : Nat) (s : State), s.flt.started = true → code ≤ 9 →
    ∃ t, exec (.functionReady code) s = .next t ∧ code ∈ t.sys.tested) ∧
  (∀ s : State, isReady s Fn.fronds = true → 100 ≤ s.frond.slackFrames →
    exec .servoHandoff s = .next { s with pwr := { s.pwr with handed := true } }) ∧
  (∀ (s : State) at_, s.pwr.trialAt = some at_ → s.pwr.onTrial = true → s.pwr.running ≤ 1 →
    ∃ t, exec .fwConfirm s = .next t ∧ t.pwr.confirmed = s.pwr.running ∧ t.pwr.trial = 0xFF ∧ t.pwr.attempts = 0 ∧
      t.pwr.onTrial = false ∧ t.pwr.bootGen = (s.pwr.bootGen + 1) % 2 ^ 32) ∧
  (∀ (which : Nat) (s : State), ∃ t, exec (.tapInstruction which) s = .next t ∧
    t.pwr.tap = (if s.sys.resetLow = true ∨ which < 3 then which else 0))

/-- The POWER and SECURE commands: the readings; the slack target, clamped to 25 to 60 %; VCORE under direct control, within
0.68 V and 0.86 V in steps of 2.5 mV, and its end; keys provisioned and deleted; the update's object; the trial image.

exec answers a next state, on conditions of the state and the operands alone, with the effect given here, for: powerStatus,
powerSlackTarget, powerSlackReport, powerAgeing, powerVcore, secureKey, secureFwUpdate, secureFwStatus, secureImageSelect,
secureRollbackRead. -/
def Obligations.PowerAndSecureCommands : Prop :=
  ∀ (r : Req) (s : State),
    (runs { code := 0x0D01 } r s = true →
      ∃ d, Answers (.powerStatus r) { code := 0x0D01 } r s (done [] d) (entered { code := 0x0D01 } r s) ∧ d.length = 53 ∧
        d.take 8 = u32 s.pwr.vcore ++ u16 s.pwr.target ++ s16 s.pwr.tj) ∧
    (∀ target : Nat, runs { code := 0x0D02, reach := .here } r s = true →
      ∃ t cl, Answers (.powerSlackTarget r 1 target) { code := 0x0D02, reach := .here } r s (done cl (u16 (max 250 (min 600 target)))) t ∧
        t.pwr.target = max 250 (min 600 target)) ∧
    (runs { code := 0x0D03 } r s = true →
      ∃ x, Answers (.powerSlackReport r) { code := 0x0D03 } r s (done [] [] x) (beginSlack (entered { code := 0x0D03 } r s)) ∧ x.length = 12 * 32) ∧
    (runs { code := 0x0D04 } r s = true →
      ∃ t d x, Answers (.powerAgeing r) { code := 0x0D04 } r s (done [] d x) t ∧ d.length = 22 ∧
        x = s.pwr.ageing.days.flatMap u32 ∧ (∀ v, s.pwr.ageing.v90ref = some v → d.take 4 = u32 v) ∧ t.pwr = s.pwr) ∧
    (∀ uv : Nat, runs { code := 0x0D05, reach := .here, expert := true } r s = true →
      ∃ t cl v, Answers (.powerVcore r 1 uv) { code := 0x0D05, reach := .here, expert := true } r s (done cl (u32 v)) t ∧
        t.pwr.direct = some v ∧ 680000 ≤ v ∧ v ≤ 860000 ∧
        (680000 ≤ uv → uv ≤ 860000 → (uv - 680000) % 2500 = 0 → v = uv)) ∧
    (∀ uv : Nat, runs { code := 0x0D05, reach := .here, expert := true } r s = true →
      ∃ t, Answers (.powerVcore r 0 uv) { code := 0x0D05, reach := .here, expert := true } r s (done [] (u32 s.pwr.vcore)) t ∧
        t.pwr.direct = none) ∧
    (∀ (key rights : Nat) (bytes : List Byte), runs { code := 0x0E01, reach := .here } r s = true →
      (slotOf s r.slot).path ≠ 2 ∨ Fx.bit (slotOf s r.slot).rights 3 = true → key ≤ 15 → rights < 16 → bytes.length = 32 →
      (∃ t, Answers (.secureKey r 1 key rights bytes) { code := 0x0E01, reach := .here } r s (done [] []) t ∧
        Tbl.find t.mbx.keys key = some (rights, bytes)) ∧
      (Tbl.has s.mbx.keys key = true →
        ∃ t, Answers (.secureKey r 0 key rights bytes) { code := 0x0E01, reach := .here } r s (done [] []) t ∧
          Tbl.find t.mbx.keys key = none)) ∧
    (∀ total : Nat, runs { code := 0x0E02, reach := .here } r s = true → (s.mbx.objects.filter fun e => e.2.slot = r.slot).length < 2 →
      s.mbx.objects.length < 8 →
      ∃ t o, Answers (.secureFwUpdate r total) { code := 0x0E02, reach := .here } r s (done [] (u32 s.mbx.nextHandle)) t ∧
        Tbl.find t.mbx.objects s.mbx.nextHandle = some o ∧ o.kind = .firmware ∧ o.slot = r.slot ∧ o.length = total) ∧
    (runs { code := 0x0E03 } r s = true →
      ∃ t d, Answers (.secureFwStatus r) { code := 0x0E03 } r s (done [] d) t ∧ d.length = 18 ∧ t.pwr = s.pwr ∧
        d.take 2 = u8 s.pwr.running ++ u8 (if s.pwr.trial ≤ 1 ∧ s.pwr.attempts < 3 then s.pwr.trial else s.pwr.confirmed)) ∧
    (∀ which : Nat, runs { code := 0x0E04, reach := .here, expert := true } r s = true → slotValid s.pwr which = true →
      ∃ t, Answers (.secureImageSelect r which) { code := 0x0E04, reach := .here, expert := true } r s (done [] []) t ∧
        t.pwr.trial = which ∧ t.pwr.attempts = 0) ∧
    (runs { code := 0x0E05, expert := true } r s = true →
      Answers (.secureRollbackRead r) { code := 0x0E05, expert := true } r s
        (done [] (u32 s.pwr.rollback ++ u32 (64 - s.pwr.rollback))) (entered { code := 0x0E05, expert := true } r s))

/-! ### Registers, semaphores, the arbiter and DMA -/

/-- A host's register accesses: a full write of a read-write register or of a register with a behaviour of its own does what
the command of that register does, a write with fewer byte enables, of a reserved offset or of a read-only register is
ignored and counted; a read answers the register's value and latches the words read with it, which stay for that master.
Status bits clear where ones are written, and sources that fire in the same access stay set; INT_SET sets this path's copy
alone; MSI-X masks hold a message pending. MBX_CLAIM takes the lowest free slot for its path with every right; a release
frees a slot of the same path; a PCIe reset releases the endpoint's slots, abandons its semaphores and disables MSI-X.

exec answers a next state, on conditions of the state and the operands alone, with the effect given here, for: pcieReset,
mbxClaimWrite, mbxReleaseWrite, mbxDoorbellWrite, intStatusClear, intSetWrite, arbFreezeWrite, trigFiredClear, pwrFlagsClear,
latchedRead, registerWrite, msixControlWrite. -/
def Obligations.HostRegisters : Prop :=
  (∀ (path v : Nat) host (s : State),
    exec (.registerWrite path 0x34 v 15 host) s = .next { s with sys := { s.sys with scratch := v } } ∧
    exec (.registerWrite path 0x400 v 15 host) s = exec (.mbxClaimWrite path v) s ∧
    exec (.registerWrite path 0x404 v 15 host) s = exec (.mbxReleaseWrite path v) s ∧
    exec (.registerWrite path 0x408 v 15 host) s = exec (.mbxDoorbellWrite path v host) s ∧
    exec (.registerWrite path 0x800 v 15 host) s = exec (.intStatusClear path v 0) s ∧
    exec (.registerWrite path 0x80C v 15 host) s = exec (.intSetWrite path v) s ∧
    exec (.registerWrite path 0x2C00 v 15 host) s = exec (.arbFreezeWrite path v) s) ∧
  (∀ (path off v enables : Nat) host (s : State),
    enables ≠ 15 ∨ off % 4 ≠ 0 ∨ 0x10000 ≤ off ∨ off = 0 ∨ off = 0x10 ∨ off = 0x30 ∨ (0x1804 ≤ off ∧ off < 0x2000) ∨ (0x3000 ≤ off ∧ off < 0xF000) →
    exec (.registerWrite path off v enables host) s =
      .next { s with sys := { s.sys with writeIgnored := (s.sys.writeIgnored + 1) % 2 ^ 32 } }) ∧
  (∀ (path off : Nat) (s : State), off ∈ [0x10, 0xC00, 0xC10, 0xC18, 0xC20, 0x1010, 0x2404, 0x2C08] → path < 2 →
    ∃ t, exec (.latchedRead path off) s = .next t ∧ t.out = s.out ++ [.regRead path off (regLive s path off)] ∧
      (∀ h ∈ latchedWith off, ∀ u : State, u.int.latch = t.int.latch →
        exec (.latchedRead path h) u = .next { u with out := u.out ++ [.regRead path h (regLive s path h)] }) ∧
      ∀ other h, other ≠ path → h < 65536 → Tbl.find t.int.latch (latchKey other h) = Tbl.find s.int.latch (latchKey other h)) ∧
  (∀ (path : Nat) (s : State), regLive s path 0x404 = 0 ∧ regLive s path 0x408 = 0 ∧ regLive s path 0x80C = 0) ∧
  (∀ (path v fired : Nat) (s : State), v < 2 ^ 22 → fired < 2 ^ 22 → path < 2 →
    ∃ t, exec (.intStatusClear path v fired) s = .next t ∧ ∀ n < 22,
      Fx.bit t.int.status0 n = ((Fx.bit s.int.status0 n && !(decide (path = 0) && Fx.bit v n)) || Fx.bit fired n) ∧
      Fx.bit t.int.status1 n = ((Fx.bit s.int.status1 n && !(decide (path = 1) && Fx.bit v n)) || Fx.bit fired n)) ∧
  (∀ (path v : Nat) (s : State), v < 2 ^ 22 → path < 2 →
    ∃ t, exec (.intSetWrite path v) s = .next t ∧ ∀ n < 22,
      Fx.bit t.int.status0 n = (Fx.bit s.int.status0 n || (decide (path = 0) && Fx.bit v n)) ∧
      Fx.bit t.int.status1 n = (Fx.bit s.int.status1 n || (decide (path = 1) && Fx.bit v n))) ∧
  (∀ (n : Nat) (s : State), n < 22 → Fx.bit s.int.status0 n = false → Fx.bit s.int.msixEnable n = true → s.int.msixOn = true →
    ∃ t, exec (.intSetWrite 0 (2 ^ n)) s = .next t ∧
      (Fx.bit s.int.masked n = false → t.out = s.out ++ [.msix n]) ∧
      (Fx.bit s.int.masked n = true → t.out = s.out ∧ Fx.bit t.int.pba n = true)) ∧
  (∀ (enable : Bool) (masks : Nat) (s : State), ∃ t, exec (.msixControlWrite enable masks) s = .next t ∧
    t.int.msixOn = enable ∧ t.int.masked = masks ∧
    ∀ n < 22, Fx.bit t.int.pba n = (Fx.bit s.int.pba n && !(enable && !Fx.bit masks n)) ∧
      (enable = true → Fx.bit masks n = false → Fx.bit s.int.pba n = true → Fx.bit s.int.status0 n = true → .msix n ∈ t.out)) ∧
  (∀ (path v : Nat) (s : State), v < 2 ^ 16 → ∃ t, exec (.trigFiredClear path v) s = .next t ∧
    (∀ n, Fx.bit t.time.fired n = (Fx.bit s.time.fired n && !Fx.bit v n)) ∧ t = { s with time := { s.time with fired := t.time.fired } }) ∧
  (∀ (path v : Nat) (s : State), v < 32 → ∃ t, exec (.pwrFlagsClear path v) s = .next t ∧
    (∀ n, Fx.bit t.pwr.flags n = (Fx.bit s.pwr.flags n && !Fx.bit v n)) ∧ t = { s with pwr := { s.pwr with flags := t.pwr.flags } }) ∧
  (∀ (path tag c : Nat) (s : State), s.mbx.isOpen = true → c < 8 → (slotOf s c).state = 0 → (∀ d < c, (slotOf s d).state ≠ 0) →
    ∃ t, exec (.mbxClaimWrite path tag) s = .next t ∧ Tbl.getD t.mbx.claim path 0xFF = c ∧
      slotOf t c = { state := 1, path := path, rights := 15, tag := tag, beatAt := s.clk.raw, consAt := s.clk.raw } ∧
      ∀ d, d ≠ c → slotOf t d = slotOf s d) ∧
  (∀ (path c : Nat) (s : State), c < 8 → (slotOf s c).state = 1 → (slotOf s c).path = path → s.sys.maint ≠ some c → path ≠ 1 →
    (∀ l ∈ s.scene.lists, l.2.slot ≠ c) →
    ∃ t, exec (.mbxReleaseWrite path c) s = .next t ∧ slotOf t c = {} ∧ (∀ d, d ≠ c → slotOf t d = slotOf s d) ∧ t.int = s.int ∧ t.sys = s.sys) ∧
  (∀ s : State, (∀ c < 8, (slotOf s c).state = 0) → ∃ t, exec .pcieReset s = .next t ∧ t.int.msixOn = false ∧ t.int.pba = 0 ∧
    ∀ n : Nat, (semOf s n).held = true → (semOf s n).master = 2 → (∀ m x, (m, x) ∈ s.arb.sem → x = semOf s m) →
      semOf t n = { held := false, abandoned := true, master := 0, tag := 0 })

/-- A turn of a bank group: the owner of the present entry, with a burst of one turn pending, is granted that turn before
any background, a write of its commits whole, and the table moves on; a frozen group with nothing running stands. A burst
that waits past the threshold sets its starvation flag, the arbiter's interrupt and ARB_STARVE. ARB_FREEZE takes effect in
the maintenance state alone and is counted elsewhere; flags clear by their halves.

exec answers a next state, on conditions of the state and the operands alone, with the effect given here, for: arbTurn,
arbStarve, arbFreezeWrite, arbHogClear, arbStarveClear. -/
def Obligations.ArbiterTurns : Prop :=
  (∀ (g req addr : Nat) bytes (s : State), g < 6 → req < 41 → (groupOf s g).entry = req → (groupOf s g).running = none →
    (groupOf s g).queue = [] → (groupOf s g).frozen = false → Memory.wf s.mem.bulk = true →
    ∃ t, exec (.arbTurn g [{ req := req, turns := 1, write := true, addr := addr, bytes := bytes }]) s = .next t ∧
      (groupOf t g).queue = [] ∧ (groupOf t g).running = none ∧ (groupOf t g).index = ((groupOf s g).index + 1) % 256 ∧
      Tbl.getD (groupOf t g).turns req 0 = (Tbl.getD (groupOf s g).turns req 0 + 1) % 2 ^ 32 ∧
      Memory.wf t.mem.bulk = true ∧ (∀ i < bytes.length, t.mem.bulk.read (addr + i) = bytes.getD i 0) ∧
      (∀ a, a < addr ∨ addr + bytes.length ≤ a → t.mem.bulk.read a = s.mem.bulk.read a) ∧
      t.mem = { s.mem with bulk := t.mem.bulk, poison := t.mem.poison } ∧ ∀ h, h ≠ g → groupOf t h = groupOf s h) ∧
  (∀ (g req addr n : Nat) (s : State), g < 6 → req < 41 → (groupOf s g).entry = req → (groupOf s g).running = none →
    (groupOf s g).queue = [] → (groupOf s g).frozen = false → 2 ≤ n → n ≤ 4 →
    ∃ t b, exec (.arbTurn g [{ req := req, turns := n, write := false, addr := addr, bytes := [] }]) s = .next t ∧
      (groupOf t g).running = some { burst := b, done := 1, owner := true } ∧ b.req = req ∧ t.mem = s.mem) ∧
  (∀ (g : Nat) (s : State), g < 6 → (groupOf s g).running = none → (groupOf s g).frozen = true →
    ∃ t, exec (.arbTurn g []) s = .next t ∧ groupOf t g = groupOf s g ∧ t.mem = s.mem) ∧
  (∀ (g req : Nat) (b : Burst) (s : State), g < 6 → (groupOf s g).frozen = false → (groupOf s g).queue = [b] → b.req = req →
    b.starved = false → usTicks s.arb.starveUs < s.clk.raw - b.since →
    ∃ t, exec (.arbStarve g req) s = .next t ∧ Fx.bit (groupOf t g).starve req = true ∧ Fx.bit t.int.status0 14 = true ∧
      (groupOf t g).queue = [{ b with starved := true }]) ∧
  (∀ (path v : Nat) (s : State), v < 64 → inMaint s = true → ∃ t, exec (.arbFreezeWrite path v) s = .next t ∧ t.arb.freeze = v ∧
    ∀ g < 6, (groupOf t g).frozen = Fx.bit v g) ∧
  (∀ (path v : Nat) (s : State), v < 64 → inMaint s = false → exec (.arbFreezeWrite path v) s =
    .next { s with arb := { s.arb with freezeDenied := (s.arb.freezeDenied + 1) % 2 ^ 16 } }) ∧
  (∀ (hi : Bool) (v : Nat) (s : State), v < 512 → ∃ t, exec (.arbHogClear hi v) s = .next t ∧
    (∀ n, Fx.bit t.arb.hog n = (Fx.bit s.arb.hog n && !(if hi then decide (32 ≤ n) && Fx.bit v (n - 32) else Fx.bit v n))) ∧
    t = { s with arb := { s.arb with hog := t.arb.hog } }) ∧
  (∀ (g v : Nat) (hi : Bool) (s : State), g < 6 → v < 512 → ∃ t, exec (.arbStarveClear g hi v) s = .next t ∧
    (∀ n, Fx.bit (groupOf t g).starve n =
      (Fx.bit (groupOf s g).starve n && !(if hi then decide (32 ≤ n) && Fx.bit v (n - 32) else Fx.bit v n))) ∧
    ∀ h, h ≠ g → groupOf t h = groupOf s h)

/-- A target of the bus matrix grants the request of the highest priority, of equal ones the first in turn after the master granted
last; each access over the matrix is such a grant. Writes through the set and clear aliases change the enabled bytes of one word of control SRAM by OR and AND NOT and
leave the others, and every other part of the engine, as they were; an offset past control SRAM is a bus error, logged.
SYS_REMAP takes one write of 1, from M0 or M1. A free semaphore is taken, a held one is not; its owner alone releases it;
a host leaves those of the firmware;
a read answers its state and owner. A DMA channel starts at its descriptor; a host's descriptor elsewhere than in mailbox
memory is BAD_START; an abort of an idle channel reports ABORTED_IDLE; a descriptor that the engine does not own ends the
channel without a write-back.

exec answers a next state, on conditions of the state and the operands alone, with the effect given here, for: dmaDescriptorEnd,
setAliasWrite, clearAliasWrite, sysRemapWrite, semAcquire, semRelease, dmaGo, dmaAbort, latchedRead. -/
def Obligations.ControlSpaceCommands : Prop :=
  (∀ (target : Nat) (waiting : List BusReq) (s : State), waiting ≠ [] → ∃ r ∈ waiting, grantNext s target waiting = some r ∧
    lastGrant (grantTarget target waiting s) target = r.master ∧
    ∀ x ∈ waiting, x.priority s target ≤ r.priority s target ∧
      (x.priority s target = r.priority s target → turnAfter (lastGrant s target) r.master ≤ turnAfter (lastGrant s target) x.master)) ∧
  (∀ (master target : Nat) (s : State), onBus master target s =
    { s with arb := { s.arb with granted := Tbl.put s.arb.granted target (if master = 7 then 2 else master) } }) ∧
  (∀ (off v enables : Nat) (s : State), off < 0x800000 → Memory.wf s.mem.sram = true →
    ∃ t u, exec (.setAliasWrite off v enables) s = .next t ∧ exec (.clearAliasWrite off v enables) s = .next u ∧
      Memory.wf t.mem.sram = true ∧ Memory.wf u.mem.sram = true ∧
      (∀ i < 4, t.mem.sram.read (off / 4 * 4 + i) =
        (if Fx.bit enables i then s.mem.sram.read (off / 4 * 4 + i) ||| BitVec.ofNat 8 (v / 256 ^ i) else s.mem.sram.read (off / 4 * 4 + i))) ∧
      (∀ i < 4, u.mem.sram.read (off / 4 * 4 + i) =
        (if Fx.bit enables i then s.mem.sram.read (off / 4 * 4 + i) &&& ~~~BitVec.ofNat 8 (v / 256 ^ i) else s.mem.sram.read (off / 4 * 4 + i))) ∧
      (∀ a, a / 4 ≠ off / 4 → t.mem.sram.read a = s.mem.sram.read a ∧ u.mem.sram.read a = s.mem.sram.read a) ∧
      t = { onBus 1 1 s with mem := { s.mem with sram := t.mem.sram } } ∧ u = { onBus 1 1 s with mem := { s.mem with sram := u.mem.sram } }) ∧
  (∀ (off v enables : Nat) (s : State), 0x800000 ≤ off → ∃ t, exec (.setAliasWrite off v enables) s = .next t ∧ t.mem.sram = s.mem.sram ∧
    ∃ u, exec (.clearAliasWrite off v enables) s = .next u ∧ u.mem.sram = s.mem.sram) ∧
  (∀ (master v : Nat) (s : State), master ≤ 1 → ∃ t, exec (.sysRemapWrite master v) s = .next t ∧
    t = { onBus master 4 s with sys := { s.sys with remap := s.sys.remap || decide (v = 1) } }) ∧
  (∀ (master v : Nat) (s : State), 2 ≤ master → ∃ t, exec (.sysRemapWrite master v) s = .next t ∧ t.sys.remap = s.sys.remap) ∧
  (∀ (master n tag : Nat) (s : State), (master ≠ 2 ∧ master ≠ 7) ∨ 128 ≤ n →
    ((semOf s n).held = false → ∃ t, exec (.semAcquire master n tag) s = .next t ∧
      semOf t n = { held := true, abandoned := (semOf s n).abandoned, master := master, tag := tag } ∧ ∀ m, m ≠ n → semOf t m = semOf s m) ∧
    ((semOf s n).held = true → exec (.semAcquire master n tag) s = .next (onBus master 4 s)) ∧
    ((semOf s n).held = true → (semOf s n).master = master → (semOf s n).tag = tag →
      ∃ t, exec (.semRelease master n tag) s = .next t ∧ semOf t n = {} ∧ ∀ m, m ≠ n → semOf t m = semOf s m) ∧
    ((semOf s n).held = false ∨ (semOf s n).master ≠ master ∨ (semOf s n).tag ≠ tag →
      exec (.semRelease master n tag) s =
        .next { onBus master 4 s with arb := { (onBus master 4 s).arb with badRelease := (s.arb.badRelease + 1) % 2 ^ 16 } })) ∧
  (∀ (master n tag : Nat) (s : State), master = 2 ∨ master = 7 → n < 128 →
    exec (.semAcquire master n tag) s = .next (ignoreWrite (onBus master 4 s)) ∧
      exec (.semRelease master n tag) s = .next (ignoreWrite (onBus master 4 s))) ∧
  (∀ (path n : Nat) (s : State), path < 2 → n < 256 → (semOf s n).master < 16 → (semOf s n).tag < 256 →
    ∃ v, exec (.latchedRead path (0x1400 + 4 * n)) s = .next { s with out := s.out ++ [.regRead path (0x1400 + 4 * n) v] } ∧
      Fx.bit v 31 = (semOf s n).held ∧ Fx.bit v 30 = (semOf s n).abandoned ∧ v / 256 % 16 = (semOf s n).master ∧ v % 256 = (semOf s n).tag) ∧
  (∀ (path ch : Nat) (s : State), ch < 16 → path = 2 ∨ 12 ≤ ch → (dmaOf s ch).state ≠ 1 →
    (ch < 12 ∨ ((0x20000000 : Nat) ≤ (dmaOf s ch).desc ∧ (dmaOf s ch).desc < 0x20010000 ∧ (dmaOf s ch).desc % 32 = 0) →
      ∃ t, exec (.dmaGo path ch) s = .next t ∧ (dmaOf t ch).state = 1 ∧ (dmaOf t ch).current = (dmaOf s ch).desc ∧
        ∀ d, d ≠ ch → dmaOf t d = dmaOf s d) ∧
    (12 ≤ ch → (dmaOf s ch).desc < 0x20000000 → ∃ t, exec (.dmaGo path ch) s = .next t ∧ dmaOf t ch = { dmaOf s ch with state := 5 }) ∧
    ∃ t, exec (.dmaAbort path ch) s = .next t ∧ dmaOf t ch = { dmaOf s ch with state := 3 }) ∧
  (∀ (path ch : Nat) (s : State), ch < 16 → path = 2 ∨ 12 ≤ ch → (dmaOf s ch).state = 1 →
    ∃ t, exec (.dmaAbort path ch) s = .next t ∧ (dmaOf t ch).state = 1 ∧ (dmaOf t ch).abort = true) ∧
  (∀ (ch done : Nat) host ecc (s : State), ch < 16 → (dmaOf s ch).state = 1 → (descOf (descBytes s (dmaOf s ch).current)).own = false →
    ∃ t, exec (.dmaDescriptorEnd ch host ecc done) s = .next t ∧ t.mem = s.mem ∧
      (dmaOf t ch).state = (if (dmaOf s ch).abort then 3 else 2)) ∧
  (∀ (ch a : Nat) (s : State), ch < 12 → (dmaOf s ch).state = 1 → (dmaOf s ch).abort = false → (dmaOf s ch).current = a →
    s.sys.remap = true → s.mem.poison = [] → (0x10000000 : Nat) ≤ a → a % 32 = 0 → a + 32 ≤ 0x10800000 → Memory.wf s.mem.sram = true →
    let d := descOf (descBytes s a)
    d.own = true → d.mode = 0 → d.rev = false → d.chain = false → d.resv = 0 → d.index = 0 → d.src = 0 → d.dst = 1 → d.esize = 4 → d.count = 4 →
    (0x10000000 : Nat) ≤ d.srcA → d.srcA + 4 ≤ 0x10800000 → d.dstA + 4 ≤ 0x0C000000 →
    ∃ t, exec (.dmaDescriptorEnd ch [] none 0) s = .next t ∧
      (∀ i < 4, t.mem.bulk.read (d.dstA + i) = s.mem.sram.read (d.srcA - 0x10000000 + i)) ∧
      (∀ b, b < d.dstA ∨ d.dstA + 4 ≤ b → t.mem.bulk.read b = s.mem.bulk.read b) ∧
      t.mem.sram.read (a - 0x10000000) = 1 ∧ t.mem.sram.readLE (a - 0x10000000 + 4) 4 = 0 ∧
      (descOf (descBytes t a)).own = false ∧ (dmaOf t ch).state = 0 ∧ (dmaOf t ch).last = 1 ∧
      (dmaOf t ch).count = ((dmaOf s ch).count + 1) % 2 ^ 32)

/-! ### Messages and requests -/

/-- A message with its CRC reaches the command that its code and layout spell, whichever way it comes: a client's message in
its ring at once, at its doorbell or when the engine polls, each consumed from the ring; a datagram of a session with a new
counter and the right check. An SPI write with its check right writes its register, an SPI read answers it. A long command
reports its progress in thousandths. SYS.OBJECT_COMMIT of a whole clip begins to store it and answers its version
(log entry 83).

exec answers a next state, on conditions of the state and the operands alone, with the effect given here, for: mbxRequest,
ringPoll, progressInterval, spiTransaction, serilDatagram, mbxDoorbellWrite, sysObjectCommit, timeNow. -/
def Obligations.MessagesReachCommands : Prop :=
  (∀ (c seq p : Nat) (s : State), c < 8 → seq < 2 ^ 32 → p < 2 ^ 32 → p % 16 = 0 → takes s c = true → (slotOf s c).path ≠ 2 →
    (slotOf s c).reqProd = p → (slotOf s c).reqCons = p → OtherRingsEmpty s c →
    let m := message seq 0x0802 0 c []
    let r : Req := { slot := c, seq := seq, crc := fromLE ((m.drop 12).take 4) }
    ∃ u t, exec (.timeNow r) u = .next t ∧ exec (.mbxRequest c m []) s = .next t ∧
      exec (.mbxDoorbellWrite (slotOf s c).path (2 ^ c) []) (placeRequest c m s) = .next t ∧
      exec (.ringPoll []) (placeRequest c m s) = .next t ∧
      slotOf u c = { slotOf s c with reqProd := (p + 16) % 2 ^ 32, reqCons := (p + 16) % 2 ^ 32 } ∧
      (∀ d, d ≠ c → slotOf u d = slotOf s d) ∧
      u = { s with mbx := { s.mbx with slots := u.mbx.slots }, mem := { s.mem with mbx := u.mem.mbx } }) ∧
  (∀ (ip port id key n seq : Nat) nonce (x : Session) (s : State), Tbl.find s.mbx.sessions id = some x → 1 ≤ id → id < 2 ^ 32 →
    x.keyId = key → key < 256 → x.ip = ip → x.port = port → n < 2 ^ 64 → counterNew x n = true → x.slot < 8 → seq < 2 ^ 32 →
    s.mbx.isOpen = true → s.sys.mladirUp = true →
    let m := message seq 0x0802 0 x.slot []
    let body := [0x53, 0x45, 0x52, 0x4C] ++ u8 key ++ u8 1 ++ u16 0 ++ u32 id ++ u64 n ++ m
    exec (.serilDatagram ip port (body ++ hmac x.key body) nonce) s =
      exec (.timeNow { slot := x.slot, seq := seq, crc := fromLE ((m.drop 12).take 4) })
        { s with mbx := { s.mbx with sessions := Tbl.put s.mbx.sessions id (noteCounter n s.clk.raw x) } }) ∧
  (∀ (v : Nat) (s : State), v < 2 ^ 32 →
    let h := [0x02] ++ be 4 0x40000034 ++ be 4 v
    exec (.spiTransaction (h ++ be 4 (crc32c h)) 0) s = .next { s with sys := { s.sys with scratch := v } }) ∧
  (∀ s : State, exec (.spiTransaction ([0x0B] ++ be 4 0x40000034) 1) s =
    .next { s with out := s.out ++ [.spiRead [s.sys.scratch] (crc32c ([0x0B] ++ be 4 0x40000034 ++ be 4 s.sys.scratch))] }) ∧
  (∀ (slot seq code : Nat) ref rest (s : State), (slotOf s slot).work = (seq, code, ref) :: rest → code ∈ [0x0111, 0x0207, 0x0502, 0x0B02] →
    ∃ v, v ≤ 1000 ∧ exec (.progressInterval slot seq) s =
      .next (postEvent Ev.progress (some slot) seq (u16 code ++ u16 v) { s with free := s.free + 1 })) ∧
  (∀ (r : Req) (handle clip rate : Nat) bytes (s : State) (o : Object), let c : Cmd := { code := 0x0111, reach := .shared }
    runs c r s = true → Tbl.find s.mbx.objects handle = some o → o.slot = r.slot → o.kind = .clip clip rate →
    o.length = bytes.length → o.data = (List.range bytes.length).map (fun i => (i, bytes.getD i 0)) →
    bytes ≠ [] → bytes.length % 3 = 0 → isReady s Fn.peat = true → clipInUse s clip = false → Tbl.find s.peat.clip clip = none →
    systemCopies s ≠ [] → objectRoom s = true → forwards s = false →
    ∃ t x, Answers (.sysObjectCommit r handle bytes.length (crc32c bytes)) c r s (done [] (u32 (storedVersion s 1 clip + 1))) t ∧
      Tbl.find t.mbx.objects handle = none ∧ t.peat.clip = s.peat.clip ∧ x ∈ t.peat.storing ∧ x.kind = 1 ∧ x.id = clip ∧
      x.version = storedVersion s 1 clip + 1 ∧ x.tag = rate ∧ x.body = bytes)

/-- How every request is served: one that the mailbox does not take waits; a number seen before with the same CRC is
answered again with its recorded response, marked, and runs nothing; with another CRC it is a CONFLICT; with eight in
progress it is BUSY; without the rights, or outside the maintenance state, it is DENIED; a standby out of step and a
function that is not ready answer NOT_READY; a command meant for the partner is sent on. An answer without data stands in
the response ring behind the last one and in the slot's history, and sets the slot's status bit. -/
def Obligations.RequestsAreServed : Prop :=
  ∀ (c : Cmd) (r : Req) (body : Body) (s : State),
    (takes s r.slot = false → serve c r body s = .next s) ∧
    (∀ h m, takes s r.slot = true → histOf (slotOf s r.slot) r.seq = some h → h.crc = r.crc → h.resp = some m →
      serve c r body s = .next (sendResponse r.slot (reflag m 1) s)) ∧
    (∀ h, takes s r.slot = true → histOf (slotOf s r.slot) r.seq = some h → h.crc ≠ r.crc →
      serve c r body s = .next (sendResponse r.slot (message r.seq c.code 0 r.slot (refuse St.conflict).prefix)
        (reportLimited Src.mailbox K.mbxSeq 1 r.slot 0 s))) ∧
    (takes s r.slot = true → histOf (slotOf s r.slot) r.seq = none →
      let t := entered c r s
      let no (u : State) (rep : Reply) := serve c r body s = .next (answer r.slot r.seq c.code 0 rep u)
      (8 ≤ (slotOf s r.slot).work.length → no t (refuse St.busy)) ∧
      ((slotOf s r.slot).work.length < 8 →
        (r.partner = true → s.pair.link.up = true → serve c r body s = .next { t with out := s.out ++ [.relay r.slot r.seq c.code true] }) ∧
        (r.partner = false → (∀ d, r.data = some d → refOk (slotOf s r.slot) d = true) →
          (hasRights (slotOf s r.slot) c = false → (slotOf s r.slot).path ≠ 2 → no t (refuse St.denied)) ∧
          (hasRights (slotOf s r.slot) c = true →
            (c.maint = true → s.sys.maint = none → no t (refuse St.denied)) ∧
            (c.maint = false → c.reach = .shared → isStandby s = true → s.pair.state ≠ 4 → no t (refuse St.notReady (reason 0x08 0))) ∧
            (c.maint = false → c.reach ≠ .shared → hostFails r = false →
              ∀ f, c.needs = some f → isReady s f = false → no t (refuse St.notReady (reason 0x09 f))))))) ∧
    (∀ (rep : Reply) (p : Nat), atWork (slotOf s r.slot) r.seq = true → refOf (slotOf s r.slot) r.seq = none → (slotOf s r.slot).state = 1 →
      (slotOf s r.slot).path ≠ 2 → (slotOf s r.slot).respProd = p → rep = refuse St.denied → p < 2 ^ 31 → p % 2048 + 32 ≤ 2048 → r.slot < 8 →
      let m := message r.seq c.code 0 r.slot rep.prefix
      let t := answer r.slot r.seq c.code 0 rep s
      (slotOf t r.slot).respProd = p + padded m.length ∧ (slotOf t r.slot).work = (slotOf s r.slot).work.filter (fun w => decide (w.1 ≠ r.seq)) ∧
      t.mem.mbx.readBytes (0x0A00 + r.slot * 0x1000 + p % 2048) m.length = m ∧
      Fx.bit t.int.status0 r.slot = true ∧ Fx.bit t.int.status1 r.slot = true ∧
      (∀ h ∈ (slotOf t r.slot).hist, h.seq = r.seq → h.resp = some m) ∧
      ∀ a, a < 0x0A00 + r.slot * 0x1000 + p % 2048 ∨ 0x0A00 + r.slot * 0x1000 + p % 2048 + padded m.length ≤ a →
        t.mem.mbx.read a = s.mem.mbx.read a) ∧
    ∀ rep : Reply, let t := answer r.slot r.seq c.code 0 rep s
      t = { s with mbx := t.mbx, mem := { s.mem with mbx := t.mem.mbx }, int := t.int, out := t.out } ∧ ∀ d, d ≠ r.slot → slotOf t d = slotOf s d

/-! ### Frames, tasks and terms -/

/-- The frame tick, once the time function is ready, starts the first frame at a grid instant that B divides; in running
operation, with the frame's sample ticks done, the boundary falls B samples after the last one: the frame closes (deadlines,
outputs, tracks, meters, slack, signature), its number is counted up, and the next frame opens. A sample tick inside the
frame moves the grid on by one sample, lets the ports load and shift, runs the interlock and the clock outputs; one more than the frame has
does nothing. An active engine with no switch-over in hand stays active; a standby stays where the partner drives ACTIVE,
and takes over where it does not and this engine is in step.

exec answers a next state, on conditions of the state and the operands alone, with the effect given here, for: frameTick,
sampleTick. -/
def Obligations.FrameAndSampleTicks : Prop :=
  (∀ (partner : Bool) ending moves (s : State), s.sys.running = true → s.sys.interrupted = none → s.clk.boundaryJ + s.sys.b ≤ s.clk.sampleJ + 1 →
    let jb := s.clk.boundaryJ + s.sys.b
    let g := extendGrid s
    let v := closeFrame (frameTime s) (frameCount s) g.1 (!growsNow s) ending.slack ending.late (closeCapture (lastPeriod (advanceToCount (gridCount g.2 jb) g.2)))
    exec (.frameTick partner ending moves) s = .next (openFrame partner moves
      { v with sys := { v.sys with frameNo := v.sys.frameNo + 1 }, clk := { v.clk with sampleJ := jb, boundaryJ := jb }, route := { v.route with bad := [] } })) ∧
  (∀ (partner : Bool) ending moves (s : State), s.sys.running = false → isReady s Fn.time = true → 0 < s.sys.b →
    ∃ u, exec (.frameTick partner ending moves) s = .next (openFrame partner moves u) ∧ u.sys.running = true ∧
      u.sys.frameNo = s.sys.frameNo ∧ u.clk.sampleJ = u.clk.boundaryJ ∧ u.clk.boundaryJ % s.sys.b = 0) ∧
  (∀ (partner : Bool) ending moves (s : State), s.sys.running = false → isReady s Fn.time = false →
    exec (.frameTick partner ending moves) s = .next s) ∧
  (∀ (partner : Bool) (s : State), s.sys.running = true → s.clk.sampleJ + 1 < s.clk.boundaryJ + s.sys.b →
    ∃ u, exec (.sampleTick partner) s = .next (clockOutputs (interlockTick partner (tickPorts u))) ∧ u.clk.sampleJ = s.clk.sampleJ + 1 ∧
      u.clk.boundaryJ = s.clk.boundaryJ ∧ u.sys = s.sys ∧ u.port = s.port ∧ u.pair = s.pair ∧ u.mem.sram = s.mem.sram) ∧
  (∀ (partner : Bool) (s : State), s.sys.running = false ∨ s.sys.interrupted = none ∧ s.clk.boundaryJ + s.sys.b ≤ s.clk.sampleJ + 1 → exec (.sampleTick partner) s = .next s) ∧
  (∀ (level : Bool) (s : State), (readPartner level s).pair.partnerIn = level ∧
    (readPartner level s).pair.lowTicks = (if level then 0 else s.pair.lowTicks + 1) ∧
    (s.pair.partnerIn ≠ level → Fx.bit (readPartner level s).int.status0 15 = true)) ∧
  (∀ s : State, s.pair.dropDue = false → s.pair.roleDrop = false → s.pair.switchAt = none → activeTick s = s) ∧
  (∀ s : State, s.pair.partnerIn = true → standbyTick s = s) ∧
  (∀ s : State, s.pair.partnerIn = false → s.pair.switchAt = none → s.pair.placed = true → s.pair.state = 4 →
    standbyTick s = (if s.pair.handover then leaveStep else id) (raiseActive (report Src.pair K.pairTakeover 2 0 0 s))) ∧
  (∀ s : State, s.pair.partnerIn = false → s.pair.switchAt = none → s.pair.placed = true → s.pair.state ≠ 4 → s.pair.stepAt = none →
    standbyTick s = s)

/-- The sub-frame tick gives every core its position. A library task starts where it is placed, its sources are complete and
a core of its frond is free, and commits, or raises its flag; an expert task enters its run on the core. A flagged library
run runs again, is counted, and commits; past its declared counts an expert run stops, its task failed and the frame invalid.
A lane takes an assigned term once; a step that has waited its samples starts its interpolation. The supply servo moves VCORE
by one step of 2.5 mV towards the slack target within 0.68 V and 0.86 V.

exec answers a next state, on conditions of the state and the operands alone, with the effect given here, for: subFrameTick,
servoInterval, taskStart, taskRetry, taskOverrun, laneTerm, stepTimeout. -/
def Obligations.TasksTermsAndServo : Prop :=
  (∀ s : State, s.sys.running = true → framePos s ≠ 0 →
    ∃ t, exec .subFrameTick s = .next t ∧ t = { s with frond := { s.frond with core := t.frond.core } } ∧
      ∀ key k, Tbl.find s.frond.core key = some k → ∃ k', Tbl.find t.frond.core key = some k' ∧ k'.spos = framePos s) ∧
  (∀ (key core : Nat) (c : RunChecks) (s : State), Tbl.find s.frond.mark key = some .waiting → mayStart s key core = true → s.supv.injected = [] →
    (isLibrary s key = true → ∃ t, exec (.taskStart key core c) s = .next t ∧
      Tbl.find t.frond.mark key = some (match c.flagged with | some loc => .flagged loc | none => .committed)) ∧
    (∀ x, Tbl.find s.frond.tasks (key % 65536) = some x → key < 65536 → isLibrary s key = false → c.flagged = none →
      ∃ t k y, exec (.taskStart key core c) s = .next t ∧ coreOf t (frondOf s key) core = k ∧ k.run = .task key ∧
        Tbl.find t.frond.tasks key = some y ∧ k.main.pc = x.codeLo + x.entry ∧ k.main.p.getD 0 0 = BitVec.ofNat 24 y.ctx ∧
        k.second = false)) ∧
  (∀ (key core loc l : Nat) (c : RunChecks) (s : State), Tbl.find s.frond.mark key = some (.flagged l) →
    (isLibrary s key = true → onCore s key = false → s.sys.interrupted = none → coreFree s (frondOf s key) core = true →
      c.flagged = none →
      ∃ t, exec (.taskRetry key core loc c) s = .next t ∧ Tbl.find t.frond.mark key = some .committed) ∧
    (onCore s key = true → ∃ t, exec (.taskRetry key core loc c) s = .next t ∧ t.frond.invalid = true ∧
      Tbl.find t.frond.mark key = some .failed)) ∧
  (∀ (frond core p : Nat) (s : State) (t : ExpertTask), (coreOf s frond core).run = .task p → Tbl.find s.frond.tasks p = some t →
    pastLimit s t (coreOf s frond core) = true →
    exec (.taskOverrun frond core) s = .next (stopRun frond p K.taskOverrun s) ∧
    (stopRun frond p K.taskOverrun s).frond.invalid = true ∧ Tbl.find (stopRun frond p K.taskOverrun s).frond.mark p = some .failed) ∧
  (∀ (lane input : Nat) (w : DelayError) (s : State), s.sys.running = true → (busOf s lane).stored = false → input ∈ liveTerms s lane →
    input ∉ (busOf s lane).taken → inputDone s input = true → s.supv.injected = [] →
    ∃ t, exec (.laneTerm lane input 0 w) s = .next t ∧ ((busOf t lane).stored = true ∨ input ∈ (busOf t lane).taken)) ∧
  (∀ (lane input err : Nat) (w : DelayError) (s : State), s.sys.running = false ∨ (busOf s lane).stored = true ∨ input ∉ liveTerms s lane →
    exec (.laneTerm lane input err w) s = .next s) ∧
  (∀ (lane input : Nat) (s : State) x g gs, Tbl.find s.mix.xp (xpKey lane input) = some x → x.steps = g :: gs → x.interp = none →
    x.frozen = false → x.timeout ≤ x.wait →
    ∃ t, exec (.stepTimeout lane input) s = .next t ∧
      Tbl.find t.mix.xp (xpKey lane input) = some { x with steps := gs, interp := some (x.applied, g, 0), wait := 0 } ∧
      t = { s with mix := { s.mix with xp := t.mix.xp } }) ∧
  (∀ s : State, s.pwr.handed = true → s.pwr.direct = none →
    let low := s.frond.intervalMin
    ∃ t, exec .servoInterval s = .next t ∧ t.pwr.ageing.hour = s.pwr.ageing.hour ++ [t.pwr.vcore] ∧
      (low + 20 < s.pwr.target → s.pwr.vcore < 860000 → t.pwr.vcore = s.pwr.vcore + 2500) ∧
      (s.pwr.target + 20 < low → 680000 < s.pwr.vcore → t.pwr.vcore = s.pwr.vcore - 2500) ∧
      (low + 20 < s.pwr.target → 860000 ≤ s.pwr.vcore → t.pwr.vcore = s.pwr.vcore) ∧
      (s.pwr.target + 20 < low → s.pwr.vcore ≤ 680000 → t.pwr.vcore = s.pwr.vcore) ∧
      (low ≤ s.pwr.target + 20 → s.pwr.target ≤ low + 20 → t.pwr.vcore = s.pwr.vcore)) ∧
  (∀ s : State, s.pwr.handed = false → exec .servoInterval s = .next s)

/-! ### The whole engine -/

/-- A step takes the command at the front of the queue and is exec of it on the state with the queue's rest; with no command
waiting RAW advances by one tick (log entry 1). Every command, with every operand and in every state, answers a next state: no
form faults or refuses (what each does there the other statements say), and so does every step. -/
def Obligations.StepRunsTheFrontCommand : Prop :=
  (∀ (c : Instr) (rest : List Instr) (s : State), s.pending = c :: rest → step s = exec c { s with pending := rest }) ∧
  (∀ s : State, s.pending = [] → s.clk.raw + 1 < 2 ^ 64 → ∃ t, step s = .next t ∧ t.clk.raw = s.clk.raw + 1 ∧ t.pending = [] ∧
    t.sys = s.sys ∧ t.mem.sram = s.mem.sram ∧ t.frond = s.frond) ∧
  (∀ (c : Instr) (s : State), ∃ t, exec c s = .next t) ∧
  (∀ s : State, stepsOn s)

/-- What reset leaves: no command waits, no function is ready, the engine is in reset and drives nothing, SYS_REMAP is 0, no
slot is claimed and the mailbox is closed, no interrupt is enabled or set, every semaphore is free, no channel runs, frame 0
has not begun, the rate is 48 kHz with B = 8, and every memory has its canonical form. -/
def Obligations.ResetState : Prop :=
  let s := State.reset
  s.pending = [] ∧ s.sys.inReset = true ∧ s.sys.ready = [] ∧ s.sys.remap = false ∧ s.sys.running = false ∧ s.sys.frameNo = 0 ∧ s.sys.rate = 1 ∧ s.sys.b = 8 ∧
  s.mbx.isOpen = false ∧ (∀ c, (slotOf s c).state = 0) ∧ s.int.status0 = 0 ∧ s.int.status1 = 0 ∧ s.int.msixEnable = 0 ∧
  s.int.pin0 = 0 ∧ s.int.pin1 = 0 ∧ s.int.msixOn = false ∧ intNLow s = false ∧ (∀ n, (semOf s n).held = false) ∧
  (∀ c, (dmaOf s c).state ≠ 1) ∧ s.arb.freeze = 0 ∧ s.arb.hog = 0 ∧ s.pair.activeOut = false ∧ s.sys.writeIgnored = 0 ∧ s.sys.scratch = 0 ∧
  (∀ c, (coreOf s c 0).run = .idle) ∧
  Memory.wf s.mem.sram = true ∧ Memory.wf s.mem.mbx = true ∧ Memory.wf s.mem.bulk = true ∧ Memory.wf s.mem.twl = true ∧ Memory.wf s.mem.flash = true
end

