-- ==== Sys2Proof/Laws/Tables.lean ====
section
/-!
SUPPORT. Laws of sparse tables and memories: reading back what was written, leaving every other key alone, and keeping the
canonical form.
-/
namespace Sys2Proof

variable {α : Type}

@[simp] theorem Tbl.find_put_self (t : Tbl α) (k : Nat) (v : α) : Tbl.find (Tbl.put t k v) k = some v := by
  induction t with
  | nil => simp [Tbl.put, Tbl.find]
  | cons e t ih =>
    obtain ⟨j, a⟩ := e
    by_cases h₁ : k < j
    · simp [Tbl.put, h₁, Tbl.find]
    · by_cases h₂ : k = j
      · simp [Tbl.put, h₂, Tbl.find]
      · simp [Tbl.put, h₁, h₂, Tbl.find, Ne.symm h₂, ih]

theorem Tbl.find_put_other {k k' : Nat} (h : k' ≠ k) (t : Tbl α) (v : α) :
    Tbl.find (Tbl.put t k v) k' = Tbl.find t k' := by
  induction t with
  | nil => simp [Tbl.put, Tbl.find, Ne.symm h]
  | cons e t ih =>
    obtain ⟨j, a⟩ := e
    by_cases h₁ : k < j
    · simp [Tbl.put, h₁, Tbl.find, Ne.symm h]
    · by_cases h₂ : k = j
      · subst h₂; simp [Tbl.put, Tbl.find, Ne.symm h]
      · simp only [Tbl.put, h₁, h₂, if_false, Tbl.find, ih]

@[simp] theorem Tbl.getD_put_self (t : Tbl α) (k : Nat) (v d : α) : Tbl.getD (Tbl.put t k v) k d = v := by
  simp [Tbl.getD]

theorem Tbl.getD_put_other {k k' : Nat} (h : k' ≠ k) (t : Tbl α) (v d : α) :
    Tbl.getD (Tbl.put t k v) k' d = Tbl.getD t k' d := by
  simp [Tbl.getD, Tbl.find_put_other h]

theorem Tbl.find_erase_other {k k' : Nat} (h : k' ≠ k) (t : Tbl α) : Tbl.find (Tbl.erase t k) k' = Tbl.find t k' := by
  induction t with
  | nil => rfl
  | cons e t ih =>
    obtain ⟨j, a⟩ := e
    by_cases h₁ : j = k
    · subst h₁; simp [Tbl.erase, Tbl.find, Ne.symm h, ih]
    · simp only [Tbl.erase, Tbl.find, h₁, if_false, ih]

/-- Below its first key a rising table lists nothing. -/
theorem Tbl.find_none_of_rising {t : Tbl α} {n k : Nat} (h : Tbl.risingFrom n t = true) (hk : k < n) : Tbl.find t k = none := by
  induction t generalizing n with
  | nil => rfl
  | cons e t ih =>
    obtain ⟨j, a⟩ := e
    simp only [Tbl.risingFrom, Bool.and_eq_true, decide_eq_true_eq] at h
    simp [Tbl.find, show j ≠ k by omega, ih h.2 (by omega)]

theorem Tbl.risingFrom_mono {t : Tbl α} {m n : Nat} (h : Tbl.risingFrom n t = true) (hm : m ≤ n) : Tbl.risingFrom m t = true := by
  cases t with
  | nil => rfl
  | cons e t =>
    obtain ⟨j, a⟩ := e
    simp only [Tbl.risingFrom, Bool.and_eq_true, decide_eq_true_eq] at h ⊢
    exact ⟨by omega, h.2⟩

theorem Tbl.rising_put {t : Tbl α} {n k : Nat} (v : α) (h : Tbl.risingFrom n t = true) (hk : n ≤ k) :
    Tbl.risingFrom n (Tbl.put t k v) = true := by
  induction t generalizing n with
  | nil => simp [Tbl.put, Tbl.risingFrom, hk]
  | cons e t ih =>
    obtain ⟨j, a⟩ := e
    simp only [Tbl.risingFrom, Bool.and_eq_true, decide_eq_true_eq] at h
    by_cases h₁ : k < j
    · simp only [Tbl.put, h₁, if_true, Tbl.risingFrom, hk, h.2, Bool.and_eq_true, decide_eq_true_eq, and_true, true_and]; omega
    · by_cases h₂ : k = j
      · subst h₂; simp [Tbl.put, Tbl.risingFrom, h.1, h.2]
      · simp [Tbl.put, h₁, h₂, Tbl.risingFrom, h.1, ih h.2 (by omega)]

theorem Tbl.rising_erase {t : Tbl α} {n : Nat} (k : Nat) (h : Tbl.risingFrom n t = true) :
    Tbl.risingFrom n (Tbl.erase t k) = true := by
  induction t generalizing n with
  | nil => rfl
  | cons e t ih =>
    obtain ⟨j, a⟩ := e
    simp only [Tbl.risingFrom, Bool.and_eq_true, decide_eq_true_eq] at h
    by_cases h₁ : j = k
    · simp only [Tbl.erase, h₁, if_true]; exact Tbl.risingFrom_mono (ih h.2) (by omega)
    · simp [Tbl.erase, h₁, Tbl.risingFrom, h.1, ih h.2]

/-- An erased key is not listed. -/
@[simp] theorem Tbl.find_erase_self (t : Tbl α) (k : Nat) : Tbl.find (Tbl.erase t k) k = none := by
  induction t with
  | nil => rfl
  | cons e t ih =>
    obtain ⟨j, a⟩ := e
    by_cases h₁ : j = k
    · simp only [Tbl.erase, h₁, if_true, ih]
    · simp [Tbl.erase, Tbl.find, h₁, ih]

theorem Tbl.wf_put {t : Tbl α} (k : Nat) (v : α) (h : t.wf = true) : (Tbl.put t k v).wf = true := Tbl.rising_put v h (Nat.zero_le k)

theorem Tbl.wf_erase {t : Tbl α} (k : Nat) (h : t.wf = true) : (Tbl.erase t k).wf = true := Tbl.rising_erase k h

/-! ### Memories -/

theorem Tbl.all_put {t : Tbl α} {p : Nat × α → Bool} (k : Nat) (v : α) (hv : p (k, v) = true) (h : t.all p = true) :
    (Tbl.put t k v).all p = true := by
  induction t with
  | nil => simp [Tbl.put, hv]
  | cons e t ih =>
    obtain ⟨j, a⟩ := e
    simp only [List.all_cons, Bool.and_eq_true] at h
    by_cases h₁ : k < j
    · simp [Tbl.put, h₁, hv, h.1]; simpa using h.2
    · by_cases h₂ : k = j
      · subst h₂; simp [Tbl.put, hv]; simpa using h.2
      · simp only [Tbl.put, h₁, h₂, if_false, List.all_cons, Bool.and_eq_true]; exact ⟨h.1, ih h.2⟩

theorem Tbl.all_erase {t : Tbl α} {p : Nat × α → Bool} (k : Nat) (h : t.all p = true) : (Tbl.erase t k).all p = true := by
  induction t with
  | nil => rfl
  | cons e t ih =>
    obtain ⟨j, a⟩ := e
    simp only [List.all_cons, Bool.and_eq_true] at h
    by_cases h₁ : j = k
    · simp only [Tbl.erase, h₁, if_true]; exact ih h.2
    · simp only [Tbl.erase, h₁, if_false, List.all_cons, Bool.and_eq_true]; exact ⟨h.1, ih h.2⟩

theorem Memory.wf_write {m : Memory} (a : Nat) (b : Byte) (h : Memory.wf m = true) : Memory.wf (Memory.write m a b) = true := by
  simp only [Memory.wf, Bool.and_eq_true] at h ⊢
  unfold Memory.write Tbl.putD
  split
  · exact ⟨Tbl.wf_erase a h.1, Tbl.all_erase a h.2⟩
  · rename_i hb
    exact ⟨Tbl.wf_put a b h.1, Tbl.all_put a b (by simpa using hb) h.2⟩

theorem Memory.wf_writeBytes {m : Memory} (a : Nat) (bs : List Byte) (h : Memory.wf m = true) :
    Memory.wf (Memory.writeBytes m a bs) = true := by
  induction bs generalizing m a with
  | nil => exact h
  | cons b bs ih => exact ih (a + 1) (Memory.wf_write a b h)

theorem Memory.wf_writeLE {m : Memory} (a v n : Nat) (h : Memory.wf m = true) : Memory.wf (Memory.writeLE m a v n) = true := by
  induction n generalizing m a v with
  | zero => exact h
  | succ n ih => exact ih (a + 1) (v / 256) (Memory.wf_write a _ h)

theorem Memory.read_write_other {m : Memory} {a a' : Nat} (b : Byte) (h : a' ≠ a) :
    Memory.read (Memory.write m a b) a' = Memory.read m a' := by
  unfold Memory.read Memory.write Tbl.putD
  split
  · simp [Tbl.getD, Tbl.find_erase_other h]
  · simp [Tbl.getD_put_other h]

@[simp] theorem Memory.read_write_self (m : Memory) (a : Nat) (b : Byte) : Memory.read (Memory.write m a b) a = b := by
  unfold Memory.read Memory.write Tbl.putD
  split
  · rename_i hb; simp [Tbl.getD, hb]
  · simp

theorem Memory.read_writeBytes_outside {m : Memory} {a : Nat} {bs : List Byte} {x : Nat} (h : x < a ∨ a + bs.length ≤ x) :
    Memory.read (Memory.writeBytes m a bs) x = Memory.read m x := by
  induction bs generalizing m a with
  | nil => rfl
  | cons b bs ih =>
    simp only [List.length_cons] at h
    rw [Memory.writeBytes, ih (by omega), Memory.read_write_other b (by omega)]

end Sys2Proof
end

