-- ==== Sys2Proof/Laws/Frond.lean ====
section
/-!
SUPPORT. Laws of the frond cores: where a core stands after it was put, what the moves and the advance of an instruction
leave alone, and what an instruction that may be issued does.
-/
namespace Sys2Proof.Machine
open Sys2Proof

/-! ### Cores -/

@[simp] theorem coreOf_putCore (f c : Nat) (k : Core) (s : State) : coreOf (putCore f c k s) f c = k := by
  simp [coreOf, putCore]

theorem coreOf_putCore_other {f c f' c' : Nat} (h : f' * 4 + c' ≠ f * 4 + c) (k : Core) (s : State) :
    coreOf (putCore f c k s) f' c' = coreOf s f' c' := by
  simp [coreOf, putCore, Tbl.getD_put_other h]

theorem writeWords_core (f c p : Nat) (ws : List (Bool × Nat × W24)) (s : State) :
    (writeWords f c p ws s).frond.core = s.frond.core := by
  unfold writeWords
  induction ws generalizing s with
  | nil => rfl
  | cons w ws ih =>
    rw [List.foldl_cons, ih]
    dsimp only
    split <;> rfl

@[simp] theorem coreOf_writeWords (f c p f' c' : Nat) (ws : List (Bool × Nat × W24)) (s : State) :
    coreOf (writeWords f c p ws s) f' c' = coreOf s f' c' := by
  simp [coreOf, writeWords_core]

/-! ### What the parts of an instruction leave alone -/

@[simp] theorem Bank.swLater_pend (b : Bank) (x y : Nat) : (b.swLater x y).pend = b.pend := rfl
@[simp] theorem Bank.swLater_swPend (b : Bank) (x y : Nat) :
    (b.swLater x y).swPend = b.swPend ++ [{ clr := x, set := y, at_ := b.time + 2 }] := rfl
@[simp] theorem Bank.swLater_time (b : Bank) (x y : Nat) : (b.swLater x y).time = b.time := rfl
@[simp] theorem Bank.swLater_p (b : Bank) (x y : Nat) : (b.swLater x y).p = b.p := rfl
@[simp] theorem Bank.swLater_l (b : Bank) (x y : Nat) : (b.swLater x y).l = b.l := rfl
@[simp] theorem Bank.swLater_acc (b : Bank) (x y : Nat) : (b.swLater x y).acc = b.acc := rfl
@[simp] theorem Bank.swLater_sw (b : Bank) (x y : Nat) : (b.swLater x y).sw = b.sw := rfl
@[simp] theorem Bank.putOp_pend (b : Bank) (i : Nat) (v : W56) : (b.putOp i v).pend =
    b.pend ++ [{ target := .acc i, value := v.toNat, issued := b.time, fastAt := b.time + 1, slowAt := b.time + 2 }] := rfl
@[simp] theorem Bank.putOp_swPend (b : Bank) (i : Nat) (v : W56) : (b.putOp i v).swPend = b.swPend := rfl
@[simp] theorem Bank.putOp_time (b : Bank) (i : Nat) (v : W56) : (b.putOp i v).time = b.time := rfl
@[simp] theorem Bank.advance_pend (b : Bank) : b.advance.pend = b.pend := by unfold Bank.advance; simp only []; split <;> rfl
@[simp] theorem Bank.advance_swPend (b : Bank) : b.advance.swPend = b.swPend := by unfold Bank.advance; simp only []; split <;> rfl
@[simp] theorem Bank.advance_time (b : Bank) : b.advance.time = b.time + 1 := by unfold Bank.advance; simp only []; split <;> rfl
@[simp] theorem Bank.advance_p (b : Bank) : b.advance.p = b.p := by unfold Bank.advance; simp only []; split <;> rfl
@[simp] theorem Bank.advance_m (b : Bank) : b.advance.m = b.m := by unfold Bank.advance; simp only []; split <;> rfl
@[simp] theorem Bank.advance_sw (b : Bank) : b.advance.sw = b.sw := by unfold Bank.advance; simp only []; split <;> rfl
@[simp] theorem Bank.advance_acc (b : Bank) : b.advance.acc = b.acc := by unfold Bank.advance; simp only []; split <;> rfl
@[simp] theorem Core.retire_main (k : Core) (b : Bank) (n : Nat) : (k.retire b n).main = b := rfl
@[simp] theorem coreOf_goOn (f c : Nat) (t : ExpertTask) (k : Core) (s : State) :
    coreOf (goOn f c t k s) f c = k.takeEvents t (endsAt s.frond f c k.main.pc) := by simp [goOn]
@[simp] theorem Core.retire_instrs (k : Core) (b : Bank) (n : Nat) : (k.retire b n).instrs = k.instrs + n := rfl
@[simp] theorem Core.retire_run (k : Core) (b : Bank) (n : Nat) : (k.retire b n).run = k.run := rfl
@[simp] theorem Core.retire_flags (k : Core) (b : Bank) (n : Nat) : (k.retire b n).flags = k.flags := rfl
@[simp] theorem Core.retire_queue (k : Core) (b : Bank) (n : Nat) : (k.retire b n).queue = k.queue := rfl

/-- A saturated accumulator value in the words of Safety, and whether AV is set. -/
theorem satAcc_eq (v : Int) : satAcc v = (acc56 v, decide ((acc56 v).toInt ≠ v)) := by
  unfold satAcc acc56 Fx.sat Fx.clamp
  have h : (if v < -(2 ^ (56 - 1)) then -(2 ^ (56 - 1)) else if (2 : Int) ^ (56 - 1) - 1 < v then 2 ^ (56 - 1) - 1 else v)
      = max (-(2 ^ 55)) (min (2 ^ 55 - 1) v) := by norm_num; omega
  simp only [h]
  have hb : (BitVec.ofInt 56 (max (-(2 ^ 55)) (min (2 ^ 55 - 1) v))).toInt = max (-(2 ^ 55)) (min (2 ^ 55 - 1) v) := by
    rw [BitVec.toInt_ofInt]
    apply Int.bmod_eq_of_le_mul_two <;> (norm_num; omega)
  rw [hb]
  congr 1
  rw [Bool.eq_iff_iff]; simp

theorem zneOf_eq (w : W56) : zneOf w = zne w := by
  unfold zneOf zne Fx.b2n
  have hm : w.msb = decide (w.toInt < 0) := by rw [BitVec.msb_eq_toInt]
  rw [hm]
  have hz : (w == 0) = decide (w = 0) := by rw [Bool.eq_iff_iff]; simp
  rw [hz]
  have he : (!(decide (-(2 ^ 47) ≤ w.toInt) && decide (w.toInt < 2 ^ 47))) = decide (w.toInt < -(2 ^ 47) ∨ 2 ^ 47 ≤ w.toInt) := by
    rw [Bool.eq_iff_iff]; simp [not_le]
  rw [he]
  have hb : ∀ (P : Prop) [Decidable P], (if decide P = true then 1 else 0) = if P then 1 else 0 := by
    intro P _; by_cases h : P <;> simp [h]
  simp only [hb]
  split <;> split <;> split <;> rfl

theorem Bank.opResult_eq (b : Bank) (i : Nat) (v : Int) : b.opResult i v =
    if (acc56 v).toInt ≠ v then ((b.putOp i (acc56 v)).swLater 7 (zne (acc56 v))).swLater 0 0x20
    else (b.putOp i (acc56 v)).swLater 7 (zne (acc56 v)) := by
  unfold Bank.opResult
  rw [satAcc_eq]
  simp only [zneOf_eq]
  by_cases h : (acc56 v).toInt ≠ v <;> simp [h]

@[simp] theorem Bank.opResult_pend (b : Bank) (i : Nat) (v : Int) : (b.opResult i v).pend =
    b.pend ++ [{ target := .acc i, value := (acc56 v).toNat, issued := b.time, fastAt := b.time + 1, slowAt := b.time + 2 }] := by
  rw [Bank.opResult_eq]; split <;> rfl
@[simp] theorem Bank.opResult_time (b : Bank) (i : Nat) (v : Int) : (b.opResult i v).time = b.time := by
  rw [Bank.opResult_eq]; split <;> rfl
@[simp] theorem Bank.opResult_data (b : Bank) (i : Nat) (v : Int) : (b.opResult i v).data = b.data := by
  rw [Bank.opResult_eq]; split <;> rfl
@[simp] theorem Bank.opResult_acc (b : Bank) (i : Nat) (v : Int) : (b.opResult i v).acc = b.acc := by
  rw [Bank.opResult_eq]; split <;> rfl

/-- The flags that a result leaves behind what was in flight. -/
theorem Bank.opResult_swPend (b : Bank) (i : Nat) (v : Int) : ∃ av, (b.opResult i v).swPend =
    b.swPend ++ { clr := 7, set := zne (acc56 v), at_ := b.time + 2 } :: av ∧
    ((acc56 v).toInt ≠ v → { clr := 0, set := 0x20, at_ := b.time + 2 } ∈ av) := by
  rw [Bank.opResult_eq]
  split
  · exact ⟨[{ clr := 0, set := 0x20, at_ := b.time + 2 }], by simp, by simp⟩
  · rename_i h; exact ⟨[], by simp, fun h' => absurd h' h⟩

/-! ### Moves -/

theorem moveLoads_pend (m : Move) (rd : Nat → W24) (b0 b : Bank) : ∃ l, (moveLoads m rd b0 b).pend = b.pend ++ l ∧
    (moveLoads m rd b0 b).swPend = b.swPend ∧ (moveLoads m rd b0 b).time = b.time := by
  unfold moveLoads
  dsimp only
  split <;> first | exact ⟨_, rfl, rfl, rfl⟩ | exact ⟨[], by simp, rfl, rfl⟩

/-- The moves of an instruction add their loads behind what is in flight, and may set SS. -/
theorem moves_adds (rdx rdy : Nat → W24) (x y : Move) (b0 b : Bank) : ∃ l w, (moves rdx rdy x y b0 b).1.pend = b.pend ++ l ∧
    (moves rdx rdy x y b0 b).1.swPend = b.swPend ++ w ∧ (moves rdx rdy x y b0 b).1.time = b.time := by
  unfold moves
  dsimp only
  obtain ⟨lx, hx⟩ : ∃ l, (if x.kind = 0 then b else moveLoads x rdx b0 b).pend = b.pend ++ l ∧
      (if x.kind = 0 then b else moveLoads x rdx b0 b).swPend = b.swPend ∧
      (if x.kind = 0 then b else moveLoads x rdx b0 b).time = b.time := by
    split
    · exact ⟨[], by simp, rfl, rfl⟩
    · exact moveLoads_pend x rdx b0 b
  generalize (if x.kind = 0 then b else moveLoads x rdx b0 b) = bx at hx ⊢
  obtain ⟨ly, hy⟩ : ∃ l, (if y.kind = 0 then bx else moveLoads y rdy b0 bx).pend = bx.pend ++ l ∧
      (if y.kind = 0 then bx else moveLoads y rdy b0 bx).swPend = bx.swPend ∧
      (if y.kind = 0 then bx else moveLoads y rdy b0 bx).time = bx.time := by
    split
    · exact ⟨[], by simp, rfl, rfl⟩
    · exact moveLoads_pend y rdy b0 bx
  generalize (if y.kind = 0 then bx else moveLoads y rdy b0 bx) = byy at hy ⊢
  obtain ⟨hx1, hx2, hx3⟩ := hx
  obtain ⟨hy1, hy2, hy3⟩ := hy
  generalize ((if x.kind = 0 then ([], false) else moveStores x b0).2 ||
    (if y.kind = 0 then ([], false) else moveStores y b0).2) = ss
  cases ss with
  | true =>
    refine ⟨lx ++ ly, [{ clr := 0, set := 0x10, at_ := b.time + 2 }], ?_, ?_, ?_⟩
    · show byy.pend = _; simp [hy1, hx1]
    · show byy.swPend ++ [{ clr := 0, set := 0x10, at_ := byy.time + 2 }] = _; simp [hy2, hx2, hy3, hx3]
    · show byy.time = _; simp [hy3, hx3]
  | false =>
    refine ⟨lx ++ ly, [], ?_, ?_, ?_⟩
    · show byy.pend = _; simp [hy1, hx1]
    · show byy.swPend = _; simp [hy2, hx2]
    · show byy.time = _; simp [hy3, hx3]

/-! ### The fetch -/

/-- Results that land change no address. -/
theorem Bank.settle_pc (b : Bank) : b.settle.pc = b.pc := by
  unfold Bank.settle
  have hl : ∀ (l : List Pend) (b : Bank), (l.foldl Bank.land b).pc = b.pc := by
    intro l
    induction l with
    | nil => intro b; rfl
    | cons w l ih => intro b; rw [List.foldl_cons, ih]; unfold Bank.land; split <;> rfl
  have hs : ∀ (l : List SwPend) (b : Bank), (l.foldl (fun (b : Bank) p =>
      { b with sw := (b.sw &&& ~~~(BitVec.ofNat 24 p.clr)) ||| BitVec.ofNat 24 p.set }) b).pc = b.pc := by
    intro l
    induction l with
    | nil => intro b; rfl
    | cons w l ih => intro b; rw [List.foldl_cons, ih]
  have hd : b.dropReplaced.pc = b.pc := by unfold Bank.dropReplaced; rfl
  simp only [hs, hl, hd]

/-- Where the word at the core's address spells the instruction, it executes; elsewhere in the image's code an illegal word
stops the run and another instruction leaves everything as it is; outside it the run is stopped. -/
theorem atWord_running {s : State} {f c p : Nat} {t : ExpertTask} {k : Core} {i : Instr} (go : State → State)
    (h : runningOn s f c = some (p, t, k)) :
    atWord f c i go s =
      if inRun k.main.pc t.codeLo t.codeLen = false then stopRun f p K.taskBounds s
      else if frondFetch s f c i = true then go s
      else if (decodeFrond f c (wordAt s f c)).isNone then stopRun f p K.taskBounds s
      else s := by
  unfold atWord
  simp only [h]
  cases inRun k.main.pc t.codeLo t.codeLen <;> simp

/-- An instruction that may be issued, and that the word at the core's address spells, executes. -/
theorem atWord_issues {s : State} {f c p : Nat} {t : ExpertTask} {k : Core} {cls : Cls} {waits : Bool} {i : Instr} (go : State → State)
    (h : Issues s f c cls waits p t k) (hf : frondFetch s f c i = true) : atWord f c i go s = go s := by
  obtain ⟨h1, h2⟩ := h
  have h3 : inRun k.main.pc t.codeLo t.codeLen = true := by
    have := h2; unfold mayIssue at this; rw [Bank.settle_pc] at this; revert this; cases inRun k.main.pc t.codeLo t.codeLen <;> simp
  rw [atWord_running go h1]; simp [h3, hf]

/-! ### Instructions that may be issued -/

/-- A parallel instruction that may be issued: its operation, its moves, then the core goes on. -/
theorem parallel_next {s : State} {f c p : Nat} {t : ExpertTask} {k : Core} {x y : Move} {op : Bank → Option Bank} {b1 : Bank}
    (hi : Issues s f c .plain false p t k) (hm : MovesAllowed s t k x y) (ho : op k.main.settle = some b1) :
    coreOf (parallel f c x y op s) f c =
      let b := (moves (fun a => s.frond.read f c false a) (fun a => s.frond.read f c true a) x y k.main.settle b1).1.advance
      (k.retire b 1).takeEvents t (endsAt s.frond f c b.pc) := by
  obtain ⟨h1, h2⟩ := hi
  obtain ⟨h3, h4⟩ := hm
  unfold parallel goOn
  simp [h1, h2, h3, h4, ho]

/-- An instruction on the core alone that may be issued and is legal. -/
theorem issue_next {s : State} {f c p : Nat} {t : ExpertTask} {k k' : Core} {cls : Cls} {waits : Bool}
    {go : ExpertTask → Core → Bank → Option Core}
    (hi : Issues s f c cls waits p t k) (ho : go t k k.main.settle = some k') :
    issue f c cls waits go s = goOn f c t k' s := by
  obtain ⟨h1, h2⟩ := hi
  unfold issue
  simp [h1, h2, ho]

end Sys2Proof.Machine
end

