-- ==== Sys2Proof/Laws/Ops.lean ====
section
/-!
SUPPORT. Laws of the shared operations: interrupts, events, fault records, readiness and the answering of requests change
only the collector, the mailbox, the interrupt copies, mailbox memory, the pair's requests and the outgoing queue; every
other part of the state stands.
-/
namespace Sys2Proof.Machine
open Sys2Proof

/-- The parts of the state that reporting and answering leave alone. -/
structure SameWork (s t : State) : Prop where
  pending : t.pending = s.pending
  clk : t.clk = s.clk
  page : t.page = s.page
  scene : t.scene = s.scene
  route : t.route = s.route
  blk : t.blk = s.blk
  mix : t.mix = s.mix
  frond : t.frond = s.frond
  arb : t.arb = s.arb
  commit : t.commit = s.commit
  port : t.port = s.port
  net : t.net = s.net
  time : t.time = s.time
  peat : t.peat = s.peat
  supv : t.supv = s.supv

theorem SameWork.refl (s : State) : SameWork s s := by constructor <;> rfl

theorem SameWork.trans {s t u : State} (h : SameWork s t) (h' : SameWork t u) : SameWork s u := by
  constructor
  · rw [h'.pending, h.pending]
  · rw [h'.clk, h.clk]
  · rw [h'.page, h.page]
  · rw [h'.scene, h.scene]
  · rw [h'.route, h.route]
  · rw [h'.blk, h.blk]
  · rw [h'.mix, h.mix]
  · rw [h'.frond, h.frond]
  · rw [h'.arb, h.arb]
  · rw [h'.commit, h.commit]
  · rw [h'.port, h.port]
  · rw [h'.net, h.net]
  · rw [h'.time, h.time]
  · rw [h'.peat, h.peat]
  · rw [h'.supv, h.supv]

theorem SameWork.ite {s : State} {c : Prop} [Decidable c] {a b : State} (ha : SameWork s a) (hb : SameWork s b) :
    SameWork s (if c then a else b) := by split <;> assumption

theorem SameWork.foldl {α : Type} {s : State} {f : State → α → State} (h : ∀ s a, SameWork s (f s a)) (l : List α) :
    SameWork s (l.foldl f s) := by
  induction l generalizing s with
  | nil => exact SameWork.refl s
  | cons a l ih => exact (h s a).trans ih

theorem raiseInt_same (n : Nat) (s : State) : SameWork s (raiseInt n s) := by
  unfold raiseInt
  dsimp only
  (repeat' split) <;> (constructor <;> rfl)

theorem sendSession_same (id kind : Nat) (msg : List Byte) (s : State) : SameWork s (sendSession id kind msg s) := by
  unfold sendSession sendSeril
  dsimp only
  (repeat' split) <;> (constructor <;> rfl)

theorem eventInt_same  (s : State) : SameWork s (eventInt s) := by
  unfold eventInt
  dsimp only
  generalize (match s.mbx.evIntAt with | none => true | some t => decide (usTicks 100 ≤ s.clk.raw - t)) = ok
  refine SameWork.ite ?_ ?_
  · refine SameWork.trans ?_ (raiseInt_same 8 _)
    constructor <;> rfl
  · constructor <;> rfl

theorem postEvent_same (code : Nat) (client : Option Nat) (related : Nat) (data : List Byte) (s : State) : SameWork s (postEvent code client related data s) := by
  unfold postEvent
  dsimp only
  split
  · exact SameWork.refl s
  · refine SameWork.trans ?_ (SameWork.foldl (fun s id => sendSession_same id 3 _ s) _)
    refine SameWork.trans ?_ (eventInt_same _)
    constructor <;> rfl

theorem drawFree_same (bits : Nat) (s : State) : SameWork s ((drawFree bits s).2) := by
  constructor <;> rfl

theorem scheduleRepair_same (m : Nat) (s : State) : SameWork s (scheduleRepair m s) := by
  unfold scheduleRepair
  dsimp only
  (repeat' split) <;> (constructor <;> rfl)

theorem reclassifyAt_same (key : Nat) (mem : Option Nat) (r : Record) (s : State) : SameWork s ((reclassifyAt key mem r s).2) := by
  unfold reclassifyAt
  dsimp only
  split
  · exact SameWork.refl s
  · split
    · exact SameWork.refl s
    · split
      · dsimp only
        split
        · refine SameWork.trans ?_ (scheduleRepair_same _ _)
          constructor <;> rfl
        · constructor <;> rfl
      · constructor <;> rfl

theorem recordOf_same (source kind sev count index detail : Nat) (s : State) : SameWork s ((recordOf source kind sev count index detail s).2) := by
  unfold recordOf
  dsimp only
  split <;> split <;> (constructor <;> rfl)

theorem logRecord_same (r : Record) (s : State) : SameWork s ((logRecord r s).2) := by
  constructor <;> rfl

theorem persistRecord_same (r : Record) (s : State) : SameWork s (persistRecord r s) := by
  constructor <;> rfl

theorem logWithLoss_same (r : Record) (s : State) : SameWork s (logWithLoss r s) := by
  unfold logWithLoss
  dsimp only
  have h : SameWork s (if 2 ≤ r.sev then persistRecord r (logRecord r s).2 else (logRecord r s).2) :=
    SameWork.ite ((logRecord_same r s).trans (persistRecord_same r _)) (logRecord_same r s)
  generalize (if 2 ≤ r.sev then persistRecord r (logRecord r s).2 else (logRecord r s).2) = u at h ⊢
  generalize ((logRecord r s).1 && (match u.flt.lostAt with | none => true | some t => decide (msTicks 1000 ≤ u.clk.raw - t))) = due
  refine SameWork.ite ?_ h
  have k : SameWork s (recordOf Src.collector K.logLost 1 (min 255 u.flt.lostNew) 0 0
      { u with flt := { u.flt with lostAt := some u.clk.raw, lostNew := 0 } }).2 :=
    SameWork.trans (h.trans (by constructor <;> rfl)) (recordOf_same _ _ _ _ _ _ _)
  exact SameWork.ite (k.trans (logRecord_same _ _)) k

theorem holdPin_same (r : Record) (s : State) : SameWork s (holdPin r s) := by
  unfold holdPin
  dsimp only
  (repeat' split) <;> (constructor <;> rfl)

theorem logAndInterrupt_same (acts : Nat) (r : Record) (s : State) : SameWork s (logAndInterrupt acts r s) := by
  unfold logAndInterrupt
  dsimp only
  have k := holdPin_same r s
  have h : SameWork s (if Fx.bit acts Act.log = true then logWithLoss r (holdPin r s) else holdPin r s) :=
    SameWork.ite (k.trans (logWithLoss_same r _)) k
  split
  · exact h.trans ((raiseInt_same 9 _).trans (postEvent_same _ _ _ _ _))
  · exact h

theorem alterEntry_same (k : Nat) (f : FaultEntry → FaultEntry) (s : State) : SameWork s (alterEntry k f s) := by
  unfold alterEntry
  dsimp only
  (repeat' split) <;> (constructor <;> rfl)

theorem requestSwitch_same  (s : State) : SameWork s ((requestSwitch s).2) := by
  unfold requestSwitch
  dsimp only
  (repeat' split) <;> (constructor <;> rfl)

theorem startReset_same (src : Nat) (s : State) : SameWork s (startReset src s) := by
  unfold startReset
  dsimp only
  (repeat' split) <;> (constructor <;> rfl)

theorem applyReactions_same (acts : Nat) (r : Record) (s : State) : SameWork s (applyReactions acts r s) := by
  unfold applyReactions
  dsimp only
  have h1 : SameWork s (if Fx.bit acts Act.switch = true then requestSwitch s else (false, s)).2 := by
    split
    · exact requestSwitch_same s
    · exact SameWork.refl s
  generalize (if Fx.bit acts Act.switch = true then requestSwitch s else (false, s)) = q at h1 ⊢
  have h2 : SameWork s (if Fx.bit acts Act.safe = true then
      alterEntry (faultKey r.source r.kind) (fun e => if q.1 = true then { e with safeWait := true } else { e with safe := true }) q.2
      else q.2) := SameWork.ite (h1.trans (alterEntry_same _ _ _)) h1
  split
  · refine SameWork.trans ?_ (startReset_same _ _)
    exact SameWork.ite (h2.trans (alterEntry_same _ _ _)) h2
  · exact h2

theorem tableFull_same (sev : Nat) (s : State) : SameWork s (tableFull sev s) := by
  unfold tableFull
  dsimp only
  generalize (match s.flt.full with | some v => max v sev | none => sev) = now
  refine SameWork.ite (SameWork.refl s) ?_
  have h : ∀ u : State, SameWork s u → ∀ (acts : Nat) (r : Record), SameWork s (logAndInterrupt acts r u) :=
    fun u hu acts r => hu.trans (logAndInterrupt_same acts r u)
  refine SameWork.ite ((h _ ?_ _ _).trans (requestSwitch_same _)) (h _ ?_ _ _) <;>
    exact (recordOf_same Src.collector K.faultTableFull now 1 0 0 s).trans (by constructor <;> rfl)

theorem tableRoom_same  (s : State) : SameWork s (tableRoom s) := by
  unfold tableRoom
  dsimp only
  split
  · split
    · refine SameWork.trans ?_ (logAndInterrupt_same _ _ _)
      constructor <;> rfl
    · exact SameWork.refl s
  · exact SameWork.refl s

theorem clearEntry_same (k : Nat) (s : State) : SameWork s (clearEntry k s) := by
  unfold clearEntry
  refine SameWork.trans ?_ (tableRoom_same _)
  constructor <;> rfl

theorem noteDetection_same (r : Record) (s : State) : SameWork s (noteDetection r s) := by
  unfold noteDetection
  dsimp only
  (repeat' split) <;> (constructor <;> rfl)

theorem enterRecord_same (r : Record) (s : State) : SameWork s ((enterRecord r s).getD s) := by
  unfold enterRecord
  dsimp only
  (repeat' split) <;> (constructor <;> rfl)

theorem collectAt_same (key : Nat) (mem : Option Nat) (r : Record) (s : State) : SameWork s (collectAt key mem r s) := by
  unfold collectAt
  dsimp only
  have h1 := (reclassifyAt_same key mem r s).trans (noteDetection_same (reclassifyAt key mem r s).1 (reclassifyAt key mem r s).2)
  generalize noteDetection (reclassifyAt key mem r s).1 (reclassifyAt key mem r s).2 = n at h1 ⊢
  generalize (reclassifyAt key mem r s).1 = q
  split
  · exact h1.trans ((logAndInterrupt_same _ _ _).trans (clearEntry_same _ _))
  · have h2 := h1.trans (logAndInterrupt_same (actionsOf n q.kind q.sev) q n)
    generalize logAndInterrupt (actionsOf n q.kind q.sev) q n = m at h2 ⊢
    have h3 : SameWork s (if 2 ≤ q.sev then { m with flt := { m.flt with latest := q } } else m) :=
      SameWork.ite (h2.trans (by constructor <;> rfl)) h2
    generalize (if 2 ≤ q.sev then { m with flt := { m.flt with latest := q } } else m) = m2 at h3 ⊢
    have h4 : SameWork s (if 3 ≤ q.sev then { m2 with flt := { m2.flt with gasp := ({ rcd := q, wraps := m2.clk.wraps, seq := m2.flt.seq } :: m2.flt.gasp).take 16 } } else m2) :=
      SameWork.ite (h3.trans (by constructor <;> rfl)) h3
    generalize (if 3 ≤ q.sev then { m2 with flt := { m2.flt with gasp := ({ rcd := q, wraps := m2.clk.wraps, seq := m2.flt.seq } :: m2.flt.gasp).take 16 } } else m2) = m3 at h4 ⊢
    split
    · split
      · rename_i u hu
        have h5 := enterRecord_same q m3
        rw [hu] at h5
        exact (h4.trans h5).trans (applyReactions_same _ _ _)
      · exact (h4.trans (tableFull_same _ _)).trans (applyReactions_same _ _ _)
    · exact h4.trans (applyReactions_same _ _ _)

theorem collect_same (r : Record) (s : State) : SameWork s (collect r s) := by
  exact collectAt_same _ _ r s

theorem report_same (source kind sev index detail : Nat) (s : State) : SameWork s (report source kind sev index detail s) := by
  unfold report
  dsimp only
  exact (recordOf_same _ _ _ _ _ _ s).trans (collect_same _ _)

theorem reportLimited_same (source kind sev index detail : Nat) (s : State) : SameWork s (reportLimited source kind sev index detail s) := by
  unfold reportLimited
  dsimp only
  split
  · refine SameWork.trans ?_ (collect_same _ _)
    refine SameWork.trans ?_ (recordOf_same _ _ _ _ _ _ _)
    constructor <;> rfl
  · constructor <;> rfl

theorem endCondition_same (source kind sev : Nat) (s : State) : SameWork s (endCondition source kind sev s) := by
  unfold endCondition
  dsimp only
  split
  · exact collect_same _ _
  · exact (recordOf_same _ _ _ _ _ _ s).trans (collect_same _ _)

theorem setReady_same (f : Nat) (on : Bool) (s : State) : SameWork s (setReady f on s) := by
  unfold setReady
  dsimp only
  split
  · exact SameWork.refl s
  · refine SameWork.trans ?_ (postEvent_same _ _ _ _ _)
    unfold countTrial
    split <;> (constructor <;> rfl)

theorem putSlot_same (c : Nat) (sl : Slot) (s : State) : SameWork s (putSlot c sl s) := by
  constructor <;> rfl

theorem ringWrite_same (c : Nat) (msg : List Byte) (s : State) : SameWork s (ringWrite c msg s) := by
  unfold ringWrite
  dsimp only
  refine SameWork.trans ?_ (raiseInt_same _ _)
  constructor <;> rfl

theorem sendResponse_same (c : Nat) (msg : List Byte) (s : State) : SameWork s (sendResponse c msg s) := by
  unfold sendResponse
  split
  · exact SameWork.refl s
  · split
    · split
      · exact sendSession_same _ _ _ _
      · exact SameWork.refl s
    · exact ringWrite_same _ _ _

theorem writeRef_same (c : Nat) (r : DataRef) (bs : List Byte) (s : State) : SameWork s (writeRef c r bs s) := by
  unfold writeRef
  dsimp only
  (repeat' split) <;> (constructor <;> rfl)

theorem cacheResponse_same (c seq : Nat) (msg : List Byte) (s : State) : SameWork s (cacheResponse c seq msg s) := by
  constructor <;> rfl

theorem hold_same (c seq : Nat) (bs : List Byte) (s : State) : SameWork s (hold c seq bs s) := by
  constructor <;> rfl

theorem finish_same (c seq : Nat) (s : State) : SameWork s (finish c seq s) := by
  constructor <;> rfl

theorem putRef_same (c : Nat) (ref : Option DataRef) (bs : List Byte) (s : State) : SameWork s (putRef c ref bs s) := by
  unfold putRef
  split
  · exact SameWork.ite (SameWork.refl s) (writeRef_same _ _ _ s)
  · exact SameWork.refl s

theorem respond_same (c seq code flags : Nat) (payload : List Byte) (s : State) : SameWork s (respond c seq code flags payload s) := by
  exact (cacheResponse_same _ _ _ s).trans (sendResponse_same _ _ _)

theorem answer_same (c seq code flags : Nat) (r : Reply) (s : State) : SameWork s (answer c seq code flags r s) := by
  unfold answer
  dsimp only
  refine SameWork.ite (SameWork.refl s) ?_
  refine SameWork.ite ((finish_same c seq s).trans (respond_same _ _ _ _ _ _)) ?_
  refine SameWork.ite ?_ ?_
  · exact (((finish_same c seq s).trans (putRef_same _ _ _ _)).trans (hold_same _ _ _ _)).trans (respond_same _ _ _ _ _ _)
  · exact ((finish_same c seq s).trans (putRef_same _ _ _ _)).trans (respond_same _ _ _ _ _ _)

theorem enterHistory_same (r : Req) (code : Nat) (s : State) : SameWork s (enterHistory r code s) := by
  constructor <;> rfl

theorem postProgress_same (c seq code : Nat) (s : State) : SameWork s (postProgress c seq code s) := by
  unfold postProgress
  dsimp only
  exact (drawFree_same 16 s).trans (postEvent_same _ _ _ _ _)

theorem badLength_same  (s : State) : SameWork s (badLength s) := by
  exact reportLimited_same _ _ _ _ _ s

/-! ### The same, field by field -/

@[simp] theorem raiseInt_pending (n : Nat) (s : State) : (raiseInt n s).pending = s.pending := (raiseInt_same n s).pending
@[simp] theorem raiseInt_clk (n : Nat) (s : State) : (raiseInt n s).clk = s.clk := (raiseInt_same n s).clk
@[simp] theorem raiseInt_page (n : Nat) (s : State) : (raiseInt n s).page = s.page := (raiseInt_same n s).page
@[simp] theorem raiseInt_scene (n : Nat) (s : State) : (raiseInt n s).scene = s.scene := (raiseInt_same n s).scene
@[simp] theorem raiseInt_route (n : Nat) (s : State) : (raiseInt n s).route = s.route := (raiseInt_same n s).route
@[simp] theorem raiseInt_blk (n : Nat) (s : State) : (raiseInt n s).blk = s.blk := (raiseInt_same n s).blk
@[simp] theorem raiseInt_mix (n : Nat) (s : State) : (raiseInt n s).mix = s.mix := (raiseInt_same n s).mix
@[simp] theorem raiseInt_frond (n : Nat) (s : State) : (raiseInt n s).frond = s.frond := (raiseInt_same n s).frond
@[simp] theorem raiseInt_arb (n : Nat) (s : State) : (raiseInt n s).arb = s.arb := (raiseInt_same n s).arb
@[simp] theorem raiseInt_commit (n : Nat) (s : State) : (raiseInt n s).commit = s.commit := (raiseInt_same n s).commit
@[simp] theorem raiseInt_port (n : Nat) (s : State) : (raiseInt n s).port = s.port := (raiseInt_same n s).port
@[simp] theorem raiseInt_net (n : Nat) (s : State) : (raiseInt n s).net = s.net := (raiseInt_same n s).net
@[simp] theorem raiseInt_time (n : Nat) (s : State) : (raiseInt n s).time = s.time := (raiseInt_same n s).time
@[simp] theorem raiseInt_peat (n : Nat) (s : State) : (raiseInt n s).peat = s.peat := (raiseInt_same n s).peat
@[simp] theorem raiseInt_supv (n : Nat) (s : State) : (raiseInt n s).supv = s.supv := (raiseInt_same n s).supv

@[simp] theorem sendSession_pending (id kind : Nat) (msg : List Byte) (s : State) : (sendSession id kind msg s).pending = s.pending := (sendSession_same id kind msg s).pending
@[simp] theorem sendSession_clk (id kind : Nat) (msg : List Byte) (s : State) : (sendSession id kind msg s).clk = s.clk := (sendSession_same id kind msg s).clk
@[simp] theorem sendSession_page (id kind : Nat) (msg : List Byte) (s : State) : (sendSession id kind msg s).page = s.page := (sendSession_same id kind msg s).page
@[simp] theorem sendSession_scene (id kind : Nat) (msg : List Byte) (s : State) : (sendSession id kind msg s).scene = s.scene := (sendSession_same id kind msg s).scene
@[simp] theorem sendSession_route (id kind : Nat) (msg : List Byte) (s : State) : (sendSession id kind msg s).route = s.route := (sendSession_same id kind msg s).route
@[simp] theorem sendSession_blk (id kind : Nat) (msg : List Byte) (s : State) : (sendSession id kind msg s).blk = s.blk := (sendSession_same id kind msg s).blk
@[simp] theorem sendSession_mix (id kind : Nat) (msg : List Byte) (s : State) : (sendSession id kind msg s).mix = s.mix := (sendSession_same id kind msg s).mix
@[simp] theorem sendSession_frond (id kind : Nat) (msg : List Byte) (s : State) : (sendSession id kind msg s).frond = s.frond := (sendSession_same id kind msg s).frond
@[simp] theorem sendSession_arb (id kind : Nat) (msg : List Byte) (s : State) : (sendSession id kind msg s).arb = s.arb := (sendSession_same id kind msg s).arb
@[simp] theorem sendSession_commit (id kind : Nat) (msg : List Byte) (s : State) : (sendSession id kind msg s).commit = s.commit := (sendSession_same id kind msg s).commit
@[simp] theorem sendSession_port (id kind : Nat) (msg : List Byte) (s : State) : (sendSession id kind msg s).port = s.port := (sendSession_same id kind msg s).port
@[simp] theorem sendSession_net (id kind : Nat) (msg : List Byte) (s : State) : (sendSession id kind msg s).net = s.net := (sendSession_same id kind msg s).net
@[simp] theorem sendSession_time (id kind : Nat) (msg : List Byte) (s : State) : (sendSession id kind msg s).time = s.time := (sendSession_same id kind msg s).time
@[simp] theorem sendSession_peat (id kind : Nat) (msg : List Byte) (s : State) : (sendSession id kind msg s).peat = s.peat := (sendSession_same id kind msg s).peat
@[simp] theorem sendSession_supv (id kind : Nat) (msg : List Byte) (s : State) : (sendSession id kind msg s).supv = s.supv := (sendSession_same id kind msg s).supv

@[simp] theorem eventInt_pending (s : State) : (eventInt s).pending = s.pending := (eventInt_same s).pending
@[simp] theorem eventInt_clk (s : State) : (eventInt s).clk = s.clk := (eventInt_same s).clk
@[simp] theorem eventInt_page (s : State) : (eventInt s).page = s.page := (eventInt_same s).page
@[simp] theorem eventInt_scene (s : State) : (eventInt s).scene = s.scene := (eventInt_same s).scene
@[simp] theorem eventInt_route (s : State) : (eventInt s).route = s.route := (eventInt_same s).route
@[simp] theorem eventInt_blk (s : State) : (eventInt s).blk = s.blk := (eventInt_same s).blk
@[simp] theorem eventInt_mix (s : State) : (eventInt s).mix = s.mix := (eventInt_same s).mix
@[simp] theorem eventInt_frond (s : State) : (eventInt s).frond = s.frond := (eventInt_same s).frond
@[simp] theorem eventInt_arb (s : State) : (eventInt s).arb = s.arb := (eventInt_same s).arb
@[simp] theorem eventInt_commit (s : State) : (eventInt s).commit = s.commit := (eventInt_same s).commit
@[simp] theorem eventInt_port (s : State) : (eventInt s).port = s.port := (eventInt_same s).port
@[simp] theorem eventInt_net (s : State) : (eventInt s).net = s.net := (eventInt_same s).net
@[simp] theorem eventInt_time (s : State) : (eventInt s).time = s.time := (eventInt_same s).time
@[simp] theorem eventInt_peat (s : State) : (eventInt s).peat = s.peat := (eventInt_same s).peat
@[simp] theorem eventInt_supv (s : State) : (eventInt s).supv = s.supv := (eventInt_same s).supv

@[simp] theorem postEvent_pending (code : Nat) (client : Option Nat) (related : Nat) (data : List Byte) (s : State) : (postEvent code client related data s).pending = s.pending := (postEvent_same code client related data s).pending
@[simp] theorem postEvent_clk (code : Nat) (client : Option Nat) (related : Nat) (data : List Byte) (s : State) : (postEvent code client related data s).clk = s.clk := (postEvent_same code client related data s).clk
@[simp] theorem postEvent_page (code : Nat) (client : Option Nat) (related : Nat) (data : List Byte) (s : State) : (postEvent code client related data s).page = s.page := (postEvent_same code client related data s).page
@[simp] theorem postEvent_scene (code : Nat) (client : Option Nat) (related : Nat) (data : List Byte) (s : State) : (postEvent code client related data s).scene = s.scene := (postEvent_same code client related data s).scene
@[simp] theorem postEvent_route (code : Nat) (client : Option Nat) (related : Nat) (data : List Byte) (s : State) : (postEvent code client related data s).route = s.route := (postEvent_same code client related data s).route
@[simp] theorem postEvent_blk (code : Nat) (client : Option Nat) (related : Nat) (data : List Byte) (s : State) : (postEvent code client related data s).blk = s.blk := (postEvent_same code client related data s).blk
@[simp] theorem postEvent_mix (code : Nat) (client : Option Nat) (related : Nat) (data : List Byte) (s : State) : (postEvent code client related data s).mix = s.mix := (postEvent_same code client related data s).mix
@[simp] theorem postEvent_frond (code : Nat) (client : Option Nat) (related : Nat) (data : List Byte) (s : State) : (postEvent code client related data s).frond = s.frond := (postEvent_same code client related data s).frond
@[simp] theorem postEvent_arb (code : Nat) (client : Option Nat) (related : Nat) (data : List Byte) (s : State) : (postEvent code client related data s).arb = s.arb := (postEvent_same code client related data s).arb
@[simp] theorem postEvent_commit (code : Nat) (client : Option Nat) (related : Nat) (data : List Byte) (s : State) : (postEvent code client related data s).commit = s.commit := (postEvent_same code client related data s).commit
@[simp] theorem postEvent_port (code : Nat) (client : Option Nat) (related : Nat) (data : List Byte) (s : State) : (postEvent code client related data s).port = s.port := (postEvent_same code client related data s).port
@[simp] theorem postEvent_net (code : Nat) (client : Option Nat) (related : Nat) (data : List Byte) (s : State) : (postEvent code client related data s).net = s.net := (postEvent_same code client related data s).net
@[simp] theorem postEvent_time (code : Nat) (client : Option Nat) (related : Nat) (data : List Byte) (s : State) : (postEvent code client related data s).time = s.time := (postEvent_same code client related data s).time
@[simp] theorem postEvent_peat (code : Nat) (client : Option Nat) (related : Nat) (data : List Byte) (s : State) : (postEvent code client related data s).peat = s.peat := (postEvent_same code client related data s).peat
@[simp] theorem postEvent_supv (code : Nat) (client : Option Nat) (related : Nat) (data : List Byte) (s : State) : (postEvent code client related data s).supv = s.supv := (postEvent_same code client related data s).supv

@[simp] theorem clearEntry_pending (k : Nat) (s : State) : (clearEntry k s).pending = s.pending := (clearEntry_same k s).pending
@[simp] theorem clearEntry_clk (k : Nat) (s : State) : (clearEntry k s).clk = s.clk := (clearEntry_same k s).clk
@[simp] theorem clearEntry_page (k : Nat) (s : State) : (clearEntry k s).page = s.page := (clearEntry_same k s).page
@[simp] theorem clearEntry_scene (k : Nat) (s : State) : (clearEntry k s).scene = s.scene := (clearEntry_same k s).scene
@[simp] theorem clearEntry_route (k : Nat) (s : State) : (clearEntry k s).route = s.route := (clearEntry_same k s).route
@[simp] theorem clearEntry_blk (k : Nat) (s : State) : (clearEntry k s).blk = s.blk := (clearEntry_same k s).blk
@[simp] theorem clearEntry_mix (k : Nat) (s : State) : (clearEntry k s).mix = s.mix := (clearEntry_same k s).mix
@[simp] theorem clearEntry_frond (k : Nat) (s : State) : (clearEntry k s).frond = s.frond := (clearEntry_same k s).frond
@[simp] theorem clearEntry_arb (k : Nat) (s : State) : (clearEntry k s).arb = s.arb := (clearEntry_same k s).arb
@[simp] theorem clearEntry_commit (k : Nat) (s : State) : (clearEntry k s).commit = s.commit := (clearEntry_same k s).commit
@[simp] theorem clearEntry_port (k : Nat) (s : State) : (clearEntry k s).port = s.port := (clearEntry_same k s).port
@[simp] theorem clearEntry_net (k : Nat) (s : State) : (clearEntry k s).net = s.net := (clearEntry_same k s).net
@[simp] theorem clearEntry_time (k : Nat) (s : State) : (clearEntry k s).time = s.time := (clearEntry_same k s).time
@[simp] theorem clearEntry_peat (k : Nat) (s : State) : (clearEntry k s).peat = s.peat := (clearEntry_same k s).peat
@[simp] theorem clearEntry_supv (k : Nat) (s : State) : (clearEntry k s).supv = s.supv := (clearEntry_same k s).supv

@[simp] theorem collect_pending (r : Record) (s : State) : (collect r s).pending = s.pending := (collect_same r s).pending
@[simp] theorem collect_clk (r : Record) (s : State) : (collect r s).clk = s.clk := (collect_same r s).clk
@[simp] theorem collect_page (r : Record) (s : State) : (collect r s).page = s.page := (collect_same r s).page
@[simp] theorem collect_scene (r : Record) (s : State) : (collect r s).scene = s.scene := (collect_same r s).scene
@[simp] theorem collect_route (r : Record) (s : State) : (collect r s).route = s.route := (collect_same r s).route
@[simp] theorem collect_blk (r : Record) (s : State) : (collect r s).blk = s.blk := (collect_same r s).blk
@[simp] theorem collect_mix (r : Record) (s : State) : (collect r s).mix = s.mix := (collect_same r s).mix
@[simp] theorem collect_frond (r : Record) (s : State) : (collect r s).frond = s.frond := (collect_same r s).frond
@[simp] theorem collect_arb (r : Record) (s : State) : (collect r s).arb = s.arb := (collect_same r s).arb
@[simp] theorem collect_commit (r : Record) (s : State) : (collect r s).commit = s.commit := (collect_same r s).commit
@[simp] theorem collect_port (r : Record) (s : State) : (collect r s).port = s.port := (collect_same r s).port
@[simp] theorem collect_net (r : Record) (s : State) : (collect r s).net = s.net := (collect_same r s).net
@[simp] theorem collect_time (r : Record) (s : State) : (collect r s).time = s.time := (collect_same r s).time
@[simp] theorem collect_peat (r : Record) (s : State) : (collect r s).peat = s.peat := (collect_same r s).peat
@[simp] theorem collect_supv (r : Record) (s : State) : (collect r s).supv = s.supv := (collect_same r s).supv

@[simp] theorem report_pending (source kind sev index detail : Nat) (s : State) : (report source kind sev index detail s).pending = s.pending := (report_same source kind sev index detail s).pending
@[simp] theorem report_clk (source kind sev index detail : Nat) (s : State) : (report source kind sev index detail s).clk = s.clk := (report_same source kind sev index detail s).clk
@[simp] theorem report_page (source kind sev index detail : Nat) (s : State) : (report source kind sev index detail s).page = s.page := (report_same source kind sev index detail s).page
@[simp] theorem report_scene (source kind sev index detail : Nat) (s : State) : (report source kind sev index detail s).scene = s.scene := (report_same source kind sev index detail s).scene
@[simp] theorem report_route (source kind sev index detail : Nat) (s : State) : (report source kind sev index detail s).route = s.route := (report_same source kind sev index detail s).route
@[simp] theorem report_blk (source kind sev index detail : Nat) (s : State) : (report source kind sev index detail s).blk = s.blk := (report_same source kind sev index detail s).blk
@[simp] theorem report_mix (source kind sev index detail : Nat) (s : State) : (report source kind sev index detail s).mix = s.mix := (report_same source kind sev index detail s).mix
@[simp] theorem report_frond (source kind sev index detail : Nat) (s : State) : (report source kind sev index detail s).frond = s.frond := (report_same source kind sev index detail s).frond
@[simp] theorem report_arb (source kind sev index detail : Nat) (s : State) : (report source kind sev index detail s).arb = s.arb := (report_same source kind sev index detail s).arb
@[simp] theorem report_commit (source kind sev index detail : Nat) (s : State) : (report source kind sev index detail s).commit = s.commit := (report_same source kind sev index detail s).commit
@[simp] theorem report_port (source kind sev index detail : Nat) (s : State) : (report source kind sev index detail s).port = s.port := (report_same source kind sev index detail s).port
@[simp] theorem report_net (source kind sev index detail : Nat) (s : State) : (report source kind sev index detail s).net = s.net := (report_same source kind sev index detail s).net
@[simp] theorem report_time (source kind sev index detail : Nat) (s : State) : (report source kind sev index detail s).time = s.time := (report_same source kind sev index detail s).time
@[simp] theorem report_peat (source kind sev index detail : Nat) (s : State) : (report source kind sev index detail s).peat = s.peat := (report_same source kind sev index detail s).peat
@[simp] theorem report_supv (source kind sev index detail : Nat) (s : State) : (report source kind sev index detail s).supv = s.supv := (report_same source kind sev index detail s).supv

@[simp] theorem reportLimited_pending (source kind sev index detail : Nat) (s : State) : (reportLimited source kind sev index detail s).pending = s.pending := (reportLimited_same source kind sev index detail s).pending
@[simp] theorem reportLimited_clk (source kind sev index detail : Nat) (s : State) : (reportLimited source kind sev index detail s).clk = s.clk := (reportLimited_same source kind sev index detail s).clk
@[simp] theorem reportLimited_page (source kind sev index detail : Nat) (s : State) : (reportLimited source kind sev index detail s).page = s.page := (reportLimited_same source kind sev index detail s).page
@[simp] theorem reportLimited_scene (source kind sev index detail : Nat) (s : State) : (reportLimited source kind sev index detail s).scene = s.scene := (reportLimited_same source kind sev index detail s).scene
@[simp] theorem reportLimited_route (source kind sev index detail : Nat) (s : State) : (reportLimited source kind sev index detail s).route = s.route := (reportLimited_same source kind sev index detail s).route
@[simp] theorem reportLimited_blk (source kind sev index detail : Nat) (s : State) : (reportLimited source kind sev index detail s).blk = s.blk := (reportLimited_same source kind sev index detail s).blk
@[simp] theorem reportLimited_mix (source kind sev index detail : Nat) (s : State) : (reportLimited source kind sev index detail s).mix = s.mix := (reportLimited_same source kind sev index detail s).mix
@[simp] theorem reportLimited_frond (source kind sev index detail : Nat) (s : State) : (reportLimited source kind sev index detail s).frond = s.frond := (reportLimited_same source kind sev index detail s).frond
@[simp] theorem reportLimited_arb (source kind sev index detail : Nat) (s : State) : (reportLimited source kind sev index detail s).arb = s.arb := (reportLimited_same source kind sev index detail s).arb
@[simp] theorem reportLimited_commit (source kind sev index detail : Nat) (s : State) : (reportLimited source kind sev index detail s).commit = s.commit := (reportLimited_same source kind sev index detail s).commit
@[simp] theorem reportLimited_port (source kind sev index detail : Nat) (s : State) : (reportLimited source kind sev index detail s).port = s.port := (reportLimited_same source kind sev index detail s).port
@[simp] theorem reportLimited_net (source kind sev index detail : Nat) (s : State) : (reportLimited source kind sev index detail s).net = s.net := (reportLimited_same source kind sev index detail s).net
@[simp] theorem reportLimited_time (source kind sev index detail : Nat) (s : State) : (reportLimited source kind sev index detail s).time = s.time := (reportLimited_same source kind sev index detail s).time
@[simp] theorem reportLimited_peat (source kind sev index detail : Nat) (s : State) : (reportLimited source kind sev index detail s).peat = s.peat := (reportLimited_same source kind sev index detail s).peat
@[simp] theorem reportLimited_supv (source kind sev index detail : Nat) (s : State) : (reportLimited source kind sev index detail s).supv = s.supv := (reportLimited_same source kind sev index detail s).supv

@[simp] theorem endCondition_pending (source kind sev : Nat) (s : State) : (endCondition source kind sev s).pending = s.pending := (endCondition_same source kind sev s).pending
@[simp] theorem endCondition_clk (source kind sev : Nat) (s : State) : (endCondition source kind sev s).clk = s.clk := (endCondition_same source kind sev s).clk
@[simp] theorem endCondition_page (source kind sev : Nat) (s : State) : (endCondition source kind sev s).page = s.page := (endCondition_same source kind sev s).page
@[simp] theorem endCondition_scene (source kind sev : Nat) (s : State) : (endCondition source kind sev s).scene = s.scene := (endCondition_same source kind sev s).scene
@[simp] theorem endCondition_route (source kind sev : Nat) (s : State) : (endCondition source kind sev s).route = s.route := (endCondition_same source kind sev s).route
@[simp] theorem endCondition_blk (source kind sev : Nat) (s : State) : (endCondition source kind sev s).blk = s.blk := (endCondition_same source kind sev s).blk
@[simp] theorem endCondition_mix (source kind sev : Nat) (s : State) : (endCondition source kind sev s).mix = s.mix := (endCondition_same source kind sev s).mix
@[simp] theorem endCondition_frond (source kind sev : Nat) (s : State) : (endCondition source kind sev s).frond = s.frond := (endCondition_same source kind sev s).frond
@[simp] theorem endCondition_arb (source kind sev : Nat) (s : State) : (endCondition source kind sev s).arb = s.arb := (endCondition_same source kind sev s).arb
@[simp] theorem endCondition_commit (source kind sev : Nat) (s : State) : (endCondition source kind sev s).commit = s.commit := (endCondition_same source kind sev s).commit
@[simp] theorem endCondition_port (source kind sev : Nat) (s : State) : (endCondition source kind sev s).port = s.port := (endCondition_same source kind sev s).port
@[simp] theorem endCondition_net (source kind sev : Nat) (s : State) : (endCondition source kind sev s).net = s.net := (endCondition_same source kind sev s).net
@[simp] theorem endCondition_time (source kind sev : Nat) (s : State) : (endCondition source kind sev s).time = s.time := (endCondition_same source kind sev s).time
@[simp] theorem endCondition_peat (source kind sev : Nat) (s : State) : (endCondition source kind sev s).peat = s.peat := (endCondition_same source kind sev s).peat
@[simp] theorem endCondition_supv (source kind sev : Nat) (s : State) : (endCondition source kind sev s).supv = s.supv := (endCondition_same source kind sev s).supv

@[simp] theorem setReady_pending (f : Nat) (on : Bool) (s : State) : (setReady f on s).pending = s.pending := (setReady_same f on s).pending
@[simp] theorem setReady_clk (f : Nat) (on : Bool) (s : State) : (setReady f on s).clk = s.clk := (setReady_same f on s).clk
@[simp] theorem setReady_page (f : Nat) (on : Bool) (s : State) : (setReady f on s).page = s.page := (setReady_same f on s).page
@[simp] theorem setReady_scene (f : Nat) (on : Bool) (s : State) : (setReady f on s).scene = s.scene := (setReady_same f on s).scene
@[simp] theorem setReady_route (f : Nat) (on : Bool) (s : State) : (setReady f on s).route = s.route := (setReady_same f on s).route
@[simp] theorem setReady_blk (f : Nat) (on : Bool) (s : State) : (setReady f on s).blk = s.blk := (setReady_same f on s).blk
@[simp] theorem setReady_mix (f : Nat) (on : Bool) (s : State) : (setReady f on s).mix = s.mix := (setReady_same f on s).mix
@[simp] theorem setReady_frond (f : Nat) (on : Bool) (s : State) : (setReady f on s).frond = s.frond := (setReady_same f on s).frond
@[simp] theorem setReady_arb (f : Nat) (on : Bool) (s : State) : (setReady f on s).arb = s.arb := (setReady_same f on s).arb
@[simp] theorem setReady_commit (f : Nat) (on : Bool) (s : State) : (setReady f on s).commit = s.commit := (setReady_same f on s).commit
@[simp] theorem setReady_port (f : Nat) (on : Bool) (s : State) : (setReady f on s).port = s.port := (setReady_same f on s).port
@[simp] theorem setReady_net (f : Nat) (on : Bool) (s : State) : (setReady f on s).net = s.net := (setReady_same f on s).net
@[simp] theorem setReady_time (f : Nat) (on : Bool) (s : State) : (setReady f on s).time = s.time := (setReady_same f on s).time
@[simp] theorem setReady_peat (f : Nat) (on : Bool) (s : State) : (setReady f on s).peat = s.peat := (setReady_same f on s).peat
@[simp] theorem setReady_supv (f : Nat) (on : Bool) (s : State) : (setReady f on s).supv = s.supv := (setReady_same f on s).supv

@[simp] theorem putSlot_pending (c : Nat) (sl : Slot) (s : State) : (putSlot c sl s).pending = s.pending := (putSlot_same c sl s).pending
@[simp] theorem putSlot_clk (c : Nat) (sl : Slot) (s : State) : (putSlot c sl s).clk = s.clk := (putSlot_same c sl s).clk
@[simp] theorem putSlot_page (c : Nat) (sl : Slot) (s : State) : (putSlot c sl s).page = s.page := (putSlot_same c sl s).page
@[simp] theorem putSlot_scene (c : Nat) (sl : Slot) (s : State) : (putSlot c sl s).scene = s.scene := (putSlot_same c sl s).scene
@[simp] theorem putSlot_route (c : Nat) (sl : Slot) (s : State) : (putSlot c sl s).route = s.route := (putSlot_same c sl s).route
@[simp] theorem putSlot_blk (c : Nat) (sl : Slot) (s : State) : (putSlot c sl s).blk = s.blk := (putSlot_same c sl s).blk
@[simp] theorem putSlot_mix (c : Nat) (sl : Slot) (s : State) : (putSlot c sl s).mix = s.mix := (putSlot_same c sl s).mix
@[simp] theorem putSlot_frond (c : Nat) (sl : Slot) (s : State) : (putSlot c sl s).frond = s.frond := (putSlot_same c sl s).frond
@[simp] theorem putSlot_arb (c : Nat) (sl : Slot) (s : State) : (putSlot c sl s).arb = s.arb := (putSlot_same c sl s).arb
@[simp] theorem putSlot_commit (c : Nat) (sl : Slot) (s : State) : (putSlot c sl s).commit = s.commit := (putSlot_same c sl s).commit
@[simp] theorem putSlot_port (c : Nat) (sl : Slot) (s : State) : (putSlot c sl s).port = s.port := (putSlot_same c sl s).port
@[simp] theorem putSlot_net (c : Nat) (sl : Slot) (s : State) : (putSlot c sl s).net = s.net := (putSlot_same c sl s).net
@[simp] theorem putSlot_time (c : Nat) (sl : Slot) (s : State) : (putSlot c sl s).time = s.time := (putSlot_same c sl s).time
@[simp] theorem putSlot_peat (c : Nat) (sl : Slot) (s : State) : (putSlot c sl s).peat = s.peat := (putSlot_same c sl s).peat
@[simp] theorem putSlot_supv (c : Nat) (sl : Slot) (s : State) : (putSlot c sl s).supv = s.supv := (putSlot_same c sl s).supv

@[simp] theorem sendResponse_pending (c : Nat) (msg : List Byte) (s : State) : (sendResponse c msg s).pending = s.pending := (sendResponse_same c msg s).pending
@[simp] theorem sendResponse_clk (c : Nat) (msg : List Byte) (s : State) : (sendResponse c msg s).clk = s.clk := (sendResponse_same c msg s).clk
@[simp] theorem sendResponse_page (c : Nat) (msg : List Byte) (s : State) : (sendResponse c msg s).page = s.page := (sendResponse_same c msg s).page
@[simp] theorem sendResponse_scene (c : Nat) (msg : List Byte) (s : State) : (sendResponse c msg s).scene = s.scene := (sendResponse_same c msg s).scene
@[simp] theorem sendResponse_route (c : Nat) (msg : List Byte) (s : State) : (sendResponse c msg s).route = s.route := (sendResponse_same c msg s).route
@[simp] theorem sendResponse_blk (c : Nat) (msg : List Byte) (s : State) : (sendResponse c msg s).blk = s.blk := (sendResponse_same c msg s).blk
@[simp] theorem sendResponse_mix (c : Nat) (msg : List Byte) (s : State) : (sendResponse c msg s).mix = s.mix := (sendResponse_same c msg s).mix
@[simp] theorem sendResponse_frond (c : Nat) (msg : List Byte) (s : State) : (sendResponse c msg s).frond = s.frond := (sendResponse_same c msg s).frond
@[simp] theorem sendResponse_arb (c : Nat) (msg : List Byte) (s : State) : (sendResponse c msg s).arb = s.arb := (sendResponse_same c msg s).arb
@[simp] theorem sendResponse_commit (c : Nat) (msg : List Byte) (s : State) : (sendResponse c msg s).commit = s.commit := (sendResponse_same c msg s).commit
@[simp] theorem sendResponse_port (c : Nat) (msg : List Byte) (s : State) : (sendResponse c msg s).port = s.port := (sendResponse_same c msg s).port
@[simp] theorem sendResponse_net (c : Nat) (msg : List Byte) (s : State) : (sendResponse c msg s).net = s.net := (sendResponse_same c msg s).net
@[simp] theorem sendResponse_time (c : Nat) (msg : List Byte) (s : State) : (sendResponse c msg s).time = s.time := (sendResponse_same c msg s).time
@[simp] theorem sendResponse_peat (c : Nat) (msg : List Byte) (s : State) : (sendResponse c msg s).peat = s.peat := (sendResponse_same c msg s).peat
@[simp] theorem sendResponse_supv (c : Nat) (msg : List Byte) (s : State) : (sendResponse c msg s).supv = s.supv := (sendResponse_same c msg s).supv

@[simp] theorem answer_pending (c seq code flags : Nat) (r : Reply) (s : State) : (answer c seq code flags r s).pending = s.pending := (answer_same c seq code flags r s).pending
@[simp] theorem answer_clk (c seq code flags : Nat) (r : Reply) (s : State) : (answer c seq code flags r s).clk = s.clk := (answer_same c seq code flags r s).clk
@[simp] theorem answer_page (c seq code flags : Nat) (r : Reply) (s : State) : (answer c seq code flags r s).page = s.page := (answer_same c seq code flags r s).page
@[simp] theorem answer_scene (c seq code flags : Nat) (r : Reply) (s : State) : (answer c seq code flags r s).scene = s.scene := (answer_same c seq code flags r s).scene
@[simp] theorem answer_route (c seq code flags : Nat) (r : Reply) (s : State) : (answer c seq code flags r s).route = s.route := (answer_same c seq code flags r s).route
@[simp] theorem answer_blk (c seq code flags : Nat) (r : Reply) (s : State) : (answer c seq code flags r s).blk = s.blk := (answer_same c seq code flags r s).blk
@[simp] theorem answer_mix (c seq code flags : Nat) (r : Reply) (s : State) : (answer c seq code flags r s).mix = s.mix := (answer_same c seq code flags r s).mix
@[simp] theorem answer_frond (c seq code flags : Nat) (r : Reply) (s : State) : (answer c seq code flags r s).frond = s.frond := (answer_same c seq code flags r s).frond
@[simp] theorem answer_arb (c seq code flags : Nat) (r : Reply) (s : State) : (answer c seq code flags r s).arb = s.arb := (answer_same c seq code flags r s).arb
@[simp] theorem answer_commit (c seq code flags : Nat) (r : Reply) (s : State) : (answer c seq code flags r s).commit = s.commit := (answer_same c seq code flags r s).commit
@[simp] theorem answer_port (c seq code flags : Nat) (r : Reply) (s : State) : (answer c seq code flags r s).port = s.port := (answer_same c seq code flags r s).port
@[simp] theorem answer_net (c seq code flags : Nat) (r : Reply) (s : State) : (answer c seq code flags r s).net = s.net := (answer_same c seq code flags r s).net
@[simp] theorem answer_time (c seq code flags : Nat) (r : Reply) (s : State) : (answer c seq code flags r s).time = s.time := (answer_same c seq code flags r s).time
@[simp] theorem answer_peat (c seq code flags : Nat) (r : Reply) (s : State) : (answer c seq code flags r s).peat = s.peat := (answer_same c seq code flags r s).peat
@[simp] theorem answer_supv (c seq code flags : Nat) (r : Reply) (s : State) : (answer c seq code flags r s).supv = s.supv := (answer_same c seq code flags r s).supv

@[simp] theorem enterHistory_pending (r : Req) (code : Nat) (s : State) : (enterHistory r code s).pending = s.pending := (enterHistory_same r code s).pending
@[simp] theorem enterHistory_clk (r : Req) (code : Nat) (s : State) : (enterHistory r code s).clk = s.clk := (enterHistory_same r code s).clk
@[simp] theorem enterHistory_page (r : Req) (code : Nat) (s : State) : (enterHistory r code s).page = s.page := (enterHistory_same r code s).page
@[simp] theorem enterHistory_scene (r : Req) (code : Nat) (s : State) : (enterHistory r code s).scene = s.scene := (enterHistory_same r code s).scene
@[simp] theorem enterHistory_route (r : Req) (code : Nat) (s : State) : (enterHistory r code s).route = s.route := (enterHistory_same r code s).route
@[simp] theorem enterHistory_blk (r : Req) (code : Nat) (s : State) : (enterHistory r code s).blk = s.blk := (enterHistory_same r code s).blk
@[simp] theorem enterHistory_mix (r : Req) (code : Nat) (s : State) : (enterHistory r code s).mix = s.mix := (enterHistory_same r code s).mix
@[simp] theorem enterHistory_frond (r : Req) (code : Nat) (s : State) : (enterHistory r code s).frond = s.frond := (enterHistory_same r code s).frond
@[simp] theorem enterHistory_arb (r : Req) (code : Nat) (s : State) : (enterHistory r code s).arb = s.arb := (enterHistory_same r code s).arb
@[simp] theorem enterHistory_commit (r : Req) (code : Nat) (s : State) : (enterHistory r code s).commit = s.commit := (enterHistory_same r code s).commit
@[simp] theorem enterHistory_port (r : Req) (code : Nat) (s : State) : (enterHistory r code s).port = s.port := (enterHistory_same r code s).port
@[simp] theorem enterHistory_net (r : Req) (code : Nat) (s : State) : (enterHistory r code s).net = s.net := (enterHistory_same r code s).net
@[simp] theorem enterHistory_time (r : Req) (code : Nat) (s : State) : (enterHistory r code s).time = s.time := (enterHistory_same r code s).time
@[simp] theorem enterHistory_peat (r : Req) (code : Nat) (s : State) : (enterHistory r code s).peat = s.peat := (enterHistory_same r code s).peat
@[simp] theorem enterHistory_supv (r : Req) (code : Nat) (s : State) : (enterHistory r code s).supv = s.supv := (enterHistory_same r code s).supv

end Sys2Proof.Machine
end

