-- ==== Sys2Proof/Laws/Seril.lean ====
section
/-!
SUPPORT. Laws of serving requests: a request with nothing in its way runs its command's body, and is answered with what
the body gives unless the answer comes later.
-/
namespace Sys2Proof.Machine
open Sys2Proof

theorem slotOf_putSlot_self (c : Nat) (sl : Slot) (s : State) : slotOf (putSlot c sl s) c = sl := by
  simp [slotOf, putSlot]

theorem slotOf_putSlot_other {c c' : Nat} (h : c' ≠ c) (sl : Slot) (s : State) : slotOf (putSlot c sl s) c' = slotOf s c' := by
  simp [slotOf, putSlot, Tbl.getD_put_other h]

theorem slotOf_enterHistory (r : Req) (code : Nat) (s : State) : slotOf (enterHistory r code s) r.slot =
    { slotOf s r.slot with hist := ({ seq := r.seq, crc := r.crc, code := code } :: (slotOf s r.slot).hist).take 64
                           work := (r.seq, code, r.data) :: (slotOf s r.slot).work } := by
  unfold enterHistory; simp [slotOf_putSlot_self]

@[simp] theorem enterHistory_sys (r : Req) (code : Nat) (s : State) : (enterHistory r code s).sys = s.sys := rfl
@[simp] theorem enterHistory_pair' (r : Req) (code : Nat) (s : State) : (enterHistory r code s).pair = s.pair := rfl
@[simp] theorem enterHistory_flt (r : Req) (code : Nat) (s : State) : (enterHistory r code s).flt = s.flt := rfl
@[simp] theorem enterHistory_int (r : Req) (code : Nat) (s : State) : (enterHistory r code s).int = s.int := rfl
@[simp] theorem enterHistory_mem (r : Req) (code : Nat) (s : State) : (enterHistory r code s).mem = s.mem := rfl
@[simp] theorem enterHistory_pwr (r : Req) (code : Nat) (s : State) : (enterHistory r code s).pwr = s.pwr := rfl
@[simp] theorem enterHistory_out (r : Req) (code : Nat) (s : State) : (enterHistory r code s).out = s.out := rfl
@[simp] theorem enterHistory_free (r : Req) (code : Nat) (s : State) : (enterHistory r code s).free = s.free := rfl
@[simp] theorem enterHistory_isOpen (r : Req) (code : Nat) (s : State) : (enterHistory r code s).mbx.isOpen = s.mbx.isOpen := rfl

/-- A request at work is in progress. -/
theorem atWork_enterHistory (r : Req) (code : Nat) (s : State) : atWork (slotOf (enterHistory r code s) r.slot) r.seq = true := by
  simp [slotOf_enterHistory, atWork]

/-- A request with nothing in its way runs its body. -/
theorem admitted_of_runs {c : Cmd} {r : Req} {body : Body} {s : State} (h : runs c r s = true) :
    admitted c r body (enterHistory r c.code s) = body r (enterHistory r c.code s) := by
  simp only [runs, Bool.and_eq_true, Bool.not_eq_true', decide_eq_true_eq, Option.isNone_iff_eq_none] at h
  obtain ⟨⟨⟨⟨⟨⟨⟨⟨⟨h1, h2⟩, h3⟩, h4⟩, h5⟩, h6⟩, h7⟩, h8⟩, h9⟩, h10⟩ := h
  unfold admitted
  dsimp only
  refine (if_neg ?_).trans ((if_neg ?_).trans ((if_neg ?_).trans ((if_neg ?_).trans ((if_neg ?_).trans ?_))))
  · rw [slotOf_enterHistory]
    cases hd : r.data with
    | none => simp
    | some d =>
      rw [hd] at h5
      have : refOk (slotOf s r.slot) d = true := h5
      unfold refOk at this ⊢
      simp only [this, Bool.not_true, Bool.false_eq_true, not_false_eq_true]
  · rw [slotOf_enterHistory]
    have : hasRights (slotOf s r.slot) c = true := h6
    unfold hasRights at this ⊢
    simp only [this, Bool.not_true, Bool.false_eq_true, not_false_eq_true]
  · have e : inMaint (enterHistory r c.code s) = inMaint s := rfl
    rw [e]; revert h7; cases c.maint <;> cases inMaint s <;> simp
  · have e : isStandby (enterHistory r c.code s) = isStandby s := rfl
    rw [e]; revert h8; cases c.reach <;> cases isStandby s <;> simp
  · simp [h9]
  · cases hn : c.needs with
    | none => rfl
    | some f =>
      have : isReady (enterHistory r c.code s) f = true := by
        have e : isReady (enterHistory r c.code s) f = isReady s f := rfl
        rw [e]; simpa [hn] using h10
      simp [this]

/-- A request with nothing in its way is answered with what its command's body gives. -/
theorem serve_runs {c : Cmd} {r : Req} {body : Body} {s t : State} {rep : Reply} (h : runs c r s = true)
    (hb : body r (entered c r s) = (t, rep)) (hl : rep.later = false) :
    serve c r body s = .next (answer r.slot r.seq c.code 0 rep t) := by
  have ha := admitted_of_runs (body := body) h
  simp only [runs, Bool.and_eq_true, Bool.not_eq_true', decide_eq_true_eq, Option.isNone_iff_eq_none] at h
  obtain ⟨⟨⟨⟨⟨⟨⟨⟨⟨h1, h2⟩, h3⟩, h4⟩, h5⟩, h6⟩, h7⟩, h8⟩, h9⟩, h10⟩ := h
  unfold serve serveState
  simp only [h1, h2, h4, Bool.not_true, Bool.false_eq_true, if_false, show ¬ (8 ≤ inProgress (slotOf s r.slot)) by omega, decide_false]
  unfold entered at hb
  rw [ha, hb]
  simp [hl]

/-- A request whose answer comes later stays in progress. -/
theorem serve_later {c : Cmd} {r : Req} {body : Body} {s t : State} {rep : Reply} (h : runs c r s = true)
    (hb : body r (entered c r s) = (t, rep)) (hl : rep.later = true) : serve c r body s = .next t := by
  have ha := admitted_of_runs (body := body) h
  simp only [runs, Bool.and_eq_true, Bool.not_eq_true', decide_eq_true_eq, Option.isNone_iff_eq_none] at h
  obtain ⟨⟨⟨⟨⟨⟨⟨⟨⟨h1, h2⟩, h3⟩, h4⟩, h5⟩, h6⟩, h7⟩, h8⟩, h9⟩, h10⟩ := h
  unfold serve serveState
  simp only [h1, h2, h4, Bool.not_true, Bool.false_eq_true, if_false, show ¬ (8 ≤ inProgress (slotOf s r.slot)) by omega, decide_false]
  unfold entered at hb
  rw [ha, hb]
  simp [hl]

end Sys2Proof.Machine
end

