-- ==== Sys2Proof/Laws/State.lean ====
section
/-!
SUPPORT. Laws of the state's updates: each named update leaves every part of the state alone but the one it is made for, and
a part read back after its update is what was put.
-/
namespace Sys2Proof.Machine
open Sys2Proof

/-! ### putZone -/

@[simp] theorem putZone_clk (n : Nat) (z : Zone) (s : State) : (putZone n z s).clk = s.clk := rfl
@[simp] theorem putZone_sys (n : Nat) (z : Zone) (s : State) : (putZone n z s).sys = s.sys := rfl
@[simp] theorem putZone_flt (n : Nat) (z : Zone) (s : State) : (putZone n z s).flt = s.flt := rfl
@[simp] theorem putZone_mbx (n : Nat) (z : Zone) (s : State) : (putZone n z s).mbx = s.mbx := rfl
@[simp] theorem putZone_int (n : Nat) (z : Zone) (s : State) : (putZone n z s).int = s.int := rfl
@[simp] theorem putZone_page (n : Nat) (z : Zone) (s : State) : (putZone n z s).page = s.page := rfl
@[simp] theorem putZone_scene (n : Nat) (z : Zone) (s : State) : (putZone n z s).scene = s.scene := rfl
@[simp] theorem putZone_route (n : Nat) (z : Zone) (s : State) : (putZone n z s).route = s.route := rfl
@[simp] theorem putZone_blk (n : Nat) (z : Zone) (s : State) : (putZone n z s).blk = s.blk := rfl
@[simp] theorem putZone_mix (n : Nat) (z : Zone) (s : State) : (putZone n z s).mix = s.mix := rfl
@[simp] theorem putZone_frond (n : Nat) (z : Zone) (s : State) : (putZone n z s).frond = s.frond := rfl
@[simp] theorem putZone_mem (n : Nat) (z : Zone) (s : State) : (putZone n z s).mem = s.mem := rfl
@[simp] theorem putZone_arb (n : Nat) (z : Zone) (s : State) : (putZone n z s).arb = s.arb := rfl
@[simp] theorem putZone_pair (n : Nat) (z : Zone) (s : State) : (putZone n z s).pair = s.pair := rfl
@[simp] theorem putZone_commit (n : Nat) (z : Zone) (s : State) : (putZone n z s).commit = s.commit := rfl
@[simp] theorem putZone_port (n : Nat) (z : Zone) (s : State) : (putZone n z s).port = s.port := rfl
@[simp] theorem putZone_net (n : Nat) (z : Zone) (s : State) : (putZone n z s).net = s.net := rfl
@[simp] theorem putZone_time (n : Nat) (z : Zone) (s : State) : (putZone n z s).time = s.time := rfl
@[simp] theorem putZone_peat (n : Nat) (z : Zone) (s : State) : (putZone n z s).peat = s.peat := rfl
@[simp] theorem putZone_pwr (n : Nat) (z : Zone) (s : State) : (putZone n z s).pwr = s.pwr := rfl
@[simp] theorem putZone_out (n : Nat) (z : Zone) (s : State) : (putZone n z s).out = s.out := rfl
@[simp] theorem putZone_free (n : Nat) (z : Zone) (s : State) : (putZone n z s).free = s.free := rfl
@[simp] theorem putZone_pending (n : Nat) (z : Zone) (s : State) : (putZone n z s).pending = s.pending := rfl

/-! ### setMark -/

@[simp] theorem setMark_clk (n : Nat) (m : TaskMark) (s : State) : (setMark n m s).clk = s.clk := rfl
@[simp] theorem setMark_sys (n : Nat) (m : TaskMark) (s : State) : (setMark n m s).sys = s.sys := rfl
@[simp] theorem setMark_flt (n : Nat) (m : TaskMark) (s : State) : (setMark n m s).flt = s.flt := rfl
@[simp] theorem setMark_mbx (n : Nat) (m : TaskMark) (s : State) : (setMark n m s).mbx = s.mbx := rfl
@[simp] theorem setMark_int (n : Nat) (m : TaskMark) (s : State) : (setMark n m s).int = s.int := rfl
@[simp] theorem setMark_page (n : Nat) (m : TaskMark) (s : State) : (setMark n m s).page = s.page := rfl
@[simp] theorem setMark_scene (n : Nat) (m : TaskMark) (s : State) : (setMark n m s).scene = s.scene := rfl
@[simp] theorem setMark_route (n : Nat) (m : TaskMark) (s : State) : (setMark n m s).route = s.route := rfl
@[simp] theorem setMark_blk (n : Nat) (m : TaskMark) (s : State) : (setMark n m s).blk = s.blk := rfl
@[simp] theorem setMark_mix (n : Nat) (m : TaskMark) (s : State) : (setMark n m s).mix = s.mix := rfl
@[simp] theorem setMark_mem (n : Nat) (m : TaskMark) (s : State) : (setMark n m s).mem = s.mem := rfl
@[simp] theorem setMark_arb (n : Nat) (m : TaskMark) (s : State) : (setMark n m s).arb = s.arb := rfl
@[simp] theorem setMark_pair (n : Nat) (m : TaskMark) (s : State) : (setMark n m s).pair = s.pair := rfl
@[simp] theorem setMark_commit (n : Nat) (m : TaskMark) (s : State) : (setMark n m s).commit = s.commit := rfl
@[simp] theorem setMark_port (n : Nat) (m : TaskMark) (s : State) : (setMark n m s).port = s.port := rfl
@[simp] theorem setMark_net (n : Nat) (m : TaskMark) (s : State) : (setMark n m s).net = s.net := rfl
@[simp] theorem setMark_time (n : Nat) (m : TaskMark) (s : State) : (setMark n m s).time = s.time := rfl
@[simp] theorem setMark_peat (n : Nat) (m : TaskMark) (s : State) : (setMark n m s).peat = s.peat := rfl
@[simp] theorem setMark_pwr (n : Nat) (m : TaskMark) (s : State) : (setMark n m s).pwr = s.pwr := rfl
@[simp] theorem setMark_supv (n : Nat) (m : TaskMark) (s : State) : (setMark n m s).supv = s.supv := rfl
@[simp] theorem setMark_out (n : Nat) (m : TaskMark) (s : State) : (setMark n m s).out = s.out := rfl
@[simp] theorem setMark_free (n : Nat) (m : TaskMark) (s : State) : (setMark n m s).free = s.free := rfl
@[simp] theorem setMark_pending (n : Nat) (m : TaskMark) (s : State) : (setMark n m s).pending = s.pending := rfl

/-! ### putCore -/

@[simp] theorem putCore_clk (f c : Nat) (k : Core) (s : State) : (putCore f c k s).clk = s.clk := rfl
@[simp] theorem putCore_sys (f c : Nat) (k : Core) (s : State) : (putCore f c k s).sys = s.sys := rfl
@[simp] theorem putCore_flt (f c : Nat) (k : Core) (s : State) : (putCore f c k s).flt = s.flt := rfl
@[simp] theorem putCore_mbx (f c : Nat) (k : Core) (s : State) : (putCore f c k s).mbx = s.mbx := rfl
@[simp] theorem putCore_int (f c : Nat) (k : Core) (s : State) : (putCore f c k s).int = s.int := rfl
@[simp] theorem putCore_page (f c : Nat) (k : Core) (s : State) : (putCore f c k s).page = s.page := rfl
@[simp] theorem putCore_scene (f c : Nat) (k : Core) (s : State) : (putCore f c k s).scene = s.scene := rfl
@[simp] theorem putCore_route (f c : Nat) (k : Core) (s : State) : (putCore f c k s).route = s.route := rfl
@[simp] theorem putCore_blk (f c : Nat) (k : Core) (s : State) : (putCore f c k s).blk = s.blk := rfl
@[simp] theorem putCore_mix (f c : Nat) (k : Core) (s : State) : (putCore f c k s).mix = s.mix := rfl
@[simp] theorem putCore_mem (f c : Nat) (k : Core) (s : State) : (putCore f c k s).mem = s.mem := rfl
@[simp] theorem putCore_arb (f c : Nat) (k : Core) (s : State) : (putCore f c k s).arb = s.arb := rfl
@[simp] theorem putCore_pair (f c : Nat) (k : Core) (s : State) : (putCore f c k s).pair = s.pair := rfl
@[simp] theorem putCore_commit (f c : Nat) (k : Core) (s : State) : (putCore f c k s).commit = s.commit := rfl
@[simp] theorem putCore_port (f c : Nat) (k : Core) (s : State) : (putCore f c k s).port = s.port := rfl
@[simp] theorem putCore_net (f c : Nat) (k : Core) (s : State) : (putCore f c k s).net = s.net := rfl
@[simp] theorem putCore_time (f c : Nat) (k : Core) (s : State) : (putCore f c k s).time = s.time := rfl
@[simp] theorem putCore_peat (f c : Nat) (k : Core) (s : State) : (putCore f c k s).peat = s.peat := rfl
@[simp] theorem putCore_pwr (f c : Nat) (k : Core) (s : State) : (putCore f c k s).pwr = s.pwr := rfl
@[simp] theorem putCore_supv (f c : Nat) (k : Core) (s : State) : (putCore f c k s).supv = s.supv := rfl
@[simp] theorem putCore_out (f c : Nat) (k : Core) (s : State) : (putCore f c k s).out = s.out := rfl
@[simp] theorem putCore_free (f c : Nat) (k : Core) (s : State) : (putCore f c k s).free = s.free := rfl
@[simp] theorem putCore_pending (f c : Nat) (k : Core) (s : State) : (putCore f c k s).pending = s.pending := rfl

/-! ### putSem -/

@[simp] theorem putSem_clk (n : Nat) (x : Sem) (s : State) : (putSem n x s).clk = s.clk := rfl
@[simp] theorem putSem_sys (n : Nat) (x : Sem) (s : State) : (putSem n x s).sys = s.sys := rfl
@[simp] theorem putSem_flt (n : Nat) (x : Sem) (s : State) : (putSem n x s).flt = s.flt := rfl
@[simp] theorem putSem_mbx (n : Nat) (x : Sem) (s : State) : (putSem n x s).mbx = s.mbx := rfl
@[simp] theorem putSem_int (n : Nat) (x : Sem) (s : State) : (putSem n x s).int = s.int := rfl
@[simp] theorem putSem_page (n : Nat) (x : Sem) (s : State) : (putSem n x s).page = s.page := rfl
@[simp] theorem putSem_scene (n : Nat) (x : Sem) (s : State) : (putSem n x s).scene = s.scene := rfl
@[simp] theorem putSem_route (n : Nat) (x : Sem) (s : State) : (putSem n x s).route = s.route := rfl
@[simp] theorem putSem_blk (n : Nat) (x : Sem) (s : State) : (putSem n x s).blk = s.blk := rfl
@[simp] theorem putSem_mix (n : Nat) (x : Sem) (s : State) : (putSem n x s).mix = s.mix := rfl
@[simp] theorem putSem_frond (n : Nat) (x : Sem) (s : State) : (putSem n x s).frond = s.frond := rfl
@[simp] theorem putSem_mem (n : Nat) (x : Sem) (s : State) : (putSem n x s).mem = s.mem := rfl
@[simp] theorem putSem_pair (n : Nat) (x : Sem) (s : State) : (putSem n x s).pair = s.pair := rfl
@[simp] theorem putSem_commit (n : Nat) (x : Sem) (s : State) : (putSem n x s).commit = s.commit := rfl
@[simp] theorem putSem_port (n : Nat) (x : Sem) (s : State) : (putSem n x s).port = s.port := rfl
@[simp] theorem putSem_net (n : Nat) (x : Sem) (s : State) : (putSem n x s).net = s.net := rfl
@[simp] theorem putSem_time (n : Nat) (x : Sem) (s : State) : (putSem n x s).time = s.time := rfl
@[simp] theorem putSem_peat (n : Nat) (x : Sem) (s : State) : (putSem n x s).peat = s.peat := rfl
@[simp] theorem putSem_pwr (n : Nat) (x : Sem) (s : State) : (putSem n x s).pwr = s.pwr := rfl
@[simp] theorem putSem_supv (n : Nat) (x : Sem) (s : State) : (putSem n x s).supv = s.supv := rfl
@[simp] theorem putSem_out (n : Nat) (x : Sem) (s : State) : (putSem n x s).out = s.out := rfl
@[simp] theorem putSem_free (n : Nat) (x : Sem) (s : State) : (putSem n x s).free = s.free := rfl
@[simp] theorem putSem_pending (n : Nat) (x : Sem) (s : State) : (putSem n x s).pending = s.pending := rfl

/-! ### putGroup -/

@[simp] theorem putGroup_clk (g : Nat) (x : Group) (s : State) : (putGroup g x s).clk = s.clk := rfl
@[simp] theorem putGroup_sys (g : Nat) (x : Group) (s : State) : (putGroup g x s).sys = s.sys := rfl
@[simp] theorem putGroup_flt (g : Nat) (x : Group) (s : State) : (putGroup g x s).flt = s.flt := rfl
@[simp] theorem putGroup_mbx (g : Nat) (x : Group) (s : State) : (putGroup g x s).mbx = s.mbx := rfl
@[simp] theorem putGroup_int (g : Nat) (x : Group) (s : State) : (putGroup g x s).int = s.int := rfl
@[simp] theorem putGroup_page (g : Nat) (x : Group) (s : State) : (putGroup g x s).page = s.page := rfl
@[simp] theorem putGroup_scene (g : Nat) (x : Group) (s : State) : (putGroup g x s).scene = s.scene := rfl
@[simp] theorem putGroup_route (g : Nat) (x : Group) (s : State) : (putGroup g x s).route = s.route := rfl
@[simp] theorem putGroup_blk (g : Nat) (x : Group) (s : State) : (putGroup g x s).blk = s.blk := rfl
@[simp] theorem putGroup_mix (g : Nat) (x : Group) (s : State) : (putGroup g x s).mix = s.mix := rfl
@[simp] theorem putGroup_frond (g : Nat) (x : Group) (s : State) : (putGroup g x s).frond = s.frond := rfl
@[simp] theorem putGroup_mem (g : Nat) (x : Group) (s : State) : (putGroup g x s).mem = s.mem := rfl
@[simp] theorem putGroup_pair (g : Nat) (x : Group) (s : State) : (putGroup g x s).pair = s.pair := rfl
@[simp] theorem putGroup_commit (g : Nat) (x : Group) (s : State) : (putGroup g x s).commit = s.commit := rfl
@[simp] theorem putGroup_port (g : Nat) (x : Group) (s : State) : (putGroup g x s).port = s.port := rfl
@[simp] theorem putGroup_net (g : Nat) (x : Group) (s : State) : (putGroup g x s).net = s.net := rfl
@[simp] theorem putGroup_time (g : Nat) (x : Group) (s : State) : (putGroup g x s).time = s.time := rfl
@[simp] theorem putGroup_peat (g : Nat) (x : Group) (s : State) : (putGroup g x s).peat = s.peat := rfl
@[simp] theorem putGroup_pwr (g : Nat) (x : Group) (s : State) : (putGroup g x s).pwr = s.pwr := rfl
@[simp] theorem putGroup_supv (g : Nat) (x : Group) (s : State) : (putGroup g x s).supv = s.supv := rfl
@[simp] theorem putGroup_out (g : Nat) (x : Group) (s : State) : (putGroup g x s).out = s.out := rfl
@[simp] theorem putGroup_free (g : Nat) (x : Group) (s : State) : (putGroup g x s).free = s.free := rfl
@[simp] theorem putGroup_pending (g : Nat) (x : Group) (s : State) : (putGroup g x s).pending = s.pending := rfl

/-! ### putDma -/

@[simp] theorem putDma_clk (c : Nat) (x : Dma) (s : State) : (putDma c x s).clk = s.clk := rfl
@[simp] theorem putDma_sys (c : Nat) (x : Dma) (s : State) : (putDma c x s).sys = s.sys := rfl
@[simp] theorem putDma_flt (c : Nat) (x : Dma) (s : State) : (putDma c x s).flt = s.flt := rfl
@[simp] theorem putDma_mbx (c : Nat) (x : Dma) (s : State) : (putDma c x s).mbx = s.mbx := rfl
@[simp] theorem putDma_int (c : Nat) (x : Dma) (s : State) : (putDma c x s).int = s.int := rfl
@[simp] theorem putDma_page (c : Nat) (x : Dma) (s : State) : (putDma c x s).page = s.page := rfl
@[simp] theorem putDma_scene (c : Nat) (x : Dma) (s : State) : (putDma c x s).scene = s.scene := rfl
@[simp] theorem putDma_route (c : Nat) (x : Dma) (s : State) : (putDma c x s).route = s.route := rfl
@[simp] theorem putDma_blk (c : Nat) (x : Dma) (s : State) : (putDma c x s).blk = s.blk := rfl
@[simp] theorem putDma_mix (c : Nat) (x : Dma) (s : State) : (putDma c x s).mix = s.mix := rfl
@[simp] theorem putDma_frond (c : Nat) (x : Dma) (s : State) : (putDma c x s).frond = s.frond := rfl
@[simp] theorem putDma_mem (c : Nat) (x : Dma) (s : State) : (putDma c x s).mem = s.mem := rfl
@[simp] theorem putDma_pair (c : Nat) (x : Dma) (s : State) : (putDma c x s).pair = s.pair := rfl
@[simp] theorem putDma_commit (c : Nat) (x : Dma) (s : State) : (putDma c x s).commit = s.commit := rfl
@[simp] theorem putDma_port (c : Nat) (x : Dma) (s : State) : (putDma c x s).port = s.port := rfl
@[simp] theorem putDma_net (c : Nat) (x : Dma) (s : State) : (putDma c x s).net = s.net := rfl
@[simp] theorem putDma_time (c : Nat) (x : Dma) (s : State) : (putDma c x s).time = s.time := rfl
@[simp] theorem putDma_peat (c : Nat) (x : Dma) (s : State) : (putDma c x s).peat = s.peat := rfl
@[simp] theorem putDma_pwr (c : Nat) (x : Dma) (s : State) : (putDma c x s).pwr = s.pwr := rfl
@[simp] theorem putDma_supv (c : Nat) (x : Dma) (s : State) : (putDma c x s).supv = s.supv := rfl
@[simp] theorem putDma_out (c : Nat) (x : Dma) (s : State) : (putDma c x s).out = s.out := rfl
@[simp] theorem putDma_free (c : Nat) (x : Dma) (s : State) : (putDma c x s).free = s.free := rfl
@[simp] theorem putDma_pending (c : Nat) (x : Dma) (s : State) : (putDma c x s).pending = s.pending := rfl

/-! ### putBus -/

@[simp] theorem putBus_clk (n : Nat) (b : Bus) (s : State) : (putBus n b s).clk = s.clk := rfl
@[simp] theorem putBus_sys (n : Nat) (b : Bus) (s : State) : (putBus n b s).sys = s.sys := rfl
@[simp] theorem putBus_flt (n : Nat) (b : Bus) (s : State) : (putBus n b s).flt = s.flt := rfl
@[simp] theorem putBus_mbx (n : Nat) (b : Bus) (s : State) : (putBus n b s).mbx = s.mbx := rfl
@[simp] theorem putBus_int (n : Nat) (b : Bus) (s : State) : (putBus n b s).int = s.int := rfl
@[simp] theorem putBus_page (n : Nat) (b : Bus) (s : State) : (putBus n b s).page = s.page := rfl
@[simp] theorem putBus_scene (n : Nat) (b : Bus) (s : State) : (putBus n b s).scene = s.scene := rfl
@[simp] theorem putBus_route (n : Nat) (b : Bus) (s : State) : (putBus n b s).route = s.route := rfl
@[simp] theorem putBus_blk (n : Nat) (b : Bus) (s : State) : (putBus n b s).blk = s.blk := rfl
@[simp] theorem putBus_frond (n : Nat) (b : Bus) (s : State) : (putBus n b s).frond = s.frond := rfl
@[simp] theorem putBus_mem (n : Nat) (b : Bus) (s : State) : (putBus n b s).mem = s.mem := rfl
@[simp] theorem putBus_arb (n : Nat) (b : Bus) (s : State) : (putBus n b s).arb = s.arb := rfl
@[simp] theorem putBus_pair (n : Nat) (b : Bus) (s : State) : (putBus n b s).pair = s.pair := rfl
@[simp] theorem putBus_commit (n : Nat) (b : Bus) (s : State) : (putBus n b s).commit = s.commit := rfl
@[simp] theorem putBus_port (n : Nat) (b : Bus) (s : State) : (putBus n b s).port = s.port := rfl
@[simp] theorem putBus_net (n : Nat) (b : Bus) (s : State) : (putBus n b s).net = s.net := rfl
@[simp] theorem putBus_time (n : Nat) (b : Bus) (s : State) : (putBus n b s).time = s.time := rfl
@[simp] theorem putBus_peat (n : Nat) (b : Bus) (s : State) : (putBus n b s).peat = s.peat := rfl
@[simp] theorem putBus_pwr (n : Nat) (b : Bus) (s : State) : (putBus n b s).pwr = s.pwr := rfl
@[simp] theorem putBus_supv (n : Nat) (b : Bus) (s : State) : (putBus n b s).supv = s.supv := rfl
@[simp] theorem putBus_out (n : Nat) (b : Bus) (s : State) : (putBus n b s).out = s.out := rfl
@[simp] theorem putBus_free (n : Nat) (b : Bus) (s : State) : (putBus n b s).free = s.free := rfl
@[simp] theorem putBus_pending (n : Nat) (b : Bus) (s : State) : (putBus n b s).pending = s.pending := rfl

/-! ### putNet -/

@[simp] theorem putNet_clk (n : Nat) (x : NetPort) (s : State) : (putNet n x s).clk = s.clk := rfl
@[simp] theorem putNet_sys (n : Nat) (x : NetPort) (s : State) : (putNet n x s).sys = s.sys := rfl
@[simp] theorem putNet_flt (n : Nat) (x : NetPort) (s : State) : (putNet n x s).flt = s.flt := rfl
@[simp] theorem putNet_mbx (n : Nat) (x : NetPort) (s : State) : (putNet n x s).mbx = s.mbx := rfl
@[simp] theorem putNet_int (n : Nat) (x : NetPort) (s : State) : (putNet n x s).int = s.int := rfl
@[simp] theorem putNet_page (n : Nat) (x : NetPort) (s : State) : (putNet n x s).page = s.page := rfl
@[simp] theorem putNet_scene (n : Nat) (x : NetPort) (s : State) : (putNet n x s).scene = s.scene := rfl
@[simp] theorem putNet_route (n : Nat) (x : NetPort) (s : State) : (putNet n x s).route = s.route := rfl
@[simp] theorem putNet_blk (n : Nat) (x : NetPort) (s : State) : (putNet n x s).blk = s.blk := rfl
@[simp] theorem putNet_mix (n : Nat) (x : NetPort) (s : State) : (putNet n x s).mix = s.mix := rfl
@[simp] theorem putNet_frond (n : Nat) (x : NetPort) (s : State) : (putNet n x s).frond = s.frond := rfl
@[simp] theorem putNet_mem (n : Nat) (x : NetPort) (s : State) : (putNet n x s).mem = s.mem := rfl
@[simp] theorem putNet_arb (n : Nat) (x : NetPort) (s : State) : (putNet n x s).arb = s.arb := rfl
@[simp] theorem putNet_pair (n : Nat) (x : NetPort) (s : State) : (putNet n x s).pair = s.pair := rfl
@[simp] theorem putNet_commit (n : Nat) (x : NetPort) (s : State) : (putNet n x s).commit = s.commit := rfl
@[simp] theorem putNet_port (n : Nat) (x : NetPort) (s : State) : (putNet n x s).port = s.port := rfl
@[simp] theorem putNet_time (n : Nat) (x : NetPort) (s : State) : (putNet n x s).time = s.time := rfl
@[simp] theorem putNet_peat (n : Nat) (x : NetPort) (s : State) : (putNet n x s).peat = s.peat := rfl
@[simp] theorem putNet_pwr (n : Nat) (x : NetPort) (s : State) : (putNet n x s).pwr = s.pwr := rfl
@[simp] theorem putNet_supv (n : Nat) (x : NetPort) (s : State) : (putNet n x s).supv = s.supv := rfl
@[simp] theorem putNet_out (n : Nat) (x : NetPort) (s : State) : (putNet n x s).out = s.out := rfl
@[simp] theorem putNet_free (n : Nat) (x : NetPort) (s : State) : (putNet n x s).free = s.free := rfl
@[simp] theorem putNet_pending (n : Nat) (x : NetPort) (s : State) : (putNet n x s).pending = s.pending := rfl

/-! ### putRx -/

@[simp] theorem putRx_clk (n : Nat) (x : RxStream) (s : State) : (putRx n x s).clk = s.clk := rfl
@[simp] theorem putRx_sys (n : Nat) (x : RxStream) (s : State) : (putRx n x s).sys = s.sys := rfl
@[simp] theorem putRx_flt (n : Nat) (x : RxStream) (s : State) : (putRx n x s).flt = s.flt := rfl
@[simp] theorem putRx_mbx (n : Nat) (x : RxStream) (s : State) : (putRx n x s).mbx = s.mbx := rfl
@[simp] theorem putRx_int (n : Nat) (x : RxStream) (s : State) : (putRx n x s).int = s.int := rfl
@[simp] theorem putRx_page (n : Nat) (x : RxStream) (s : State) : (putRx n x s).page = s.page := rfl
@[simp] theorem putRx_scene (n : Nat) (x : RxStream) (s : State) : (putRx n x s).scene = s.scene := rfl
@[simp] theorem putRx_route (n : Nat) (x : RxStream) (s : State) : (putRx n x s).route = s.route := rfl
@[simp] theorem putRx_blk (n : Nat) (x : RxStream) (s : State) : (putRx n x s).blk = s.blk := rfl
@[simp] theorem putRx_mix (n : Nat) (x : RxStream) (s : State) : (putRx n x s).mix = s.mix := rfl
@[simp] theorem putRx_frond (n : Nat) (x : RxStream) (s : State) : (putRx n x s).frond = s.frond := rfl
@[simp] theorem putRx_mem (n : Nat) (x : RxStream) (s : State) : (putRx n x s).mem = s.mem := rfl
@[simp] theorem putRx_arb (n : Nat) (x : RxStream) (s : State) : (putRx n x s).arb = s.arb := rfl
@[simp] theorem putRx_pair (n : Nat) (x : RxStream) (s : State) : (putRx n x s).pair = s.pair := rfl
@[simp] theorem putRx_commit (n : Nat) (x : RxStream) (s : State) : (putRx n x s).commit = s.commit := rfl
@[simp] theorem putRx_port (n : Nat) (x : RxStream) (s : State) : (putRx n x s).port = s.port := rfl
@[simp] theorem putRx_time (n : Nat) (x : RxStream) (s : State) : (putRx n x s).time = s.time := rfl
@[simp] theorem putRx_peat (n : Nat) (x : RxStream) (s : State) : (putRx n x s).peat = s.peat := rfl
@[simp] theorem putRx_pwr (n : Nat) (x : RxStream) (s : State) : (putRx n x s).pwr = s.pwr := rfl
@[simp] theorem putRx_supv (n : Nat) (x : RxStream) (s : State) : (putRx n x s).supv = s.supv := rfl
@[simp] theorem putRx_out (n : Nat) (x : RxStream) (s : State) : (putRx n x s).out = s.out := rfl
@[simp] theorem putRx_free (n : Nat) (x : RxStream) (s : State) : (putRx n x s).free = s.free := rfl
@[simp] theorem putRx_pending (n : Nat) (x : RxStream) (s : State) : (putRx n x s).pending = s.pending := rfl

/-! ### setPair -/

@[simp] theorem setPair_clk (f : PairCtl → PairCtl) (s : State) : (setPair f s).clk = s.clk := rfl
@[simp] theorem setPair_sys (f : PairCtl → PairCtl) (s : State) : (setPair f s).sys = s.sys := rfl
@[simp] theorem setPair_flt (f : PairCtl → PairCtl) (s : State) : (setPair f s).flt = s.flt := rfl
@[simp] theorem setPair_mbx (f : PairCtl → PairCtl) (s : State) : (setPair f s).mbx = s.mbx := rfl
@[simp] theorem setPair_int (f : PairCtl → PairCtl) (s : State) : (setPair f s).int = s.int := rfl
@[simp] theorem setPair_page (f : PairCtl → PairCtl) (s : State) : (setPair f s).page = s.page := rfl
@[simp] theorem setPair_scene (f : PairCtl → PairCtl) (s : State) : (setPair f s).scene = s.scene := rfl
@[simp] theorem setPair_route (f : PairCtl → PairCtl) (s : State) : (setPair f s).route = s.route := rfl
@[simp] theorem setPair_blk (f : PairCtl → PairCtl) (s : State) : (setPair f s).blk = s.blk := rfl
@[simp] theorem setPair_mix (f : PairCtl → PairCtl) (s : State) : (setPair f s).mix = s.mix := rfl
@[simp] theorem setPair_frond (f : PairCtl → PairCtl) (s : State) : (setPair f s).frond = s.frond := rfl
@[simp] theorem setPair_mem (f : PairCtl → PairCtl) (s : State) : (setPair f s).mem = s.mem := rfl
@[simp] theorem setPair_arb (f : PairCtl → PairCtl) (s : State) : (setPair f s).arb = s.arb := rfl
@[simp] theorem setPair_commit (f : PairCtl → PairCtl) (s : State) : (setPair f s).commit = s.commit := rfl
@[simp] theorem setPair_port (f : PairCtl → PairCtl) (s : State) : (setPair f s).port = s.port := rfl
@[simp] theorem setPair_net (f : PairCtl → PairCtl) (s : State) : (setPair f s).net = s.net := rfl
@[simp] theorem setPair_time (f : PairCtl → PairCtl) (s : State) : (setPair f s).time = s.time := rfl
@[simp] theorem setPair_peat (f : PairCtl → PairCtl) (s : State) : (setPair f s).peat = s.peat := rfl
@[simp] theorem setPair_pwr (f : PairCtl → PairCtl) (s : State) : (setPair f s).pwr = s.pwr := rfl
@[simp] theorem setPair_supv (f : PairCtl → PairCtl) (s : State) : (setPair f s).supv = s.supv := rfl
@[simp] theorem setPair_out (f : PairCtl → PairCtl) (s : State) : (setPair f s).out = s.out := rfl
@[simp] theorem setPair_free (f : PairCtl → PairCtl) (s : State) : (setPair f s).free = s.free := rfl
@[simp] theorem setPair_pending (f : PairCtl → PairCtl) (s : State) : (setPair f s).pending = s.pending := rfl

/-! ### setLink -/

@[simp] theorem setLink_clk (f : Link → Link) (s : State) : (setLink f s).clk = s.clk := rfl
@[simp] theorem setLink_sys (f : Link → Link) (s : State) : (setLink f s).sys = s.sys := rfl
@[simp] theorem setLink_flt (f : Link → Link) (s : State) : (setLink f s).flt = s.flt := rfl
@[simp] theorem setLink_mbx (f : Link → Link) (s : State) : (setLink f s).mbx = s.mbx := rfl
@[simp] theorem setLink_int (f : Link → Link) (s : State) : (setLink f s).int = s.int := rfl
@[simp] theorem setLink_page (f : Link → Link) (s : State) : (setLink f s).page = s.page := rfl
@[simp] theorem setLink_scene (f : Link → Link) (s : State) : (setLink f s).scene = s.scene := rfl
@[simp] theorem setLink_route (f : Link → Link) (s : State) : (setLink f s).route = s.route := rfl
@[simp] theorem setLink_blk (f : Link → Link) (s : State) : (setLink f s).blk = s.blk := rfl
@[simp] theorem setLink_mix (f : Link → Link) (s : State) : (setLink f s).mix = s.mix := rfl
@[simp] theorem setLink_frond (f : Link → Link) (s : State) : (setLink f s).frond = s.frond := rfl
@[simp] theorem setLink_mem (f : Link → Link) (s : State) : (setLink f s).mem = s.mem := rfl
@[simp] theorem setLink_arb (f : Link → Link) (s : State) : (setLink f s).arb = s.arb := rfl
@[simp] theorem setLink_commit (f : Link → Link) (s : State) : (setLink f s).commit = s.commit := rfl
@[simp] theorem setLink_port (f : Link → Link) (s : State) : (setLink f s).port = s.port := rfl
@[simp] theorem setLink_net (f : Link → Link) (s : State) : (setLink f s).net = s.net := rfl
@[simp] theorem setLink_time (f : Link → Link) (s : State) : (setLink f s).time = s.time := rfl
@[simp] theorem setLink_peat (f : Link → Link) (s : State) : (setLink f s).peat = s.peat := rfl
@[simp] theorem setLink_pwr (f : Link → Link) (s : State) : (setLink f s).pwr = s.pwr := rfl
@[simp] theorem setLink_supv (f : Link → Link) (s : State) : (setLink f s).supv = s.supv := rfl
@[simp] theorem setLink_out (f : Link → Link) (s : State) : (setLink f s).out = s.out := rfl
@[simp] theorem setLink_free (f : Link → Link) (s : State) : (setLink f s).free = s.free := rfl
@[simp] theorem setLink_pending (f : Link → Link) (s : State) : (setLink f s).pending = s.pending := rfl

/-! ### putCtrl -/

@[simp] theorem putCtrl_clk (n : Nat) (x : Ctrl) (s : State) : (putCtrl n x s).clk = s.clk := rfl
@[simp] theorem putCtrl_sys (n : Nat) (x : Ctrl) (s : State) : (putCtrl n x s).sys = s.sys := rfl
@[simp] theorem putCtrl_flt (n : Nat) (x : Ctrl) (s : State) : (putCtrl n x s).flt = s.flt := rfl
@[simp] theorem putCtrl_mbx (n : Nat) (x : Ctrl) (s : State) : (putCtrl n x s).mbx = s.mbx := rfl
@[simp] theorem putCtrl_int (n : Nat) (x : Ctrl) (s : State) : (putCtrl n x s).int = s.int := rfl
@[simp] theorem putCtrl_page (n : Nat) (x : Ctrl) (s : State) : (putCtrl n x s).page = s.page := rfl
@[simp] theorem putCtrl_scene (n : Nat) (x : Ctrl) (s : State) : (putCtrl n x s).scene = s.scene := rfl
@[simp] theorem putCtrl_route (n : Nat) (x : Ctrl) (s : State) : (putCtrl n x s).route = s.route := rfl
@[simp] theorem putCtrl_blk (n : Nat) (x : Ctrl) (s : State) : (putCtrl n x s).blk = s.blk := rfl
@[simp] theorem putCtrl_mix (n : Nat) (x : Ctrl) (s : State) : (putCtrl n x s).mix = s.mix := rfl
@[simp] theorem putCtrl_frond (n : Nat) (x : Ctrl) (s : State) : (putCtrl n x s).frond = s.frond := rfl
@[simp] theorem putCtrl_mem (n : Nat) (x : Ctrl) (s : State) : (putCtrl n x s).mem = s.mem := rfl
@[simp] theorem putCtrl_arb (n : Nat) (x : Ctrl) (s : State) : (putCtrl n x s).arb = s.arb := rfl
@[simp] theorem putCtrl_pair (n : Nat) (x : Ctrl) (s : State) : (putCtrl n x s).pair = s.pair := rfl
@[simp] theorem putCtrl_commit (n : Nat) (x : Ctrl) (s : State) : (putCtrl n x s).commit = s.commit := rfl
@[simp] theorem putCtrl_port (n : Nat) (x : Ctrl) (s : State) : (putCtrl n x s).port = s.port := rfl
@[simp] theorem putCtrl_net (n : Nat) (x : Ctrl) (s : State) : (putCtrl n x s).net = s.net := rfl
@[simp] theorem putCtrl_time (n : Nat) (x : Ctrl) (s : State) : (putCtrl n x s).time = s.time := rfl
@[simp] theorem putCtrl_pwr (n : Nat) (x : Ctrl) (s : State) : (putCtrl n x s).pwr = s.pwr := rfl
@[simp] theorem putCtrl_supv (n : Nat) (x : Ctrl) (s : State) : (putCtrl n x s).supv = s.supv := rfl
@[simp] theorem putCtrl_out (n : Nat) (x : Ctrl) (s : State) : (putCtrl n x s).out = s.out := rfl
@[simp] theorem putCtrl_free (n : Nat) (x : Ctrl) (s : State) : (putCtrl n x s).free = s.free := rfl
@[simp] theorem putCtrl_pending (n : Nat) (x : Ctrl) (s : State) : (putCtrl n x s).pending = s.pending := rfl

/-! ### putWrite -/

@[simp] theorem putWrite_clk (n : Nat) (x : WriteGroup) (s : State) : (putWrite n x s).clk = s.clk := rfl
@[simp] theorem putWrite_sys (n : Nat) (x : WriteGroup) (s : State) : (putWrite n x s).sys = s.sys := rfl
@[simp] theorem putWrite_flt (n : Nat) (x : WriteGroup) (s : State) : (putWrite n x s).flt = s.flt := rfl
@[simp] theorem putWrite_mbx (n : Nat) (x : WriteGroup) (s : State) : (putWrite n x s).mbx = s.mbx := rfl
@[simp] theorem putWrite_int (n : Nat) (x : WriteGroup) (s : State) : (putWrite n x s).int = s.int := rfl
@[simp] theorem putWrite_page (n : Nat) (x : WriteGroup) (s : State) : (putWrite n x s).page = s.page := rfl
@[simp] theorem putWrite_scene (n : Nat) (x : WriteGroup) (s : State) : (putWrite n x s).scene = s.scene := rfl
@[simp] theorem putWrite_route (n : Nat) (x : WriteGroup) (s : State) : (putWrite n x s).route = s.route := rfl
@[simp] theorem putWrite_blk (n : Nat) (x : WriteGroup) (s : State) : (putWrite n x s).blk = s.blk := rfl
@[simp] theorem putWrite_mix (n : Nat) (x : WriteGroup) (s : State) : (putWrite n x s).mix = s.mix := rfl
@[simp] theorem putWrite_frond (n : Nat) (x : WriteGroup) (s : State) : (putWrite n x s).frond = s.frond := rfl
@[simp] theorem putWrite_mem (n : Nat) (x : WriteGroup) (s : State) : (putWrite n x s).mem = s.mem := rfl
@[simp] theorem putWrite_arb (n : Nat) (x : WriteGroup) (s : State) : (putWrite n x s).arb = s.arb := rfl
@[simp] theorem putWrite_pair (n : Nat) (x : WriteGroup) (s : State) : (putWrite n x s).pair = s.pair := rfl
@[simp] theorem putWrite_commit (n : Nat) (x : WriteGroup) (s : State) : (putWrite n x s).commit = s.commit := rfl
@[simp] theorem putWrite_port (n : Nat) (x : WriteGroup) (s : State) : (putWrite n x s).port = s.port := rfl
@[simp] theorem putWrite_net (n : Nat) (x : WriteGroup) (s : State) : (putWrite n x s).net = s.net := rfl
@[simp] theorem putWrite_time (n : Nat) (x : WriteGroup) (s : State) : (putWrite n x s).time = s.time := rfl
@[simp] theorem putWrite_pwr (n : Nat) (x : WriteGroup) (s : State) : (putWrite n x s).pwr = s.pwr := rfl
@[simp] theorem putWrite_supv (n : Nat) (x : WriteGroup) (s : State) : (putWrite n x s).supv = s.supv := rfl
@[simp] theorem putWrite_out (n : Nat) (x : WriteGroup) (s : State) : (putWrite n x s).out = s.out := rfl
@[simp] theorem putWrite_free (n : Nat) (x : WriteGroup) (s : State) : (putWrite n x s).free = s.free := rfl
@[simp] theorem putWrite_pending (n : Nat) (x : WriteGroup) (s : State) : (putWrite n x s).pending = s.pending := rfl

/-! ### putTrack -/

@[simp] theorem putTrack_clk (n : Nat) (x : Track) (s : State) : (putTrack n x s).clk = s.clk := rfl
@[simp] theorem putTrack_sys (n : Nat) (x : Track) (s : State) : (putTrack n x s).sys = s.sys := rfl
@[simp] theorem putTrack_flt (n : Nat) (x : Track) (s : State) : (putTrack n x s).flt = s.flt := rfl
@[simp] theorem putTrack_mbx (n : Nat) (x : Track) (s : State) : (putTrack n x s).mbx = s.mbx := rfl
@[simp] theorem putTrack_int (n : Nat) (x : Track) (s : State) : (putTrack n x s).int = s.int := rfl
@[simp] theorem putTrack_page (n : Nat) (x : Track) (s : State) : (putTrack n x s).page = s.page := rfl
@[simp] theorem putTrack_scene (n : Nat) (x : Track) (s : State) : (putTrack n x s).scene = s.scene := rfl
@[simp] theorem putTrack_route (n : Nat) (x : Track) (s : State) : (putTrack n x s).route = s.route := rfl
@[simp] theorem putTrack_blk (n : Nat) (x : Track) (s : State) : (putTrack n x s).blk = s.blk := rfl
@[simp] theorem putTrack_mix (n : Nat) (x : Track) (s : State) : (putTrack n x s).mix = s.mix := rfl
@[simp] theorem putTrack_frond (n : Nat) (x : Track) (s : State) : (putTrack n x s).frond = s.frond := rfl
@[simp] theorem putTrack_mem (n : Nat) (x : Track) (s : State) : (putTrack n x s).mem = s.mem := rfl
@[simp] theorem putTrack_arb (n : Nat) (x : Track) (s : State) : (putTrack n x s).arb = s.arb := rfl
@[simp] theorem putTrack_pair (n : Nat) (x : Track) (s : State) : (putTrack n x s).pair = s.pair := rfl
@[simp] theorem putTrack_commit (n : Nat) (x : Track) (s : State) : (putTrack n x s).commit = s.commit := rfl
@[simp] theorem putTrack_port (n : Nat) (x : Track) (s : State) : (putTrack n x s).port = s.port := rfl
@[simp] theorem putTrack_net (n : Nat) (x : Track) (s : State) : (putTrack n x s).net = s.net := rfl
@[simp] theorem putTrack_time (n : Nat) (x : Track) (s : State) : (putTrack n x s).time = s.time := rfl
@[simp] theorem putTrack_pwr (n : Nat) (x : Track) (s : State) : (putTrack n x s).pwr = s.pwr := rfl
@[simp] theorem putTrack_supv (n : Nat) (x : Track) (s : State) : (putTrack n x s).supv = s.supv := rfl
@[simp] theorem putTrack_out (n : Nat) (x : Track) (s : State) : (putTrack n x s).out = s.out := rfl
@[simp] theorem putTrack_free (n : Nat) (x : Track) (s : State) : (putTrack n x s).free = s.free := rfl
@[simp] theorem putTrack_pending (n : Nat) (x : Track) (s : State) : (putTrack n x s).pending = s.pending := rfl

/-! ### putVoice -/

@[simp] theorem putVoice_clk (n : Nat) (x : Voice) (s : State) : (putVoice n x s).clk = s.clk := rfl
@[simp] theorem putVoice_sys (n : Nat) (x : Voice) (s : State) : (putVoice n x s).sys = s.sys := rfl
@[simp] theorem putVoice_flt (n : Nat) (x : Voice) (s : State) : (putVoice n x s).flt = s.flt := rfl
@[simp] theorem putVoice_mbx (n : Nat) (x : Voice) (s : State) : (putVoice n x s).mbx = s.mbx := rfl
@[simp] theorem putVoice_int (n : Nat) (x : Voice) (s : State) : (putVoice n x s).int = s.int := rfl
@[simp] theorem putVoice_page (n : Nat) (x : Voice) (s : State) : (putVoice n x s).page = s.page := rfl
@[simp] theorem putVoice_scene (n : Nat) (x : Voice) (s : State) : (putVoice n x s).scene = s.scene := rfl
@[simp] theorem putVoice_route (n : Nat) (x : Voice) (s : State) : (putVoice n x s).route = s.route := rfl
@[simp] theorem putVoice_blk (n : Nat) (x : Voice) (s : State) : (putVoice n x s).blk = s.blk := rfl
@[simp] theorem putVoice_mix (n : Nat) (x : Voice) (s : State) : (putVoice n x s).mix = s.mix := rfl
@[simp] theorem putVoice_frond (n : Nat) (x : Voice) (s : State) : (putVoice n x s).frond = s.frond := rfl
@[simp] theorem putVoice_mem (n : Nat) (x : Voice) (s : State) : (putVoice n x s).mem = s.mem := rfl
@[simp] theorem putVoice_arb (n : Nat) (x : Voice) (s : State) : (putVoice n x s).arb = s.arb := rfl
@[simp] theorem putVoice_pair (n : Nat) (x : Voice) (s : State) : (putVoice n x s).pair = s.pair := rfl
@[simp] theorem putVoice_commit (n : Nat) (x : Voice) (s : State) : (putVoice n x s).commit = s.commit := rfl
@[simp] theorem putVoice_port (n : Nat) (x : Voice) (s : State) : (putVoice n x s).port = s.port := rfl
@[simp] theorem putVoice_net (n : Nat) (x : Voice) (s : State) : (putVoice n x s).net = s.net := rfl
@[simp] theorem putVoice_time (n : Nat) (x : Voice) (s : State) : (putVoice n x s).time = s.time := rfl
@[simp] theorem putVoice_pwr (n : Nat) (x : Voice) (s : State) : (putVoice n x s).pwr = s.pwr := rfl
@[simp] theorem putVoice_supv (n : Nat) (x : Voice) (s : State) : (putVoice n x s).supv = s.supv := rfl
@[simp] theorem putVoice_out (n : Nat) (x : Voice) (s : State) : (putVoice n x s).out = s.out := rfl
@[simp] theorem putVoice_free (n : Nat) (x : Voice) (s : State) : (putVoice n x s).free = s.free := rfl
@[simp] theorem putVoice_pending (n : Nat) (x : Voice) (s : State) : (putVoice n x s).pending = s.pending := rfl

/-! ### putPort -/

@[simp] theorem putPort_clk (p : Nat) (x : Port) (s : State) : (putPort p x s).clk = s.clk := rfl
@[simp] theorem putPort_sys (p : Nat) (x : Port) (s : State) : (putPort p x s).sys = s.sys := rfl
@[simp] theorem putPort_flt (p : Nat) (x : Port) (s : State) : (putPort p x s).flt = s.flt := rfl
@[simp] theorem putPort_mbx (p : Nat) (x : Port) (s : State) : (putPort p x s).mbx = s.mbx := rfl
@[simp] theorem putPort_int (p : Nat) (x : Port) (s : State) : (putPort p x s).int = s.int := rfl
@[simp] theorem putPort_page (p : Nat) (x : Port) (s : State) : (putPort p x s).page = s.page := rfl
@[simp] theorem putPort_scene (p : Nat) (x : Port) (s : State) : (putPort p x s).scene = s.scene := rfl
@[simp] theorem putPort_route (p : Nat) (x : Port) (s : State) : (putPort p x s).route = s.route := rfl
@[simp] theorem putPort_blk (p : Nat) (x : Port) (s : State) : (putPort p x s).blk = s.blk := rfl
@[simp] theorem putPort_mix (p : Nat) (x : Port) (s : State) : (putPort p x s).mix = s.mix := rfl
@[simp] theorem putPort_frond (p : Nat) (x : Port) (s : State) : (putPort p x s).frond = s.frond := rfl
@[simp] theorem putPort_mem (p : Nat) (x : Port) (s : State) : (putPort p x s).mem = s.mem := rfl
@[simp] theorem putPort_arb (p : Nat) (x : Port) (s : State) : (putPort p x s).arb = s.arb := rfl
@[simp] theorem putPort_pair (p : Nat) (x : Port) (s : State) : (putPort p x s).pair = s.pair := rfl
@[simp] theorem putPort_commit (p : Nat) (x : Port) (s : State) : (putPort p x s).commit = s.commit := rfl
@[simp] theorem putPort_net (p : Nat) (x : Port) (s : State) : (putPort p x s).net = s.net := rfl
@[simp] theorem putPort_time (p : Nat) (x : Port) (s : State) : (putPort p x s).time = s.time := rfl
@[simp] theorem putPort_peat (p : Nat) (x : Port) (s : State) : (putPort p x s).peat = s.peat := rfl
@[simp] theorem putPort_pwr (p : Nat) (x : Port) (s : State) : (putPort p x s).pwr = s.pwr := rfl
@[simp] theorem putPort_supv (p : Nat) (x : Port) (s : State) : (putPort p x s).supv = s.supv := rfl
@[simp] theorem putPort_out (p : Nat) (x : Port) (s : State) : (putPort p x s).out = s.out := rfl
@[simp] theorem putPort_free (p : Nat) (x : Port) (s : State) : (putPort p x s).free = s.free := rfl
@[simp] theorem putPort_pending (p : Nat) (x : Port) (s : State) : (putPort p x s).pending = s.pending := rfl

/-! ### putPower -/

@[simp] theorem putPower_clk (f : Power → Power) (s : State) : (putPower f s).clk = s.clk := rfl
@[simp] theorem putPower_sys (f : Power → Power) (s : State) : (putPower f s).sys = s.sys := rfl
@[simp] theorem putPower_flt (f : Power → Power) (s : State) : (putPower f s).flt = s.flt := rfl
@[simp] theorem putPower_mbx (f : Power → Power) (s : State) : (putPower f s).mbx = s.mbx := rfl
@[simp] theorem putPower_int (f : Power → Power) (s : State) : (putPower f s).int = s.int := rfl
@[simp] theorem putPower_page (f : Power → Power) (s : State) : (putPower f s).page = s.page := rfl
@[simp] theorem putPower_scene (f : Power → Power) (s : State) : (putPower f s).scene = s.scene := rfl
@[simp] theorem putPower_route (f : Power → Power) (s : State) : (putPower f s).route = s.route := rfl
@[simp] theorem putPower_blk (f : Power → Power) (s : State) : (putPower f s).blk = s.blk := rfl
@[simp] theorem putPower_mix (f : Power → Power) (s : State) : (putPower f s).mix = s.mix := rfl
@[simp] theorem putPower_frond (f : Power → Power) (s : State) : (putPower f s).frond = s.frond := rfl
@[simp] theorem putPower_mem (f : Power → Power) (s : State) : (putPower f s).mem = s.mem := rfl
@[simp] theorem putPower_arb (f : Power → Power) (s : State) : (putPower f s).arb = s.arb := rfl
@[simp] theorem putPower_pair (f : Power → Power) (s : State) : (putPower f s).pair = s.pair := rfl
@[simp] theorem putPower_commit (f : Power → Power) (s : State) : (putPower f s).commit = s.commit := rfl
@[simp] theorem putPower_port (f : Power → Power) (s : State) : (putPower f s).port = s.port := rfl
@[simp] theorem putPower_net (f : Power → Power) (s : State) : (putPower f s).net = s.net := rfl
@[simp] theorem putPower_time (f : Power → Power) (s : State) : (putPower f s).time = s.time := rfl
@[simp] theorem putPower_peat (f : Power → Power) (s : State) : (putPower f s).peat = s.peat := rfl
@[simp] theorem putPower_supv (f : Power → Power) (s : State) : (putPower f s).supv = s.supv := rfl
@[simp] theorem putPower_out (f : Power → Power) (s : State) : (putPower f s).out = s.out := rfl
@[simp] theorem putPower_free (f : Power → Power) (s : State) : (putPower f s).free = s.free := rfl
@[simp] theorem putPower_pending (f : Power → Power) (s : State) : (putPower f s).pending = s.pending := rfl

/-! ### putPtp -/

@[simp] theorem putPtp_clk (n : Nat) (x : Ptp) (s : State) : (putPtp n x s).clk = s.clk := rfl
@[simp] theorem putPtp_sys (n : Nat) (x : Ptp) (s : State) : (putPtp n x s).sys = s.sys := rfl
@[simp] theorem putPtp_flt (n : Nat) (x : Ptp) (s : State) : (putPtp n x s).flt = s.flt := rfl
@[simp] theorem putPtp_mbx (n : Nat) (x : Ptp) (s : State) : (putPtp n x s).mbx = s.mbx := rfl
@[simp] theorem putPtp_int (n : Nat) (x : Ptp) (s : State) : (putPtp n x s).int = s.int := rfl
@[simp] theorem putPtp_page (n : Nat) (x : Ptp) (s : State) : (putPtp n x s).page = s.page := rfl
@[simp] theorem putPtp_scene (n : Nat) (x : Ptp) (s : State) : (putPtp n x s).scene = s.scene := rfl
@[simp] theorem putPtp_route (n : Nat) (x : Ptp) (s : State) : (putPtp n x s).route = s.route := rfl
@[simp] theorem putPtp_blk (n : Nat) (x : Ptp) (s : State) : (putPtp n x s).blk = s.blk := rfl
@[simp] theorem putPtp_mix (n : Nat) (x : Ptp) (s : State) : (putPtp n x s).mix = s.mix := rfl
@[simp] theorem putPtp_frond (n : Nat) (x : Ptp) (s : State) : (putPtp n x s).frond = s.frond := rfl
@[simp] theorem putPtp_mem (n : Nat) (x : Ptp) (s : State) : (putPtp n x s).mem = s.mem := rfl
@[simp] theorem putPtp_arb (n : Nat) (x : Ptp) (s : State) : (putPtp n x s).arb = s.arb := rfl
@[simp] theorem putPtp_pair (n : Nat) (x : Ptp) (s : State) : (putPtp n x s).pair = s.pair := rfl
@[simp] theorem putPtp_commit (n : Nat) (x : Ptp) (s : State) : (putPtp n x s).commit = s.commit := rfl
@[simp] theorem putPtp_port (n : Nat) (x : Ptp) (s : State) : (putPtp n x s).port = s.port := rfl
@[simp] theorem putPtp_net (n : Nat) (x : Ptp) (s : State) : (putPtp n x s).net = s.net := rfl
@[simp] theorem putPtp_peat (n : Nat) (x : Ptp) (s : State) : (putPtp n x s).peat = s.peat := rfl
@[simp] theorem putPtp_pwr (n : Nat) (x : Ptp) (s : State) : (putPtp n x s).pwr = s.pwr := rfl
@[simp] theorem putPtp_supv (n : Nat) (x : Ptp) (s : State) : (putPtp n x s).supv = s.supv := rfl
@[simp] theorem putPtp_out (n : Nat) (x : Ptp) (s : State) : (putPtp n x s).out = s.out := rfl
@[simp] theorem putPtp_free (n : Nat) (x : Ptp) (s : State) : (putPtp n x s).free = s.free := rfl
@[simp] theorem putPtp_pending (n : Nat) (x : Ptp) (s : State) : (putPtp n x s).pending = s.pending := rfl

/-! ### setTime -/

@[simp] theorem setTime_clk (f : TimeState → TimeState) (s : State) : (setTime f s).clk = s.clk := rfl
@[simp] theorem setTime_sys (f : TimeState → TimeState) (s : State) : (setTime f s).sys = s.sys := rfl
@[simp] theorem setTime_flt (f : TimeState → TimeState) (s : State) : (setTime f s).flt = s.flt := rfl
@[simp] theorem setTime_mbx (f : TimeState → TimeState) (s : State) : (setTime f s).mbx = s.mbx := rfl
@[simp] theorem setTime_int (f : TimeState → TimeState) (s : State) : (setTime f s).int = s.int := rfl
@[simp] theorem setTime_page (f : TimeState → TimeState) (s : State) : (setTime f s).page = s.page := rfl
@[simp] theorem setTime_scene (f : TimeState → TimeState) (s : State) : (setTime f s).scene = s.scene := rfl
@[simp] theorem setTime_route (f : TimeState → TimeState) (s : State) : (setTime f s).route = s.route := rfl
@[simp] theorem setTime_blk (f : TimeState → TimeState) (s : State) : (setTime f s).blk = s.blk := rfl
@[simp] theorem setTime_mix (f : TimeState → TimeState) (s : State) : (setTime f s).mix = s.mix := rfl
@[simp] theorem setTime_frond (f : TimeState → TimeState) (s : State) : (setTime f s).frond = s.frond := rfl
@[simp] theorem setTime_mem (f : TimeState → TimeState) (s : State) : (setTime f s).mem = s.mem := rfl
@[simp] theorem setTime_arb (f : TimeState → TimeState) (s : State) : (setTime f s).arb = s.arb := rfl
@[simp] theorem setTime_pair (f : TimeState → TimeState) (s : State) : (setTime f s).pair = s.pair := rfl
@[simp] theorem setTime_commit (f : TimeState → TimeState) (s : State) : (setTime f s).commit = s.commit := rfl
@[simp] theorem setTime_port (f : TimeState → TimeState) (s : State) : (setTime f s).port = s.port := rfl
@[simp] theorem setTime_net (f : TimeState → TimeState) (s : State) : (setTime f s).net = s.net := rfl
@[simp] theorem setTime_peat (f : TimeState → TimeState) (s : State) : (setTime f s).peat = s.peat := rfl
@[simp] theorem setTime_pwr (f : TimeState → TimeState) (s : State) : (setTime f s).pwr = s.pwr := rfl
@[simp] theorem setTime_supv (f : TimeState → TimeState) (s : State) : (setTime f s).supv = s.supv := rfl
@[simp] theorem setTime_out (f : TimeState → TimeState) (s : State) : (setTime f s).out = s.out := rfl
@[simp] theorem setTime_free (f : TimeState → TimeState) (s : State) : (setTime f s).free = s.free := rfl
@[simp] theorem setTime_pending (f : TimeState → TimeState) (s : State) : (setTime f s).pending = s.pending := rfl

/-! ### putCand -/

@[simp] theorem putCand_clk (n : Nat) (x : Cand) (s : State) : (putCand n x s).clk = s.clk := rfl
@[simp] theorem putCand_sys (n : Nat) (x : Cand) (s : State) : (putCand n x s).sys = s.sys := rfl
@[simp] theorem putCand_flt (n : Nat) (x : Cand) (s : State) : (putCand n x s).flt = s.flt := rfl
@[simp] theorem putCand_mbx (n : Nat) (x : Cand) (s : State) : (putCand n x s).mbx = s.mbx := rfl
@[simp] theorem putCand_int (n : Nat) (x : Cand) (s : State) : (putCand n x s).int = s.int := rfl
@[simp] theorem putCand_page (n : Nat) (x : Cand) (s : State) : (putCand n x s).page = s.page := rfl
@[simp] theorem putCand_scene (n : Nat) (x : Cand) (s : State) : (putCand n x s).scene = s.scene := rfl
@[simp] theorem putCand_route (n : Nat) (x : Cand) (s : State) : (putCand n x s).route = s.route := rfl
@[simp] theorem putCand_blk (n : Nat) (x : Cand) (s : State) : (putCand n x s).blk = s.blk := rfl
@[simp] theorem putCand_mix (n : Nat) (x : Cand) (s : State) : (putCand n x s).mix = s.mix := rfl
@[simp] theorem putCand_frond (n : Nat) (x : Cand) (s : State) : (putCand n x s).frond = s.frond := rfl
@[simp] theorem putCand_mem (n : Nat) (x : Cand) (s : State) : (putCand n x s).mem = s.mem := rfl
@[simp] theorem putCand_arb (n : Nat) (x : Cand) (s : State) : (putCand n x s).arb = s.arb := rfl
@[simp] theorem putCand_pair (n : Nat) (x : Cand) (s : State) : (putCand n x s).pair = s.pair := rfl
@[simp] theorem putCand_commit (n : Nat) (x : Cand) (s : State) : (putCand n x s).commit = s.commit := rfl
@[simp] theorem putCand_port (n : Nat) (x : Cand) (s : State) : (putCand n x s).port = s.port := rfl
@[simp] theorem putCand_net (n : Nat) (x : Cand) (s : State) : (putCand n x s).net = s.net := rfl
@[simp] theorem putCand_peat (n : Nat) (x : Cand) (s : State) : (putCand n x s).peat = s.peat := rfl
@[simp] theorem putCand_pwr (n : Nat) (x : Cand) (s : State) : (putCand n x s).pwr = s.pwr := rfl
@[simp] theorem putCand_supv (n : Nat) (x : Cand) (s : State) : (putCand n x s).supv = s.supv := rfl
@[simp] theorem putCand_out (n : Nat) (x : Cand) (s : State) : (putCand n x s).out = s.out := rfl
@[simp] theorem putCand_free (n : Nat) (x : Cand) (s : State) : (putCand n x s).free = s.free := rfl
@[simp] theorem putCand_pending (n : Nat) (x : Cand) (s : State) : (putCand n x s).pending = s.pending := rfl

/-! ### putTrig -/

@[simp] theorem putTrig_clk (n : Nat) (x : Trigger) (s : State) : (putTrig n x s).clk = s.clk := rfl
@[simp] theorem putTrig_sys (n : Nat) (x : Trigger) (s : State) : (putTrig n x s).sys = s.sys := rfl
@[simp] theorem putTrig_flt (n : Nat) (x : Trigger) (s : State) : (putTrig n x s).flt = s.flt := rfl
@[simp] theorem putTrig_mbx (n : Nat) (x : Trigger) (s : State) : (putTrig n x s).mbx = s.mbx := rfl
@[simp] theorem putTrig_int (n : Nat) (x : Trigger) (s : State) : (putTrig n x s).int = s.int := rfl
@[simp] theorem putTrig_page (n : Nat) (x : Trigger) (s : State) : (putTrig n x s).page = s.page := rfl
@[simp] theorem putTrig_scene (n : Nat) (x : Trigger) (s : State) : (putTrig n x s).scene = s.scene := rfl
@[simp] theorem putTrig_route (n : Nat) (x : Trigger) (s : State) : (putTrig n x s).route = s.route := rfl
@[simp] theorem putTrig_blk (n : Nat) (x : Trigger) (s : State) : (putTrig n x s).blk = s.blk := rfl
@[simp] theorem putTrig_mix (n : Nat) (x : Trigger) (s : State) : (putTrig n x s).mix = s.mix := rfl
@[simp] theorem putTrig_frond (n : Nat) (x : Trigger) (s : State) : (putTrig n x s).frond = s.frond := rfl
@[simp] theorem putTrig_mem (n : Nat) (x : Trigger) (s : State) : (putTrig n x s).mem = s.mem := rfl
@[simp] theorem putTrig_arb (n : Nat) (x : Trigger) (s : State) : (putTrig n x s).arb = s.arb := rfl
@[simp] theorem putTrig_pair (n : Nat) (x : Trigger) (s : State) : (putTrig n x s).pair = s.pair := rfl
@[simp] theorem putTrig_commit (n : Nat) (x : Trigger) (s : State) : (putTrig n x s).commit = s.commit := rfl
@[simp] theorem putTrig_port (n : Nat) (x : Trigger) (s : State) : (putTrig n x s).port = s.port := rfl
@[simp] theorem putTrig_net (n : Nat) (x : Trigger) (s : State) : (putTrig n x s).net = s.net := rfl
@[simp] theorem putTrig_peat (n : Nat) (x : Trigger) (s : State) : (putTrig n x s).peat = s.peat := rfl
@[simp] theorem putTrig_pwr (n : Nat) (x : Trigger) (s : State) : (putTrig n x s).pwr = s.pwr := rfl
@[simp] theorem putTrig_supv (n : Nat) (x : Trigger) (s : State) : (putTrig n x s).supv = s.supv := rfl
@[simp] theorem putTrig_out (n : Nat) (x : Trigger) (s : State) : (putTrig n x s).out = s.out := rfl
@[simp] theorem putTrig_free (n : Nat) (x : Trigger) (s : State) : (putTrig n x s).free = s.free := rfl
@[simp] theorem putTrig_pending (n : Nat) (x : Trigger) (s : State) : (putTrig n x s).pending = s.pending := rfl

/-! ### putEmerg -/

@[simp] theorem putEmerg_clk (n : Nat) (x : Emerg) (s : State) : (putEmerg n x s).clk = s.clk := rfl
@[simp] theorem putEmerg_sys (n : Nat) (x : Emerg) (s : State) : (putEmerg n x s).sys = s.sys := rfl
@[simp] theorem putEmerg_flt (n : Nat) (x : Emerg) (s : State) : (putEmerg n x s).flt = s.flt := rfl
@[simp] theorem putEmerg_mbx (n : Nat) (x : Emerg) (s : State) : (putEmerg n x s).mbx = s.mbx := rfl
@[simp] theorem putEmerg_int (n : Nat) (x : Emerg) (s : State) : (putEmerg n x s).int = s.int := rfl
@[simp] theorem putEmerg_page (n : Nat) (x : Emerg) (s : State) : (putEmerg n x s).page = s.page := rfl
@[simp] theorem putEmerg_route (n : Nat) (x : Emerg) (s : State) : (putEmerg n x s).route = s.route := rfl
@[simp] theorem putEmerg_blk (n : Nat) (x : Emerg) (s : State) : (putEmerg n x s).blk = s.blk := rfl
@[simp] theorem putEmerg_mix (n : Nat) (x : Emerg) (s : State) : (putEmerg n x s).mix = s.mix := rfl
@[simp] theorem putEmerg_frond (n : Nat) (x : Emerg) (s : State) : (putEmerg n x s).frond = s.frond := rfl
@[simp] theorem putEmerg_mem (n : Nat) (x : Emerg) (s : State) : (putEmerg n x s).mem = s.mem := rfl
@[simp] theorem putEmerg_arb (n : Nat) (x : Emerg) (s : State) : (putEmerg n x s).arb = s.arb := rfl
@[simp] theorem putEmerg_pair (n : Nat) (x : Emerg) (s : State) : (putEmerg n x s).pair = s.pair := rfl
@[simp] theorem putEmerg_commit (n : Nat) (x : Emerg) (s : State) : (putEmerg n x s).commit = s.commit := rfl
@[simp] theorem putEmerg_port (n : Nat) (x : Emerg) (s : State) : (putEmerg n x s).port = s.port := rfl
@[simp] theorem putEmerg_net (n : Nat) (x : Emerg) (s : State) : (putEmerg n x s).net = s.net := rfl
@[simp] theorem putEmerg_time (n : Nat) (x : Emerg) (s : State) : (putEmerg n x s).time = s.time := rfl
@[simp] theorem putEmerg_peat (n : Nat) (x : Emerg) (s : State) : (putEmerg n x s).peat = s.peat := rfl
@[simp] theorem putEmerg_pwr (n : Nat) (x : Emerg) (s : State) : (putEmerg n x s).pwr = s.pwr := rfl
@[simp] theorem putEmerg_supv (n : Nat) (x : Emerg) (s : State) : (putEmerg n x s).supv = s.supv := rfl
@[simp] theorem putEmerg_out (n : Nat) (x : Emerg) (s : State) : (putEmerg n x s).out = s.out := rfl
@[simp] theorem putEmerg_free (n : Nat) (x : Emerg) (s : State) : (putEmerg n x s).free = s.free := rfl
@[simp] theorem putEmerg_pending (n : Nat) (x : Emerg) (s : State) : (putEmerg n x s).pending = s.pending := rfl

/-! ### setStatus -/

@[simp] theorem setStatus_clk (p : Nat) (st : Option PageStatus) (s : State) : (setStatus p st s).clk = s.clk := rfl
@[simp] theorem setStatus_sys (p : Nat) (st : Option PageStatus) (s : State) : (setStatus p st s).sys = s.sys := rfl
@[simp] theorem setStatus_flt (p : Nat) (st : Option PageStatus) (s : State) : (setStatus p st s).flt = s.flt := rfl
@[simp] theorem setStatus_mbx (p : Nat) (st : Option PageStatus) (s : State) : (setStatus p st s).mbx = s.mbx := rfl
@[simp] theorem setStatus_int (p : Nat) (st : Option PageStatus) (s : State) : (setStatus p st s).int = s.int := rfl
@[simp] theorem setStatus_scene (p : Nat) (st : Option PageStatus) (s : State) : (setStatus p st s).scene = s.scene := rfl
@[simp] theorem setStatus_route (p : Nat) (st : Option PageStatus) (s : State) : (setStatus p st s).route = s.route := rfl
@[simp] theorem setStatus_blk (p : Nat) (st : Option PageStatus) (s : State) : (setStatus p st s).blk = s.blk := rfl
@[simp] theorem setStatus_mix (p : Nat) (st : Option PageStatus) (s : State) : (setStatus p st s).mix = s.mix := rfl
@[simp] theorem setStatus_frond (p : Nat) (st : Option PageStatus) (s : State) : (setStatus p st s).frond = s.frond := rfl
@[simp] theorem setStatus_mem (p : Nat) (st : Option PageStatus) (s : State) : (setStatus p st s).mem = s.mem := rfl
@[simp] theorem setStatus_arb (p : Nat) (st : Option PageStatus) (s : State) : (setStatus p st s).arb = s.arb := rfl
@[simp] theorem setStatus_pair (p : Nat) (st : Option PageStatus) (s : State) : (setStatus p st s).pair = s.pair := rfl
@[simp] theorem setStatus_commit (p : Nat) (st : Option PageStatus) (s : State) : (setStatus p st s).commit = s.commit := rfl
@[simp] theorem setStatus_port (p : Nat) (st : Option PageStatus) (s : State) : (setStatus p st s).port = s.port := rfl
@[simp] theorem setStatus_net (p : Nat) (st : Option PageStatus) (s : State) : (setStatus p st s).net = s.net := rfl
@[simp] theorem setStatus_time (p : Nat) (st : Option PageStatus) (s : State) : (setStatus p st s).time = s.time := rfl
@[simp] theorem setStatus_peat (p : Nat) (st : Option PageStatus) (s : State) : (setStatus p st s).peat = s.peat := rfl
@[simp] theorem setStatus_pwr (p : Nat) (st : Option PageStatus) (s : State) : (setStatus p st s).pwr = s.pwr := rfl
@[simp] theorem setStatus_supv (p : Nat) (st : Option PageStatus) (s : State) : (setStatus p st s).supv = s.supv := rfl
@[simp] theorem setStatus_out (p : Nat) (st : Option PageStatus) (s : State) : (setStatus p st s).out = s.out := rfl
@[simp] theorem setStatus_free (p : Nat) (st : Option PageStatus) (s : State) : (setStatus p st s).free = s.free := rfl
@[simp] theorem setStatus_pending (p : Nat) (st : Option PageStatus) (s : State) : (setStatus p st s).pending = s.pending := rfl

/-! ### putShadowRec -/

@[simp] theorem putShadowRec_clk (p : Nat) (r : PageRec) (s : State) : (putShadowRec p r s).clk = s.clk := rfl
@[simp] theorem putShadowRec_sys (p : Nat) (r : PageRec) (s : State) : (putShadowRec p r s).sys = s.sys := rfl
@[simp] theorem putShadowRec_flt (p : Nat) (r : PageRec) (s : State) : (putShadowRec p r s).flt = s.flt := rfl
@[simp] theorem putShadowRec_mbx (p : Nat) (r : PageRec) (s : State) : (putShadowRec p r s).mbx = s.mbx := rfl
@[simp] theorem putShadowRec_int (p : Nat) (r : PageRec) (s : State) : (putShadowRec p r s).int = s.int := rfl
@[simp] theorem putShadowRec_scene (p : Nat) (r : PageRec) (s : State) : (putShadowRec p r s).scene = s.scene := rfl
@[simp] theorem putShadowRec_route (p : Nat) (r : PageRec) (s : State) : (putShadowRec p r s).route = s.route := rfl
@[simp] theorem putShadowRec_blk (p : Nat) (r : PageRec) (s : State) : (putShadowRec p r s).blk = s.blk := rfl
@[simp] theorem putShadowRec_mix (p : Nat) (r : PageRec) (s : State) : (putShadowRec p r s).mix = s.mix := rfl
@[simp] theorem putShadowRec_frond (p : Nat) (r : PageRec) (s : State) : (putShadowRec p r s).frond = s.frond := rfl
@[simp] theorem putShadowRec_mem (p : Nat) (r : PageRec) (s : State) : (putShadowRec p r s).mem = s.mem := rfl
@[simp] theorem putShadowRec_arb (p : Nat) (r : PageRec) (s : State) : (putShadowRec p r s).arb = s.arb := rfl
@[simp] theorem putShadowRec_pair (p : Nat) (r : PageRec) (s : State) : (putShadowRec p r s).pair = s.pair := rfl
@[simp] theorem putShadowRec_commit (p : Nat) (r : PageRec) (s : State) : (putShadowRec p r s).commit = s.commit := rfl
@[simp] theorem putShadowRec_port (p : Nat) (r : PageRec) (s : State) : (putShadowRec p r s).port = s.port := rfl
@[simp] theorem putShadowRec_net (p : Nat) (r : PageRec) (s : State) : (putShadowRec p r s).net = s.net := rfl
@[simp] theorem putShadowRec_time (p : Nat) (r : PageRec) (s : State) : (putShadowRec p r s).time = s.time := rfl
@[simp] theorem putShadowRec_peat (p : Nat) (r : PageRec) (s : State) : (putShadowRec p r s).peat = s.peat := rfl
@[simp] theorem putShadowRec_pwr (p : Nat) (r : PageRec) (s : State) : (putShadowRec p r s).pwr = s.pwr := rfl
@[simp] theorem putShadowRec_supv (p : Nat) (r : PageRec) (s : State) : (putShadowRec p r s).supv = s.supv := rfl
@[simp] theorem putShadowRec_out (p : Nat) (r : PageRec) (s : State) : (putShadowRec p r s).out = s.out := rfl
@[simp] theorem putShadowRec_free (p : Nat) (r : PageRec) (s : State) : (putShadowRec p r s).free = s.free := rfl
@[simp] theorem putShadowRec_pending (p : Nat) (r : PageRec) (s : State) : (putShadowRec p r s).pending = s.pending := rfl

/-! ### Parts read back -/

@[simp] theorem groupOf_putGroup_self (g : Nat) (x : Group) (s : State) : groupOf (putGroup g x s) g = x := by
  simp [groupOf, putGroup]

theorem groupOf_putGroup_other {g h : Nat} (n : h ≠ g) (x : Group) (s : State) : groupOf (putGroup g x s) h = groupOf s h := by
  simp [groupOf, putGroup, Tbl.getD_put_other n]

@[simp] theorem dmaOf_putDma_self (c : Nat) (x : Dma) (s : State) : dmaOf (putDma c x s) c = x := by
  simp [dmaOf, putDma]

theorem dmaOf_putDma_other {c d : Nat} (n : d ≠ c) (x : Dma) (s : State) : dmaOf (putDma c x s) d = dmaOf s d := by
  simp [dmaOf, putDma, Tbl.getD_put_other n]

@[simp] theorem setPair_pair (f : PairCtl → PairCtl) (s : State) : (setPair f s).pair = f s.pair := rfl
@[simp] theorem setLink_link (f : Link → Link) (s : State) : (setLink f s).pair.link = f s.pair.link := rfl
@[simp] theorem putPower_pwr (f : Power → Power) (s : State) : (putPower f s).pwr = f s.pwr := rfl
@[simp] theorem setTime_time (f : TimeState → TimeState) (s : State) : (setTime f s).time = f s.time := rfl
@[simp] theorem find_setMark (n : Nat) (m : TaskMark) (s : State) : Tbl.find (setMark n m s).frond.mark n = some m := by
  simp [setMark]

end Sys2Proof.Machine
end

