-- ==== Sys2Proof/Tests/Slice0.lean ====
section
/-!
SUPPORT. Tests: words and values written out from the spec, a witness of the hypotheses of every statement, and ill-formed
commands that WellFormed refuses.
-/
namespace Sys2Proof.Tests
open Sys2Proof Sys2Proof.Machine

/-! ### States that the tests start from -/

/-- Every function ready, the mailbox open, slot 0 claimed over PCIe with every right. -/
def live : State :=
  { State.reset with
    sys := { State.reset.sys with inReset := false, ready := [0, 1, 2, 3, 4, 5, 6, 7, 8, 9], tested := [0, 1, 2, 3, 4, 5, 6, 7, 8, 9] }
    mbx := { State.reset.mbx with isOpen := true, slots := [(0, { state := 1, rights := 15 })] } }

/-- A request of slot 0. -/
def rq : Req := { slot := 0, seq := 7, crc := 1 }

/-- The state that an outcome answers, the empty engine where it answers none. -/
def after (o : Host.Outcome State Fault Refusal) : State :=
  match o with
  | .next t => t
  | _ => State.reset

/-- Nothing stands in the way of the command in the live state. -/
def ok (c : Cmd) (s : State := live) : Bool := runs c rq s

/-- The live state with parts changed. -/
def liveSys (f : Sys → Sys) (s : State := live) : State := { s with sys := f s.sys }
def liveMbx (f : Mbx → Mbx) (s : State := live) : State := { s with mbx := f s.mbx }

/-- An answer that is no refusal, and what it gives. -/
def gives {ε α : Type} (e : Except ε α) (p : α → Bool := fun _ => true) : Bool :=
  match e with
  | .ok a => p a
  | .error _ => false

def nextFrame : NetTime := { sec := 2 ^ 64 - 1, ns := 0 }

/-! ### Frond cores -/

/-- A task whose image has 64 words of code from program address 100, with scratch memory. -/
def oneTask : ExpertTask :=
  { image := 0, index := 0, entry := 0, dmaHandler := none, tickHandler := none, stage := 1, latency := 0, f := 1000, v := 0, fb := 1000, vb := 0
    scratchX := 64, scratchY := 64, stateWords := 0, params := 0, ins := [], outs := [], sides := []
    rings := [{ bulk := true, size := 16, af := 0, as_ := 1 }], codeLo := 100, codeLen := 64
    xBase := 0, xLen := 0, yBase := 0, yLen := 0, firstPage := 5, live := true }

/-- Core 1 of frond 2 runs the task from a bank at address 100, where a word stands. -/
def coreState (w : Nat) (b : Bank) (k : Core := {}) : State :=
  { live with
    frond := { live.frond with
      core := [(9, { k with run := .task 5, main := { b with pc := 100 } })]
      tasks := [(5, oneTask)], prog := [(100, BitVec.ofNat 48 w)] } }

def noMove : Move := { kind := 0, reg := 0, ptr := 0, post := 0, shift := 0 }
/-- Load Y1 from P1 and move it on by one; P1 points at scratch. -/
def loadY1 : Move := { kind := 1, reg := 3, ptr := 1, post := 1, shift := 0 }
/-- Accumulators of 1.0, −1.0 and the largest value, data words, P1 at scratch, L3 of 1. -/
def someBank : Bank :=
  { acc := [0x00800000000000, 0xFF800000000000, 0x7FFFFFFFFFFFFF, 0], data := [0x400000, 0xC00000, 3, 0x7FFFFF]
    p := [0x4000, 0x4000, 0x4001, 0, 0, 0, 0, 0], l := [0, 0, 0, 1] }

/-- What the statements ask of a state in which core 1 of frond 2 executes i. -/
def executes (i : Instr) (cls : Cls) (waits : Bool) (b : Bank) (k : Core := {}) : Bool :=
  let s := coreState ((encodeFrond i).getD 0) b k
  match runningOn s 2 1 with
  | some (5, t, k) => mayIssue t k.main.settle cls waits && frondFetch s 2 1 i && moveAllowed noMove t s.sys.b false k.main.settle &&
      moveAllowed loadY1 t s.sys.b true k.main.settle
  | _ => false

/-- R206's example of a DMAC. -/
theorem test_dmac_word : decodeFrond 2 1 0x087200000394 =
    some (.dmac 2 1 { pair := 0, sharedY := false, sharedIdx := 0, neg0 := true, acc0 := true, neg1 := true, acc1 := false, uns0 := false
                      uns1 := true } noMove loadY1) := by decide
/-- The words at times 6 and 14 of the filter section (08, Example: one filter section). -/
theorem test_ashr_word : decodeFrond 2 1 0x343000204394 = some (.ashr 2 1 0 3 { kind := 1, reg := 0, ptr := 0, post := 1, shift := 0 } loadY1) := by
  decide
theorem test_store_word : decodeFrond 2 1 0x000000636826 =
    some (.nop 2 1 { kind := 3, reg := 0, ptr := 3, post := 1, shift := 2 } { kind := 4, reg := 0, ptr := 2, post := 1, shift := 2 }) := by decide
/-- Operation code 0x16, class code 5, and a bit that no field of CLR takes are illegal (R202, R206). -/
theorem test_illegal_words : decodeFrond 2 1 0x580000000000 = none ∧ decodeFrond 2 1 0xD00000000000 = none ∧
    decodeFrond 2 1 0x1C4000000000 = none := by decide

theorem witness_addFamily :
    executes (.add 2 1 0 1 noMove loadY1) .plain false someBank ∧ executes (.sub 2 1 0 1 noMove loadY1) .plain false someBank ∧
    executes (.mov 2 1 0 1 noMove loadY1) .plain false someBank ∧ executes (.add24 2 1 0 1 noMove loadY1) .plain false someBank ∧
    executes (.clr 2 1 0 noMove loadY1) .plain false someBank ∧ executes (.neg 2 1 0 noMove loadY1) .plain false someBank ∧
    executes (.abs 2 1 0 noMove loadY1) .plain false someBank ∧ executes (.max 2 1 0 1 noMove loadY1) .plain false someBank ∧
    executes (.min 2 1 0 1 noMove loadY1) .plain false someBank ∧ executes (.addd 2 1 0 3 noMove loadY1) .plain false someBank ∧
    executes (.subd 2 1 0 3 noMove loadY1) .plain false someBank := by decide
theorem witness_products :
    executes (.mac 2 1 { ad := 0, sa := 0, sb := 3, negate := true, accumulate := true, saUnsigned := false, sbUnsigned := true } noMove loadY1)
      .plain false someBank ∧
    executes (.dmac 2 1 { pair := 0, sharedY := false, sharedIdx := 0, neg0 := true, acc0 := true, neg1 := true, acc1 := false, uns0 := false
                          uns1 := true } noMove loadY1) .plain false someBank ∧
    executes (.ash 2 1 2 (-64) noMove loadY1) .plain false someBank ∧ executes (.ashr 2 1 0 2 noMove loadY1) .plain false someBank ∧
    executes (.log2 2 1 0 3 noMove loadY1) .plain false someBank ∧ executes (.exp2 2 1 0 2 noMove loadY1) .plain false someBank ∧
    someBank.slow 3 = 0 ∧ 2 ^ 44 ≤ (someBank.slow 2).toInt ∧ (someBank.slow 1).toInt < -(3 * 2 ^ 45) := by decide
theorem witness_movesAndCompares :
    executes (.nop 2 1 noMove loadY1) .plain false someBank ∧ executes (.cmp 2 1 0 1 noMove loadY1) .plain false someBank ∧
    executes (.cmov 2 1 0 1 10 noMove loadY1) .plain false someBank ∧ executes (.rnd 2 1 2 noMove loadY1) .plain false someBank ∧
    executes (.xfr 2 1 0 2 noMove loadY1) .plain false someBank := by decide
theorem witness_registerInstructions :
    executes (.ldi 2 1 24 0xFFFFFF) .plain false someBank ∧ executes (.movr 2 1 4 26) .plain false someBank ∧
    executes (.modp 2 1 1 (-16384)) .plain false someBank ∧ executes (.swset 2 1 0x3337) .plain false someBank ∧
    executes (.swclr 2 1 0x3337) .plain false someBank ∧ executes (.clrb 2 1 15) .plain false someBank ∧
    executes (.waitb 2 1 15) .plain true someBank { flags := 15 } ∧ executes (.waitb 2 1 1) .plain true someBank ∧
    (someBank.m.getD 1 0).toNat < 2 ^ 22 := by decide
theorem witness_flow :
    executes (.br 2 1 0 63) .flow false someBank ∧ executes (.call 2 1 10 0) .flow false someBank ∧
    executes (.rts 2 1 0) .flow false { someBank with calls := [120] } ∧ executes (.doLoop 2 1 none 65535 8191) .ender false someBank ∧
    executes (.doLoop 2 1 (some 3) 0 1) .ender false someBank ∧ executes (.rete 2 1) .ender false someBank { handler := true } ∧
    inRun 163 oneTask.codeLo oneTask.codeLen = true := by decide
/-- Transfers of one word, posted on a core that runs or ends its run. -/
def oneXfer : BulkXfer := { toBulk := false, yside := false, addr := 0x4000, modifier := 1, ring := 0, offset := 0, words := 1, flag := 2, posted := true }
theorem witness_endCommits :
    executes (.endRun 2 1) .ender false someBank ∧
    executes (.endRun 2 1) .ender false someBank { queue := [oneXfer] } := by
  decide
theorem witness_overrunningEnd : runningOn (coreState 0 someBank { instrs := 1000 }) 2 1 = some (5, oneTask, { ({} : Core) with instrs := 1000, run := .task 5, main := { someBank with pc := 100 } }) ∧
    executes (.endRun 2 1) .ender false someBank { instrs := 1000 } ∧ oneTask.f + oneTask.v * 8 ≤ 1000 := by decide
theorem witness_bulkCompletion :
    (∀ z ∈ portQueue (coreState 0 someBank { queue := [oneXfer, oneXfer] }) 2, oneXfer.order ≤ z.order) ∧
    oneTask.rings[oneXfer.ring]?.isSome ∧ readFails (coreState 0 someBank { queue := [oneXfer] }) { bulk := true, size := 16, af := 0, as_ := 1 } oneXfer = [] ∧
    bulkPoisoned (coreState 0 someBank) 0 = false ∧ portBusy (coreState 0 someBank) 2 < 4 ∧
    (coreOf (coreState 0 someBank { queue := [oneXfer, oneXfer] }) 2 1).run = .task 5 ∧
    (coreOf (coreState 0 someBank { queue := [oneXfer, oneXfer] }) 2 1).queue = [oneXfer, oneXfer] ∧
    Tbl.find (coreState 0 someBank).frond.tasks 5 = some oneTask := by decide
def twoWords : BmovFields := { srcPtr := 1, srcSpace := 0, dstPtr := 2, dstSpace := 1, ring := 0, flag := 0 }
def fromBulk : BmovFields := { srcPtr := 3, srcSpace := 2, dstPtr := 2, dstSpace := 1, ring := 0, flag := 3 }
theorem witness_longInstructions :
    executes (.vmac 2 1 0 1 2 true false true 1) .long false someBank ∧ executes (.bmovSynchronous 2 1 twoWords { elems := 1 }) .long false someBank ∧
    executes (.bmovPosted 2 1 { fields := twoWords, run := { elems := 1 } }) .long false someBank ∧
    executes (.bmovSynchronous 2 1 fromBulk { elems := 1 }) .long false someBank ∧ executes (.bmovPosted 2 1 { fields := fromBulk, run := { elems := 1 } }) .long false someBank ∧
    vmacAllowed oneTask 8 someBank.settle 1 2 1 = true ∧ bmovAllowed oneTask 8 twoWords someBank.settle 1 = true ∧
    mayWrite oneTask 8 true 0x4001 = true ∧ modLegal 0 = true ∧ someBank.l.getD 3 0 = 1 ∧ oneTask.rings[fromBulk.ring]?.isSome := by decide
theorem witness_frames :
    parallelOf (.nop 2 1 noMove loadY1) = some (2, 1, noMove, loadY1) ∧ coreOnlyOf (.ldi 2 1 0 5) = some (2, 1, .plain, false) ∧
    executes (.ldi 2 1 0 5) .plain false someBank := by decide
/-- A run at an illegal word; outside the image's code; with a class where it may not stand. -/
theorem witness_illegal :
    (runningOn (coreState 0x580000000000 someBank) 2 1).isSome ∧ decodeFrond 2 1 (wordAt (coreState 0x580000000000 someBank) 2 1) = none ∧
    frondFetch (coreState 0x580000000000 someBank) 2 1 (.nop 2 1 noMove noMove) = false ∧
    inRun 164 oneTask.codeLo oneTask.codeLen = false ∧
    frondFetch (coreState ((encodeFrond (.br 2 1 0 1)).getD 0) { someBank with slot := true }) 2 1 (.br 2 1 0 1) = true ∧
    mayIssue oneTask { someBank with slot := true, pc := 100 } .flow false = false ∧
    frondFetch (coreState ((encodeFrond (.cmov 2 1 0 0 15 noMove noMove)).getD 0) someBank) 2 1 (.cmov 2 1 0 0 15 noMove noMove) = true ∧
    frondFetch (coreState ((encodeFrond (.ldi 2 1 25 0)).getD 0) someBank) 2 1 (.ldi 2 1 25 0) = true := by decide
theorem witness_encoding : (Instr.cmov 31 3 3 3 15 noMove loadY1).wellFormed = true ∧
    encodeFrond (.cmov 31 3 3 3 15 noMove loadY1) = some 0x53CF00000394 ∧
    (decodeFrond 31 3 0x53CF00000394).isSome := by decide

/-- ADD of A0 and A1 (1.0 − 1.0): zero with Z set (R189, R202). -/
theorem test_add_zero :
    let i : Instr := .add 2 1 0 1 noMove noMove
    let k := coreOf (after (exec i (coreState ((encodeFrond i).getD 0) someBank))) 2 1
    (k.main.pend.map fun p => (p.value, p.fastAt, p.slowAt)) = [(0, 1, 2)] ∧ k.main.swPend = [{ clr := 7, set := 1, at_ := 2 }] ∧
      k.main.pc = 101 := by decide
/-- A word that stands at the address is executed, another command does nothing (log entry 2). -/
theorem test_other_word :
    let s := coreState ((encodeFrond (.clr 2 1 0 noMove noMove)).getD 0) someBank
    after (exec (.neg 2 1 0 noMove noMove) s) = s := by decide

/-! ### SYS -/

/-- The live state in the maintenance state of slot 0. -/
def inMaintenance : State := liveSys fun x => { x with maint := some 0 }
def heldResult : State := liveMbx fun x => { x with slots := [(0, { state := 1, rights := 15, held := [{ seq := 3, data := [1, 2, 3], readAt := 0 }] })] }
def smallRef : DataRef := { place := 0, length := 64, address := 0 }
theorem witness_sysReports :
    ok { code := 0x0101 } ∧ ok { code := 0x0102 } ∧ ok { code := 0x0109 } ∧ live.mbx.evProd < 2 ^ 32 ∧ ok { code := 0x010D } ∧
    runs { code := 0x0108 } { rq with data := some smallRef } heldResult ∧
    ((slotOf heldResult 0).held.find? fun x => x.seq = 3).isSome := by decide
theorem witness_sysSettings :
    ok { code := 0x0107, reach := .here } ∧ ok { code := 0x010A, reach := .here } ∧ ok { code := 0x0105, reach := .here } ∧
    [32, 32, 32, 32, 32, 32].foldl (· + ·) 0 = 192 ∧
    ok { code := 0x0103, reach := .shared, maint := true } inMaintenance ∧ forwards inMaintenance = false ∧
    ok { code := 0x0104, reach := .shared, maint := true } inMaintenance ∧ ok { code := 0x0106, reach := .shared, right := 2 } ∧
    ok { code := 0x0106, reach := .shared } inMaintenance := by decide
theorem witness_sysRates :
    ((List.range 6).all fun i => decide ((areaNeeds (entered { code := 0x0105 } rq live)).getD i 0 ≤ 32 * 1048576)) = true ∧
    rateRefusal 0 inMaintenance.sys.b (entered { code := 0x0103 } rq inMaintenance) = none ∧
    rateRefusal inMaintenance.sys.rate 16 (entered { code := 0x0104 } rq inMaintenance) = none := by decide
/-- An open object of slot 0, a provisioned key, a session of slot 1. -/
def withObject : State :=
  liveMbx fun x => { x with
    slots := [(0, { state := 1, rights := 15 }), (1, { state := 1, rights := 15, path := 2 })]
    keys := [(3, (15, List.replicate 32 5))], sessions := [(9, { keyId := 3, key := List.replicate 32 5, ip := 1, port := 2, slot := 1 })]
    objects := [(4, { slot := 0, kind := .clip 7 0, length := 8 })] }
theorem witness_sessions :
    freeSlot withObject = some 2 ∧ Tbl.find withObject.mbx.keys 3 = some (15, List.replicate 32 5) ∧
    runs { code := 0x010C, reach := .here } { rq with slot := 1 } withObject ∧ (slotOf withObject 1).path = 2 ∧
    (Tbl.find withObject.mbx.sessions 9).isSome ∧ (slotOf withObject 1).state = 1 ∧ (slotOf withObject 0).path ≠ 2 ∧
    runs { code := 0x0110, reach := .shared } rq withObject ∧ runs { code := 0x0112, reach := .shared } rq withObject := by decide
/-- The liveness time is clamped to 600 s (R448). -/
theorem test_client_clamped : (after (exec (.sysClient rq 1 700) live)).mbx.liveness = 600 := by decide
theorem test_maintenance_taken : (after (exec (.sysMaintenance rq 1) live)).sys.maint = some 0 := by decide

/-! ### Routing, blocks, mixing -/

/-- A standalone biquad instance of one pin pair at page 0xC000. -/
def withInstance : State :=
  { live with blk := { live.blk with inst := [(0xC000, { kind := .peq, stage := 1, pinBase := 0x8000, ins := 1, outs := 1, live := true })] } }
theorem witness_routeWrites :
    ok (routeCmd 0x0201) ∧ named live 0x6000 ∧ named live 0x6801 ∧ isSource live 0x6000 = false ∧ isSource live 0x6801 ∧
    isHeld live (0x6000 / 256) = false ∧ shadowConnections live < 65536 ∧ 0 ≤ shadowGet live (0x6000 / 256) 0 ∧
    ok (routeCmd 0x0202) ∧ ok (routeCmd 0x0203) ∧ forwards live = false := by decide
theorem witness_routeReports :
    ok { code := 0x0204 } ∧ ok { code := 0x0205 } ∧ ok { code := 0x0206 } ∧ ok { code := 0x0207 } ∧ isPathStart 0 = true ∧
    isPathEnd 0xC00 = true ∧ named live 0 ∧ named live 0xC00 ∧ ok { code := 0x0208, reach := .shared, needs := some Fn.router } := by decide
theorem witness_blockWrites :
    ok (blockCmd 0x0301) ∧ (blockType 1).isSome ∧ fam live ≠ 2 ∧ (lowestPages live 1).isSome ∧
    ok (blockCmd 0x0302) withInstance ∧ isHeld withInstance 0xC000 = false ∧ inEmergency withInstance 0xC000 = false ∧
    namedPins withInstance (pinsOf withInstance 0xC000) = false ∧ ok (blockCmd 0x0303) withInstance ∧ (pageBlock withInstance 0xC000).isSome ∧
    ok (blockCmd 0x0304) ∧ ok (blockCmd 0x0306) ∧ isBlockPage live 0x1000 := by decide

theorem witness_blockParams :
    isStructural live 0x1001 0 = false ∧ fieldRefusal live 0x1001 0 (-100) = none ∧
    (fieldOf live 0x1001 (shadowGet live 0x1001) 0).any (fun f => f.kind == .quantity && f.step == 1 && decide (f.lo ≤ -100 ∧ -100 ≤ f.hi)) ∧
    Tbl.find live.page.status 0x1001 = none ∧ (lowestPins live 2).isSome ∧
    gives (planPairs (Plan.reshape 0xC000) (orderPairs [{ id := 0, value := 3 }]) { st := entered (blockCmd 0x0303) rq withInstance })
      (fun pl => (reshapePins (pl.raiseSplits 0xC000).st 0xC000).isNone &&
        (instanceRefusal (pl.raiseSplits 0xC000).st 0xC000 ((pageBlock withInstance 0xC000).map (·.1))).isNone) ∧
    instanceRefusal ((({ st := entered (blockCmd 0x0304) rq live } : Plan).edit 0x1001 0 (-100)).raiseSplits 0x1001).st 0x1001
      ((pageBlock live 0x1001).map (·.1)) = none ∧ (pageBlock live 0x1001).map (·.1) ≠ some .crossover := by decide
theorem witness_firTaps : pageBlock live 0xA006 = some (.fir, .outputStrip) := by decide
theorem witness_blockReports :
    ok { code := 0x0305 } ∧ (pageBlock live 0x1001).isSome ∧ (typeNumber (activeGet live 0x1001) .trim).isSome ∧ ok { code := 0x0307 } ∧
    ok { code := 0x0308 } ∧ 0 + 8 ≤ stripCount live 0 := by decide
theorem witness_mixWrites :
    fam live ≠ 2 ∧ ok (mixCmd 0x0401) ∧ 2047 < mixInputs (fam live) ∧ isHeld live (0x200 + 2047 / 256) = false ∧
    gives (planSelect 0 2047 0x6801 64 0 0 (entered (mixCmd 0x0401) rq live)) ∧
    ok (mixCmd 0x0402) ∧ ok (mixCmd 0x0403) ∧ isHeld live (0x400 + 511) = false ∧ ok (mixCmd 0x0404) ∧ ok (mixCmd 0x0405) ∧ ok (mixCmd 0x0406) ∧
    5 &&& 2 = 0 := by decide
/-- Unchanged settings of a bus, and a level of precedence. -/
theorem witness_busWrites :
    gives (Plan.writes { st := entered (mixCmd 0x0404) rq live } (0x400 + 511)
      [(0x1000, 0, 3, 0), (0x1001, 0, 7, 0), (0x1002, 1, 7, 0), (0x1004, 0, 7, 0), (0x1003, 0, 9, 0), (0x1005, 0, 11, 0), (0x1006, 0, 15, 0),
       (0x1007, 100, 19, 0), (0x1008, 0, 23, 0), (0x1009, 0, 27, 0)]) ∧
    gives (Plan.writes { st := entered (mixCmd 0x0405) rq live } (0x400 + 511)
      [(0x1100 + 15 * 16, -1000, 5, 0), (0x1100 + 15 * 16 + 1, 10, 9, 0), (0x1100 + 15 * 16 + 2, 100, 13, 0)]) := by decide
theorem witness_mixReports : ok { code := 0x0407 } ∧ ok { code := 0x0408 } ∧ 511 < 512 ∧ 2047 < mixInputs (fam live) := by decide
/-- MIX.GAIN of 0 dB on crosspoint (3, 5) stands pending in lane 3's shadow bank, assigned (R53, R127, R482). -/
theorem test_mixGain :
    (let t := after (exec (.mixGain rq 0 { lane := 3, input := 5, level := 0, flags := 2, prec := 0 }) live)
     decide (Tbl.find t.page.status 0x403 = some .pending) && decide (t.commit.sets.length = 1) &&
       decide ((crossIn t 3 (Tbl.getD t.page.shadow 0x403 []) 5).assigned = true)) = true := by decide

/-! ### Scenes -/

/-- A scene of the input strip 0's trim page, in the directory as number 5. -/
def sceneBytes : List Byte := sceneBody 5 0 (padTo 32 []) [captureRecord live 0x1001]
def withSceneOnly : State :=
  { live with scene := { live.scene with
      dir := [(5, { version := 1, crc := crc32c sceneBytes, body := sceneBytes })]
      lists := [(1, { slot := 0, edits := [⟨0x1001, 0, -100⟩] })]
      actions := [(1, { number := 5, seq := 3, code := 0x0505, pages := [0x1001] })]
      emerg := [(1, {}), (2, { pin := true, asserted := true })] } }
def withScene : State := { withSceneOnly with page := { live.page with status := [(0x1002, .heldList 1)] } }
theorem witness_sceneStore :
    ok (sceneCmd 0x0501) ∧ ok (sceneCmd 0x0502) ∧ gives (captureSet live 1 0x1001 0x1001) ∧ ok (sceneCmd 0x0503) ∧
    Tbl.has withScene.scene.dir 5 ∧ isPersistent withScene 5 = false ∧ ok { code := 0x0504 } ∧ ok { code := 0x050A } ∧
    ok { code := 0x050A, reach := .shared } ∧ residentKiB live ≤ 512 ∧ areasFit { live with scene := { live.scene with areaKiB := 512 } } ∧
    ok { code := 0x0509, reach := .shared } ∧ ok { code := 0x0508 } := by decide +kernel
theorem witness_names : nameOk [0x41, 0xC3, 0xA9, 0] ∧ nameOk [] = false ∧ nameOk [0xC3] = false := by decide
theorem witness_capture :
    homeMissing live 6 1 = false ∧ objectRoom live ∧
    areasFit (putScene 6 1 (padTo 32 []) (sceneBody 6 1 (padTo 32 []) [captureRecord live 0x1001]) live) = true := by decide
theorem witness_sceneActions :
    ok (actionCmd 0x0505 false) withScene ∧ needsPeat withScene 5 = false ∧
    gives (planScene 5 false (entered (actionCmd 0x0505 false) rq withScene)) (fun p => (pagesOf p.1.edits).all fun q => !isHeld withScene q) ∧
    ok (actionCmd 0x0506 false) withScene ∧ malformedTime nextFrame = false ∧ isNextFrame nextFrame ∧
    judge withScene (timeValue nextFrame) false (commitFrame withScene) ≠ .expired ∧ ok (sceneCmd 0x0507) withScene := by decide +kernel
theorem witness_lists :
    ok { code := 0x050D, reach := .shared, expert := true } withScene ∧ Tbl.has withScene.scene.lists 2 = false ∧
    ok (actionCmd 0x050E true) withScene ∧ pagesHeldBy withScene (.heldList 1) ≠ [] ∧
    ok { code := 0x050F, reach := .shared, expert := true } withScene ∧ Tbl.has withScene.scene.lists 1 := by decide
theorem witness_sceneLoad :
    gives (planScene 5 false withScene) (fun p => (pagesOf p.1.edits).all fun q => !heldByOther withScene (.heldAction 1) q) ∧
    isPending withScene 0x1001 = false ∧ Tbl.find withScene.page.status 0x1001 = none ∧ withScene.sys.mladirUp ∧ forwards withScene = false := by
  decide +kernel
/-- An action that stands loaded for a time 1 s ahead. -/
theorem witness_handover :
    (match judge live (some 1000000000) false (commitFrame live) with | .onTime _ => true | _ => false) = true ∧
    1000000000 ≤ live.clk.full + 2000000000 := by decide
/-- A scene without records: its emergency images take no room. -/
def bareScene : State :=
  let body := sceneBody 5 0 (padTo 32 []) []
  { live with scene := { live.scene with dir := [(5, { version := 1, crc := crc32c body, body := body })] } }
theorem witness_assign :
    ok (sceneCmd 0x050B) bareScene ∧ assignRefusal 1 5 true (entered (sceneCmd 0x050B) rq bareScene) = none := by decide +kernel
theorem witness_emergency :
    ok (sceneCmd 0x050C) withScene ∧
    (emergOf withScene 1).asserted = false ∧ Tbl.find withScene.scene.emerg 1 = some {} ∧
    Tbl.find withScene.scene.emerg 2 = some { pin := true, asserted := true } ∧ pinsDecide withScene := by decide
/-- A standby whose pin differs; a page that is re-seeded, and a write that waits for it. -/
theorem witness_mismatchAndReseed :
    (let s : State := liveSys (fun x => { x with pairEn := true }) withScene
     isStandby s ∧ (emergOf s 2).pin ≠ Fx.bit s.pair.partnerEmerg 2) ∧
    pagesOf [⟨0x1001, 0, -100⟩] = [0x1001] := by decide
/-- A page that is re-seeding; a write that waits for it. -/
def reseeding : State := { withSceneOnly with page := { live.page with status := [(0x1001, .reseeding)] } }
theorem witness_reseeding :
    let e : Edit := ⟨0x1001, 0, -100⟩
    let s := putShadow e (finishReseed 0x1001 reseeding)
    Tbl.find reseeding.page.status 0x1001 = some .reseeding ∧ reseeding.commit.waits = [] ∧ changePages [] = [] ∧
    (admitPlan { st := s, edits := [e] } = none) ∧ Tbl.has reseeding.scene.lists 1 ∧ forwards reseeding = false ∧ isReseeding reseeding 0x1001 := by
  decide +kernel

/-! ### Serial audio ports -/

def slave8 : PortFields := { format := 2, width := 32, slots := 8, role := 0, gen := 0, rate := 2, flags := 5 }
def slave8Cfg : PortCfg := { format := 2, width := 32, slots := 8, master := false, gen := 0, rate := 2, bclkInv := true, noDelay := true }
/-- Port 1 with parts set. -/
def onPort (p : Port) (s : State := live) : State := { s with port := { s.port with port := [(1, p)] } }
def bothOn : Port := { inOn := true, outOn := true, state := 2 }
theorem witness_portChanges :
    ok (portCmd 0x0601) ∧ forwards live = false ∧ portAdmitted 3 slave8Cfg (entered (portCmd 0x0601) rq live) = none ∧
    portAdmitted 3 { slave8Cfg with master := true } (entered (portCmd 0x0601) rq live) = none ∧ genUsers live 0 3 = [] ∧
    ok (portCmd 0x0602) ∧ ok (portCmd 0x0603) ∧ ok { code := 0x060C, reach := .shared, expert := true, needs := some Fn.ports } ∧
    (portCfg live 3).width = 32 ∧ ok (portCmd 0x0608) ∧ ok (portCmd 0x0609) ∧ ok (portCmd 0x0607) ∧
    fsOf live.sys.rate * (Tbl.getD live.port.pcg 15 {}).n * 512 ≤ 49152000 * (Tbl.getD live.port.pcg 15 {}).d ∧
    ok { code := 0x060B, reach := .shared, expert := true, needs := some Fn.ports } ∧
    genRefusal live 15 { n := 1, d := 1, len := 1024, phase := 5, start := 0xFF } = none := by decide
theorem witness_portProof :
    ok (portCmd 0x060A) (onPort bothOn) ∧ live.port.proof = none ∧ provable (onPort bothOn) true { port := 1, slot := 0 } ∧
    provable (onPort bothOn) false { port := 1, slot := 1 } := by decide
theorem witness_portReports :
    ok { code := 0x0604 } ∧ ok { code := 0x0605 } ∧ ok { code := 0x0605, reach := .shared, needs := some Fn.ports } ∧ ok { code := 0x0606 } ∧
    ok { code := 0x0606, reach := .shared, needs := some Fn.ports } ∧
    (after (exec (.portProof rq [{ port := 1, slot := 0 }] [{ port := 1, slot := 1 }]) (onPort bothOn))).port.proof.any
      (fun p => !p.nightly) := by decide
/-- A slave port one right frame short of its lock, in an engine that runs. -/
def nearLock : State := liveSys (fun x => { x with running := true }) (onPort { bothOn with state := 1, lockCount := 15 })
def measured : State := onPort { bothOn with measDone := some (21333333, false), rateNow := some (1000 * foreignRate 0) }
theorem witness_portEvents :
    seesEdges nearLock 1 = true ∧ (portOf nearLock 1).wrongLong = false ∧ (portOf nearLock 1).lost = false ∧
    (portOf measured 1).rateRef = none ∧ (portCfg measured 1).master = false ∧ holdSamples (portHz live 1) ≤ 100000 := by decide
/-- A marking block whose CRC is right. -/
def goodBlock : List Byte := List.replicate 23 7 ++ [blockCrc (List.replicate 23 7)]
set_option maxRecDepth 8000 in
theorem witness_markBlocks : blockCrc goodBlock = goodBlock.getD 23 0 ∧ blockCrc (List.replicate 24 1) ≠ (List.replicate 24 (1 : Byte)).getD 23 0 := by
  decide
def withAsrc : State :=
  { live with
    port := { live.port with port := [(0, { inOn := true, state := 2, rateNow := some 48000000 })] }
    blk := { live.blk with inst := [(0xC000, { kind := .asrc, stage := 1, pinBase := 0x8000, ins := 1, outs := 1, live := true })] } }
theorem witness_asrc :
    (Tbl.getD withAsrc.blk.asrc 0xC000 {}).locked = false ∧ withinNominal withAsrc (effGet withAsrc 0xC000 0).toNat (effGet withAsrc 0xC000 2).toNat = true := by decide
/-- A measurement of 21,333,333 cycles of RAW's nanosecond is 48 kHz to the millihertz (R101). -/
theorem test_rate : (portOf (after (exec (.rateMeasurementDone 1) measured)) 1).rateNow = some 48000001 := by
  decide
/-- The sixteenth right frame locks a slave port. -/
theorem test_lock : (portOf (after (exec (.portFrameStartEdge 1 40 [] 0 false false) nearLock)) 1).state = 2 := by
  decide

/-! ### The media network -/

def port0 : NetFields := { speed := 0, fec := 0, flags := 1, ip := 0x0A000001, prefixLen := 24, gateway := 0, vlan := 0, ttl := 64, seril := 46200 }
def mono : StreamFields := { first := 0, channels := 1, enc := 0, ptime := 0, ptype := 97 }
def group1 : StreamPath := { port := 0, udp := 5004, dst := 0xEF000001, src := 0 }
def monoTx : StreamCfg := { first := 0, channels := 1, enc := 0, ptime := 0, ptype := 97, offset := 0, ssrc := 0, paths := [pathOf false group1] }
def monoRx : StreamCfg := { first := 0, channels := 1, enc := 0, ptime := 0, ptype := 97, paths := [pathOf true group1], linkUs := 1000, lossMs := 10 }
/-- A gate list of two entries. -/
def gates2 : GateList :=
  { start := 0, cycle := 1000000, entries := [{ op := 0, states := 255, interval := 500000 }, { op := 0, states := 1, interval := 500000 }] }
/-- Port 0 up with gate lists, in verification, a member of a group; stream 3 in and out. -/
def onNet (x : NetPort) : State :=
  { live with net := { live.net with
      port := [(0, x)], tx := [(3, { cfg := monoTx, built := [⟨48, 1, 48, 9, []⟩] })], rx := [(3, { cfg := monoRx })]
      table := [(7, { valid := true, port := 0, dst := 0xEF000001, udp := 5004, stream := 3 })] } }
def port0Up : NetPort := { up := true, gates := some gates2, groups := [(0xEF000001, [])] }
/-- A frame of the stream: six samples of L16 over RTP, UDP and IPv4. -/
def rtpFrame : List Byte :=
  etherFrame (groupMac 0xEF000001) 0x020000000001 0 0 0x0800
    (ipPacket 0x0A000002 0xEF000001 17 34 15 [] (udpPacket 0x0A000002 0xEF000001 5004 5004 (rtpPacket 97 1 48 9 (List.replicate 12 1))))
theorem witness_netChanges :
    ok { code := 0x0701, reach := .here, needs := some Fn.network } ∧
    gives (planNet 0 port0 (entered { code := 0x0701, reach := .here, needs := some Fn.network } rq live)) ∧
    ok (netCmd 0x0703 false) (onNet {}) ∧
    streamRefused (foreseeStreams 0 (entered (netCmd 0x0703 false) rq (onNet {}))) false 4 { monoTx with first := 8, offset := 0 } = none ∧
    ok (netCmd 0x0704 false) (onNet {}) ∧
    streamRefused (foreseeStreams 0 (entered (netCmd 0x0704 false) rq (onNet {}))) true 4 { monoRx with first := 8, paths := [{ port := 1, udp := 5004, dst := 0xEF000001, src := 0 }] } = none ∧
    ok (netCmd 0x0705 false) (onNet {}) ∧ Tbl.has (foreseeStreams 0 (entered (netCmd 0x0705 false) rq (onNet {}))).net.rx 3 ∧
    Tbl.has (foreseeStreams 0 (entered (netCmd 0x0705 false) rq (onNet {}))).net.tx 3 := by decide
theorem witness_netExpert :
    isStandby live = false ∧ isReady live Fn.network ∧ forwards live = false ∧ ok { code := 0x0708, expert := true } ∧
    ok { code := 0x0709, expert := true } ∧ malformedTime nextFrame = false ∧ isNextFrame nextFrame ∧
    gives (planGates 3 1000000 [{ op := 0, states := 255, interval := 1000000 }] (baseTime live (timeValue nextFrame))
      (entered { code := 0x0709, expert := true } rq live)) ∧
    ok { code := 0x070A, expert := true } ∧ ok { code := 0x070B, expert := true } ∧
    tableFault (onNet {}) (Tbl.put (onNet {}).net.table 2047 { valid := true, port := 0, udp := 5006, dst := 0xEF000002, src := 0, stream := 3, path := 1 }) 2047 = false := by
  decide
theorem witness_netReports :
    ok { code := 0x0702 } ∧ ok { code := 0x0706 } (onNet {}) ∧ (Tbl.find (onNet {}).net.rx 3).isSome ∧ (Tbl.find (onNet {}).net.tx 3).isSome ∧
    ok { code := 0x0707 } (onNet {}) ∧ ok { code := 0x0709, expert := true } (onNet port0Up) ∧ (netOf (onNet port0Up) 0).gates = some gates2 ∧
    ok { code := 0x070C, expert := true } ∧ 2040 + 8 ≤ 2048 := by decide
set_option maxRecDepth 20000 in
theorem witness_frameForm : rtpFrame.length = 70 ∧ getLE rtpFrame 66 4 = crc32 (rtpFrame.take 66) := by decide +kernel
theorem witness_framePath :
    (let f := (untag (rtpFrame.take 66)).2
     (untag (rtpFrame.take 66)).1 = 0 ∧ getBE f 12 2 = 0x0800 ∧ ¬ getBE f 0 6 = 0xFFFFFFFFFFFF ∧ getBE f 0 6 / 2 ^ 40 % 2 = 1 ∧
     (portGroups (onNet port0Up) 0).any (fun g => decide (hashBin (groupMac g) = hashBin (getBE f 0 6))) = true ∧
     ((udpIn f).bind fun u => matchEntry (onNet port0Up).net.table 0 u).any (fun x => x.1 == 7 && x.2.stream == 3) = true ∧
     (udpIn f).any (fun u => u.ok && (rtpIn u.body).version == 2 && (rtpIn u.body).ptype == 97 && (rtpIn u.body).payload.length == 12) = true) ∧
    packetSamples (fam live) 0 = 6 := by decide +kernel
theorem witness_netPorts :
    (netOf (onNet port0Up) 0).up ∧ (netOf live 0).up = false ∧ live.sys.tested.contains Fn.network ∧ (netOf live 4).upNext = false ∧
    (netOf (onNet port0Up) 0).nextGates = none ∧ (netOf (onNet { port0Up with nextGates := some gates2 }) 0).nextGates = some gates2 ∧
    (netOf (onNet { port0Up with preState := 1, verifySent := 3 }) 0).preState = 1 ∧ (netOf (onNet { port0Up with preState := 1 }) 0).verifySent < 3 := by
  decide
/-- NET4 at 1 Gb/s that may step down, and at 100 Mb/s below its configured speed. -/
def net4 (x : NetPort) : State := { live with net := { live.net with port := [(4, x)] } }
theorem witness_net4 :
    (let s := net4 { up := true, rate := 1000, cfg := { (netOf live 4).cfg with stepDown := true } }
     (netOf s 4).cfg.stepDown ∧ (netOf s 4).lastUp = none ∧ ∀ c ∈ txCfgs s ++ rxCfgs s, ∀ p ∈ c.paths, p.port ≠ 4) ∧
    (let s := net4 { up := true, rate := 100, cfg := { (netOf live 4).cfg with speed := 2 } }
     (netOf s 4).stepping = none ∧ portMbps (netOf s 4) = 1000) := by decide
def addressed : NetPort := { up := true, cfg := { ip := 7 } }
/-- Addresses: the engine's own on a port, and a sender that is not one of them. -/
theorem witness_addresses :
    (portMac 0, 7) ∈ heldAddrs (onNet addressed) 0 ∧
    ∀ b ∈ heldAddrs (onNet addressed) 0, b.1 ≠ (portMac 0 + 1) % 2 ^ 48 ∧ b.2 ≠ 9 ∧ (b.2 = 7 → b = (portMac 0, 7)) := by
  have h : heldAddrs (onNet addressed) 0 = [(portMac 0, 7)] := by
    have e : mediaAddr (onNet addressed) 0 = (portMac 0, (netOf (onNet addressed) 0).cfg.ip) := if_neg (by decide)
    simp only [heldAddrs, e, if_true]
    rfl
  have m : portMac 0 < 2 ^ 48 := Nat.mod_lt _ (by decide)
  rw [h]
  simp
  omega
theorem witness_protocols :
    (controlAdmits 0 (onNet port0Up)).1 ∧ (netOf (onNet port0Up) 0).igmpVer = 3 ∧ Tbl.find (netOf (onNet port0Up) 0).groups 0xEF000001 = some [] ∧
    Tbl.find (netOf (onNet { port0Up with repeats := [(9, (none, some []))], conflicts := [(0, 5)] }) 0).repeats 9 = some (none, some []) ∧
    Tbl.find (netOf (onNet { port0Up with repeats := [(9, (none, some []))], conflicts := [(0, 5)] }) 0).conflicts 0 = some 5 ∧
    nextRelease (onNet {}) = some (3, 54) ∧ (onNet {}).net.rx = [(3, { cfg := monoRx, st := [{}, {}] })] ∧
    pathPort (onNet port0Up) 3 0 { cfg := monoRx } = 0 := by decide
def alone : State :=
  { onNet {} with
    sys := { live.sys with pairEn := true }
    pair := { live.pair with activeOut := true, state := 4, partnerIn := false, link := { live.pair.link with up := false } }
    net := { (onNet {}).net with aloneSince := some 3 } }
theorem witness_alone :
    alone.net.aloneSince = some 3 ∧ alone.sys.pairEn ∧ alone.pair.activeOut ∧ alone.pair.link.up = false ∧ alone.pair.partnerIn = false ∧
    inCopyOrStep alone ∧ (∀ a ∈ alone.net.reconPeer, a.item ≠ .packet 3 48) := by decide
/-- Loss of signal takes the link down and is kept as a flap (R255, R280). -/
theorem test_linkDown : ((netOf (after (exec (.mediaLinkDown 0) (onNet port0Up))) 0).up) = false := by decide

/-! ### Time, references, PTP and triggers -/

def withTime (f : TimeState → TimeState) (s : State := live) : State := { s with time := f s.time }
def someTime : NetTime := { sec := 1700000000, ns := 5 }
def ptpSlave : PtpFields :=
  { ports := 3, profile := 0, domain := 0, logSync := 0, logAnnounce := 1, announceTimeout := 3, logDelayReq := 0, priority1 := 128
    priority2 := 128, mechanism := 0, role := 1, flags := 0, holdoverLimit := 60, asym := [0, 0, 0, 0, 0] }
def servo : ServoFields :=
  { stepThr := 0, slope := 200, bw := [50, 100, 500, 10000], damping := 100, gains := [(0, 0), (0, 0), (0, 0), (0, 0)], alignTol := 1000, avgWindow := 600 }
def pulse7 : TriggerFields := { time := someTime, period := 0, action := 0, pin := 7, polarity := 0, width := 1000 }
/-- The time is set. -/
def setTime : State := { live with clk := { live.clk with unset := false } }
theorem witness_timeCommands :
    ok { code := 0x0801 } ∧ ok { code := 0x0802 } ∧ ok (timeCmd 0x0803 false) ∧ malformedTime someTime = false ∧ isNextFrame someTime = false ∧
    timeHeld live = false ∧ forwards live = false ∧ ok (timeCmd 0x080B true) ∧ ok (timeCmd 0x080C true) ∧ ok (timeCmd 0x0808 false) ∧
    ok { code := 0x0809 } ∧ isStandby live = false ∧ isReady live Fn.time ∧ ok { code := 0x0807, reach := .here } ∧
    Fx.bit (slotOf live 0).rights 1 = true := by decide
theorem witness_referenceSettings :
    ok { code := 0x0804 } ∧ ok { code := 0x0805 } ∧ ptpSlave.ports < 32 ∧ ok { code := 0x080A, expert := true } ∧ servo.bw.length = 4 ∧
    ok (timeCmd 0x0806 false) setTime ∧
    gives (planTrigger 15 pulse7 (baseTime setTime (timeValue someTime)) (entered (timeCmd 0x0806 false) rq setTime)) ∧
    (trigOf setTime 15).pulseEnd = none := by decide
/-- Port 0 up, its PTP instance a follower of clock 77, within a Sync and a delay request. -/
def follower (p : Ptp) : State :=
  withTime (fun x => { x with ptp := [(0, p)] }) { live with net := { live.net with port := [(0, { up := true })] } }
def led : Ptp := { role := 1, leader := some 77, await := some (4, 1000, 0), req := some (9, 2000) }
theorem witness_ptp :
    Tbl.has (follower led).time.ptp 0 ∧ (netOf (follower led) 0).up ∧ fromLeader 0 77 (follower led) ∧
    (ptpOf (follower led) 0).await = some (4, 1000, 0) ∧ (follower led).time.ptpCfg.p2p = false ∧ (ptpOf (follower led) 0).sm = none ∧
    (ptpOf (follower led) 0).req = some (9, 2000) ∧ (ptpOf (follower { role := 2 }) 0).role = 2 := by decide
/-- A candidate that is valid, and the pulse of a second ago. -/
def candidates : State :=
  withTime (fun x => { x with cand := [(6, { valid := true }), (7, { waiting := true })], sel := some 6, ppsAt := some 0, state := 2 })
    { live with clk := { live.clk with raw := 250000000 } }
theorem witness_references :
    live.time.ppsAt = none ∧ candidates.time.ppsAt = some 0 ∧ candidates.clk.raw = 0 + 250000000 ∧ candidates.time.sel = some 6 ∧
    candidates.time.state ≠ 4 ∧ (candOf candidates 6).valid ∧ (candOf candidates 6).qualified = false ∧ (candOf candidates 7).waiting := by decide
def holding : State := withTime fun x => { x with state := 3, hold := { x.hold with epoch := some 5 } }
def lockedLong : State := withTime (fun x => { x with state := 2, sel := some 6 }) { live with clk := { live.clk with raw := msTicks 3600000 } }
theorem witness_holdover :
    holding.time.state = 3 ∧ holding.time.hold.keep = false ∧ holding.time.hold.epoch = some 5 ∧ lockedLong.time.sel = some 6 ∧
    (candOf lockedLong 6).qualAt + msTicks 3600000 ≤ lockedLong.clk.raw ∧
    live.clk.raw < live.clk.rawOf (live.clk.count + (2 ^ 48 - live.clk.reading : Nat)) ∧
    live.clk.rawOf (live.clk.count + (2 ^ 48 - live.clk.reading : Nat)) < 2 ^ 64 ∧ live.clk.wraps < 2 ^ 32 := by decide
def oneShot : TrigCfg := { time := 3000000000, period := 0, action := 0, pin := 7, low := false, width := 1000 }
def armed (t : Trigger) : State := withTime fun x => { x with trig := [(2, t)] }
theorem witness_triggers :
    (trigOf (armed { cfg := some oneShot, time := 3000000000 }) 2).handed = false ∧
    (armed { cfg := some oneShot }).sys.mladirUp ∧
    (advanceToTime (3000000000 - 2000000000) (armed { cfg := some oneShot, time := 3000000000 })).clk.full ≤ 3000000000 ∧
    (trigOf (armed { cfg := some oneShot, handed := true }) 2).cfg = some oneShot ∧
    (trigOf (armed { cfg := some oneShot, handed := true }) 2).handed ∧ (armed {}).sys.pairEn = false ∧
    (trigOf (armed { pulseEnd := some 4, waiting := some oneShot }) 2).waiting = some oneShot ∧
    (trigOf (armed { pulseEnd := some 4, cfg := some oneShot }) 2).pulseEnd = some 4 := by decide
/-- TIME.SET steps the full time and ends UNSET (R286, R295). -/
theorem test_timeSet : (after (exec (.timeSet rq someTime) live)).clk.full = 1700000000000000005 ∧
    (after (exec (.timeSet rq someTime) live)).clk.unset = false := by decide

/-! ### The pair and the twin link -/

def withPair (f : PairCtl → PairCtl) (s : State) : State := { s with pair := f s.pair }
def withLink (f : Link → Link) (s : State) : State := withPair (fun p => { p with link := f p.link }) s
/-- An active engine in step with its partner over four lanes, at frame 100, and a standby in step. -/
def active : State :=
  withLink (fun k => { k with up := true, rxSet := 15, txSet := 15 })
    (withPair (fun p => { p with state := 4, activeOut := true, placed := true, source := true })
      (liveSys fun x => { x with pairEn := true, pairPref := true, running := true, frameNo := 100 }))
def standby : State := withPair (fun p => { p with activeOut := false, source := false }) active
/-- The standby in another state. -/
def at_ (st step : Nat) (s : State := standby) : State := withPair (fun p => { p with state := st, step := step }) s
def hdr0 : LinkHdr := { again := false, seq := 0, ack := 0, frame := 100 }
theorem witness_pairCommands :
    ok { code := 0x0901 } ∧ isStandby live = false ∧ forwards live = false ∧ ok { code := 0x0902 } ∧ ok { code := 0x0903 } active ∧
    active.sys.pairEn ∧ active.pair.activeOut ∧ active.pair.state = 4 ∧ ok { code := 0x0904, reach := .here } (at_ 2 0) ∧ (at_ 2 0).pair.link.up ∧
    (at_ 2 0).pair.enable ∧ ok { code := 0x0905 } ∧ ok { code := 0x0906, reach := .here, expert := true } (at_ 5 0) ∧
    ok { code := 0x0907, expert := true } := by decide
theorem witness_link :
    (let s := withLink (fun k => { k with up := false }) standby
     s.sys.pairEn ∧ s.pair.link.up = false ∧ 3 ≤ laneCount 7) ∧
    active.pair.link.up ∧ Fx.bit active.pair.link.txSet 3 = true ∧ 3 ≤ laneCount (active.pair.link.txSet - 2 ^ 3) ∧
    (let s := withLink (fun k => { k with rxSet := 7, txSet := 7 }) active
     Fx.bit s.pair.link.rxSet 2 = true ∧ laneCount (s.pair.link.rxSet - 2 ^ 2) < 3 ∧ Fx.bit s.pair.link.txSet 3 = false) ∧
    Fx.bit active.pair.link.rxSet ((bitsOf 4 active.pair.link.rxSet).headD 0) = true ∧ active.pair.link.nextSet = none ∧
    (let s := withLink (fun k => { k with unacked := [(5, .ack, 0, false)], ackDue := true }) active
     s.pair.link.unacked = [(5, .ack, 0, false)] ∧ s.pair.link.ackDue ∧ s.pair.link.queue = []) ∧
    LinkFree active ∧ Arrives hdr0 standby ∧
    32768 ≤ (65535 + 65535 - 5) % 65536 ∧ (5 + 65536 - 4) % 65536 < 32768 := by decide
/-- The handshake of a joiner and of a source, and what a standby takes in SYNCING. -/
theorem witness_handshake :
    Arrives hdr0 (at_ 1 1) ∧ (at_ 1 1).pair.enable ∧ (at_ 1 5).pair.source = false ∧ (at_ 1 5).pair.adopt ∧ (at_ 1 5).pair.step = 5 ∧
    (at_ 1 5 active).pair.source ∧ (at_ 1 5 active).pair.passed < 5 ∧ ([] : List Byte) ≠ [1] ∧ followsPartner standby ∧
    ¬ (standby.pair.state = 1 ∧ standby.pair.step = 6) ∧ standby.pair.activeOut = false ∧ (at_ 3 0).pair.state = 3 ∧
    (takeItem (.block 0x1001 {}) (arrived hdr0 (at_ 3 0))).isSome ∧ 3 ≤ (at_ 3 0).pair.state := by decide
def aTxn : Txn := { id := 5, origin := 1, slot := 0, seq := 7 }
def withTxn (s : State) (acked : Bool := false) : State := withPair (fun p => { p with txns := [{ aTxn with acked := acked }] }) s
theorem witness_inStep :
    Arrives hdr0 standby ∧ standby.pair.state = 4 ∧ frameExpected standby (ownFrame standby 100) 4 = true ∧
    Tbl.find standby.pair.ownRecon (ownFrame standby 100) = none ∧ LinkFree (arrived hdr0 standby) ∧
    ownFrame standby 99 ≤ standby.sys.frameNo ∧ standby.sys.frameNo ≤ ownFrame standby 99 + 2 ∧
    ((withTxn standby).pair.txns.find? fun t => decide (t.id = 5)) = some aTxn ∧ aTxn.action = none ∧
    (withTxn standby).sys.frameNo < ownFrame (withTxn standby) 104 ∧ (withTxn active).pair.activeOut ∧ Arrives hdr0 active ∧
    frameExpected standby (ownFrame standby 100) 64 = true ∧ (standby.pair.sigs.find? fun x => x.frame = ownFrame standby 100) = none := by decide
/-- A packet that the partner fetches. -/
def holdsPacket : State :=
  let c : StreamCfg := { first := 0, channels := 1, enc := 0, ptime := 0, ptype := 97, paths := [] }
  { active with net := { active.net with rx := [(3, { cfg := c, placed := [{ count := 48, samples := 6, crc := 1, path := 0, payload := [1, 2] }] })] } }
theorem witness_fetch : itemWords holdsPacket (.packet 3 48) = some [1, 2] := by decide
theorem witness_pairTimers :
    (at_ 1 6).pair.step = 6 ∧
    (let s := withPair (fun p => { p with reason := 6 }) (at_ 2 0)
     s.pair.state = 2 ∧ s.pair.reason = 6 ∧ s.pair.link.up ∧ s.pair.enable) ∧
    (at_ 5 0).pair.state = 5 ∧
    (let s := withPair (fun p => { p with restoreAt := some 0 }) (liveSys (fun x => { x with pairPref := false }) active)
     s.pair.restoreAt = some 0 ∧ s.pair.state = 4 ∧ s.pair.activeOut ∧ s.sys.pairPref = false ∧ s.pair.autoReturn) ∧
    (let s := withPair (fun p => { p with placed := false, lowTicks := 1 }) (liveSys (fun x => { x with pairPref := false }) (at_ 0 0))
     s.sys.pairEn ∧ s.pair.activeOut = false ∧ s.pair.partnerIn = false ∧ s.pair.state ≠ 2 ∧ isReady s Fn.ports ∧ isReady s Fn.router ∧
     1 ≤ s.pair.lowTicks) ∧
    (let s := withPair (fun p => { p with lowTicks := 1 }) (at_ 0 0)
     s.pair.placed ∧ s.pair.partnerIn = false ∧ s.pair.state ≠ 4 ∧ s.pair.stepAt = none) := by decide
/-- A loss of heartbeats takes the link down (R347). -/
theorem test_heartbeatTimeout : (after (exec (.heartbeatTimeout false) standby)).pair.state = 0 := by decide
/-- A planned switch-over is stated four frames ahead (R333). -/
theorem test_switch : (after (exec (.pairSwitch rq 0) active)).pair.switchAt = some (applyFrame active) := by decide

/-! ### Faults, self-test and supervision -/

def withFlt (f : FaultState → FaultState) (s : State := live) : State := { s with flt := f s.flt }
def withSupv (f : Supv → Supv) (s : State := live) : State := { s with supv := f s.supv }
theorem witness_records :
    K.all.contains 0x23 ∧ K.all.contains 0x30 ∧ isCondition 0x30 ∧ Tbl.find live.flt.table (faultKey (0x100 % 4096) 0x23) = none ∧
    live.flt.table.length < 256 ∧ (withPair (fun p => { p with requestAt := some 4 }) live).pair.requestAt = some 4 ∧
    live.sys.mladirUp ∧ live.sys.inReset = false ∧ live.sys.mladirRestarting = false := by decide
def resetting : State :=
  withFlt fun x => { x with resets := [0x100], table := [(faultKey 0x100 0x23, { sev := 3, resetting := true, safe := true })] }
theorem witness_functionReset :
    resetting.flt.resets.contains 0x100 ∧ resetting.flt.resetsDue.contains 0x100 = false ∧ 0x100 ≠ Src.mladir ∧
    (Tbl.find resetting.flt.table (faultKey 0x100 0x23)).any (·.resetting) := by decide
/-- Bank 0 migrates to the spare bank; the spare frond is tested as the last item. -/
def migratingBank : State := withSupv (fun x => { x with migrating := some 0 }) (liveSys fun x => { x with spareBank := some 24 })
def testingSpare : State :=
  withSupv (fun x => { x with testing := some 31, step := some 3 }) (liveSys fun x => { x with spareFrond := some 31 })
theorem witness_selfTest :
    (withSupv fun x => { x with march := some (576, 0, 7) }).supv.march = some (576, 0, 7) ∧ migratingBank.supv.migrating = some 0 ∧
    migratingBank.sys.spareBank.isSome ∧ (logicalOf migratingBank 0).isSome ∧ migratingBank.supv.step = none ∧ testingSpare.supv.testing = some 31 ∧
    testingSpare.sys.spareFrond = some 31 ∧ testingSpare.supv.step = some 3 ∧ testingSpare.supv.todo = [] := by decide
/-- The time is set and bank 24 is spare. -/
def withSpare : State := liveSys (fun x => { x with spareBank := some 24 }) setTime
theorem witness_window :
    withSpare.supv.enable ∧ withSpare.supv.step = none ∧ followsPartner withSpare = false ∧ forwards withSpare = false ∧ withSpare.clk.unset = false ∧
    inMaint withSpare = false ∧ safeInForce withSpare = false ∧ withSpare.supv.left = [] ∧ withSpare.sys.spareBank.isSome ∧ withSpare.supv.migrating = none ∧
    (nextOf 25 (fun b => (logicalOf withSpare b).isSome) withSpare.supv.lastBank).isSome ∧ live.clk.unset ∧ live.supv.enable ∧
    (withSupv fun x => { x with step := some 2 }).supv.step = some 2 := by decide
/-- Detector 9 is enabled and has completed a block with a pilot in it. -/
def detecting : State :=
  let s := withSupv fun x => { x with zone := [(9, { state := 2, calOn := true, calN := 14 })] }
  { s with blk := { s.blk with pilot := [(9, { fresh := true, present := true })] }, page := { s.page with active := [(0x809, [(0, 3)])] } }
theorem witness_detector :
    (Tbl.find detecting.blk.pilot 9).any (fun d => d.fresh && d.present) ∧ (zoneOf detecting 9).calOn ∧ (zoneOf detecting 9).calN < 15 ∧
    isDetector detecting 9 ∧ (zoneOf detecting 9).state ≠ 0 := by decide
def aged : State :=
  { live with pwr := { live.pwr with ageing := { live.pwr.ageing with hour := [700000], tjN := 1, tjSum := 5000, day := [700000] } } }
theorem witness_ageing :
    aged.pwr.ageing.hour ≠ [] ∧ (∀ v ∈ aged.pwr.ageing.hour, v ≠ 680000 ∧ v ≠ 860000) ∧ aged.pwr.ageing.direct = false ∧ aged.pwr.ageing.tjN ≠ 0 ∧
    aged.pwr.ageing.day ≠ [] ∧ aged.pwr.ageing.v90ref = none := by decide
theorem witness_faultCommands :
    ok { code := 0x0A01 } ∧ ok { code := 0x0A02 } ∧ ok { code := 0x0A03, reach := .here } ∧ live.flt.full = none ∧
    ok { code := 0x0A04, reach := .shared } ∧ forwards live = false ∧ ok { code := 0x0A05, reach := .here } ∧ ok { code := 0x0A06, reach := .shared } := by
  decide
theorem witness_supervision :
    ok { code := 0x0A07, reach := .shared, needs := some Fn.supervision } detecting ∧
    ok { code := 0x0A08, reach := .shared, needs := some Fn.supervision } detecting ∧ ok { code := 0x0A09 } ∧
    ok { code := 0x0A0A, reach := .shared, needs := some Fn.supervision } setTime ∧ isNextFrame someTime = false ∧ malformedTime someTime = false ∧
    ok { code := 0x0A0D, expert := true } := by decide
/-- The time is set in the maintenance state of slot 0. -/
def maintTime : State := liveSys (fun x => { x with maint := some 0 }) withSpare
theorem witness_tests :
    (nextOf 25 (fun b => (logicalOf maintTime b).isSome) maintTime.supv.lastBank).isSome ∧
    ok { code := 0x0A0B, reach := .shared, expert := true, maint := true, needs := some Fn.supervision } maintTime ∧ forwards maintTime = false ∧
    maintTime.supv.asked = none ∧ safeInForce maintTime = false ∧
    ok { code := 0x0A0C, reach := .here, expert := true, maint := !isSpareMemory maintTime 576 } maintTime ∧ isMemory 576 ∧
    maintTime.supv.march = none ∧ maintTime.supv.testing = none ∧
    ok { code := 0x0A0E, reach := .here, expert := true, maint := true } maintTime ∧ injectable 1 576 10 ∧ injectable 4 0 0 := by decide
/-- A kind's limit of 64 (R38). -/
theorem test_retryLimit : (after (exec (.faultRetryLimit rq 1 90) live)).flt.retryLimit = 64 := by decide
theorem test_watchdog : (after (exec (.watchdog 0x180) live)).flt.latest.kind = K.watchdog := by decide

/-! ### The Peat store -/

def withPeat (f : Peat → Peat) (s : State := live) : State := { s with peat := f s.peat }
/-- Controller 3 is in use; namespace 0 on it belongs to group 2. -/
def oneDrive : State := withPeat fun x => { x with ctrl := [(3, { state := 1, linkUp := true, queues := 4, depth := 64, capacity := 4000000000000 })] }
def oneNs : State := withPeat (fun x => { x with ns := [(0, { ctrl := 3, group := 2, copy := 0, segCode := 0, base := 0, extents := 3000000 })] }) oneDrive
def withCmd (c : NvmeCmd) : State := withPeat (fun x => { x with cmds := [(5, c)], clip := [(7, { rate := 1, samples := 48000, version := 1, crc := 0 })] }) oneNs
def aFetch : NvmeCmd := { cls := 0, ctrl := 3, opcode := 2, addr := 0, len := 4096, for_ := .fetch 7 0 0, gen := 2 }
theorem witness_completion :
    Tbl.find (withCmd aFetch).peat.cmds ((2 * 4096 + 5) % 4096) = some aFetch ∧ aFetch.gen = (2 * 4096 + 5) / 4096 ∧
    Tbl.has (withCmd aFetch).peat.clip 7 ∧ (withCmd aFetch).peat.waiting = [] ∧ (withCmd aFetch).peat.waits = [] ∧ (withCmd aFetch).peat.storing = [] ∧
    (ctrlOf (withCmd aFetch) 3).resets = [] ∧ ctrlTakes (withCmd aFetch) 3 ∧ (ctrlOf (withCmd aFetch) 3).resetting = false ∧
    aFetch.aborted = none ∧ Tbl.find (withCmd { aFetch with aborted := some 4 }).peat.cmds 5 = some { aFetch with aborted := some 4 } := by decide
def aDrive : Identify :=
  { version := 0x10400, nvm := true, mqes := 63, sgl := true, dataSize := 512, metaSize := 0, mdtsKiB := 64, blocks := 8000000000, nsid := 1
    dealloc := true, queues := 4 }
theorem witness_drives :
    (let s := withPeat fun x => { x with ctrl := [(3, { state := 1, resetting := true })] }
     (ctrlOf s 3).resetting ∧ (ctrlOf s 3).state = 1 ∧ (ctrlOf s 3).linkUp = false) ∧
    (ctrlOf oneNs 3).state = 1 ∧ (ctrlOf oneNs 3).linkUp ∧ Tbl.find oneNs.flt.violations (faultKey (Src.nvme 3) K.peatCmdError) = none ∧
    (let s := withPeat fun x => { x with ctrl := [(63, { linkUp := true })] }
     (ctrlOf s 63).linkUp ∧ (ctrlOf s 63).state ≠ 1 ∧ (s.peat.ns.find? fun e => decide (e.2.ctrl = 63)) = none) ∧
    bestLabel [] [] = none ∧ supported aDrive ∧ supported { aDrive with dataSize := 520 } = false ∧
    (Tbl.find (withPeat fun x => { x with cursor := [(4, { group := 2, copy := 0, token := 1 })] }).peat.cursor 4).any (fun c => c.expired == 0) := by
  decide
def peatHere (code : Nat) : Cmd := { code := code, reach := .here, needs := some Fn.peat }
theorem witness_store :
    ok { code := 0x0B01 } ∧ ok (peatHere 0x0B02) oneDrive ∧ oneDrive.peat.ns = [] ∧ formatRefusal 3 2 0 0 0 false oneDrive = none ∧
    ok (peatHere 0x0B03) oneNs ∧ (∃ e ∈ oneNs.peat.ns, e.2.group = 2) ∧ sharesShort oneNs (groupsAfter oneNs 2047 1 2) = false ∧
    ok { code := 0x0B03, reach := .shared, needs := some Fn.peat } oneNs ∧ forwards oneNs = false ∧ ok (peatHere 0x0B04) ∧
    ok { code := 0x0B05, needs := some Fn.peat } oneNs ∧ ok (peatHere 0x0B05) oneNs ∧ Tbl.wf oneNs.peat.ns = true ∧
    (holdsOf oneNs 2).length < 256 ∧ ok { code := 0x0B06, needs := some Fn.peat } oneNs ∧ nsOfCopy oneNs 2 0 ≠ [] := by decide
theorem witness_readOut :
    ok (peatHere 0x0B07) oneNs ∧ (cursorStart (writeOf oneNs 2) 0 1 0 1).isSome ∧
    ((List.range 16).find? fun n => !cursorAlive oneNs n) = some 0 ∧
    (let s := withPeat (fun x => { x with cursor := [(4, { group := 2, copy := 0, token := 1 })] }) oneNs
     ok { code := 0x0B08 } s ∧ (Tbl.find s.peat.cursor 4).any (fun c => c.expired == 0) ∧ (writeOf s 2).a.lost = false) ∧
    ok (peatHere 0x0B09) ∧ ok { code := 0x0B11, expert := true, reach := .here, needs := some Fn.peat } ∧
    (let s := liveSys (fun x => { x with maint := some 0 }) oneDrive
     ok { code := 0x0B12, expert := true, maint := true, reach := .here, needs := some Fn.peat } s ∧ ctrlTakes s 3 ∧ tagFree s 2 ∧
     s.peat.waiting = [] ∧ lowestTag s = some 0) := by decide +kernel
/-- A clip at the frame rate, and a voice that plays it. -/
def withClip (v : Voice := {}) : State :=
  withPeat (fun x => { x with clip := [(7, { rate := live.sys.rate, samples := 48000, version := 1, crc := 0 })], voice := [(4, v)] }) oneNs
def playing : State := withClip { state := 2, queue := [(7, 0)] }
theorem witness_clips :
    ok { code := 0x0B0A, reach := .shared, needs := some Fn.peat } ∧ (live.mbx.objects.filter fun e => e.2.slot = 0).length < 2 ∧
    ok { code := 0x0B0B, reach := .shared, needs := some Fn.peat } (withClip) ∧ clipInUse (withClip) 7 = false ∧
    ok { code := 0x0B0C, needs := some Fn.peat } ∧ ok (peatHere 0x0B0D) (withClip) ∧
    ((Tbl.find (withClip).peat.clip 7).any fun c => pinFits (withClip) c && !c.pinned) ∧
    ok { code := 0x0B0E, reach := .shared, needs := some Fn.router } (withClip) ∧ isReady (withClip) Fn.peat ∧ (voiceOf (withClip) 4).state = 0 ∧
    fam (withClip) ≠ 2 ∧ playPending (withClip) 4 = false ∧ cacheFits (withClip) 7 ∧ Tbl.has (withClip).peat.playFor 4 = false := by decide
theorem witness_queue :
    ok { code := 0x0B0F, reach := .shared, needs := some Fn.router } playing ∧ (voiceOf playing 4).state ≠ 0 ∧ (voiceOf playing 4).stop = none ∧
    (voiceOf playing 4).next = none ∧ (voiceOf playing 4).queue.length < 8 ∧
    (lastClip playing (voiceOf playing 4)).any (fun x => decide (min (min 256 (min x.1 48000)) 300 + playing.sys.b ≤ x.2)) ∧
    ok { code := 0x0B10, reach := .shared, needs := some Fn.router } playing := by decide
/-- A pinned clip keeps its pin (R405). -/
theorem test_pin : ((after (exec (.peatPin rq 7 1) (withClip))).peat.clip.map fun e => e.2.pinned) = [true] := by decide
theorem test_retention : (after (exec (.peatRetention rq 1 5000) live)).peat.retention = 3650 := by decide

/-! ### The EXPERT commands -/

/-- A task image of one instruction, one task and one input pin (17, Task images). -/
def imageBody : List Byte :=
  let task : List Byte := u32 0 ++ u8 3 ++ u8 0 ++ u16 0 ++ u32 100 ++ u32 0 ++ u32 100 ++ u32 0 ++ u32 0xFFFFFFFF ++ u32 0xFFFFFFFF ++
    u16 16 ++ u16 16 ++ u32 0 ++ u16 0 ++ u16 0 ++ u16 0 ++ u8 1 ++ u8 0 ++ u32 0 ++ u32 0 ++ List.replicate 8 0
  let heads : List Byte := u16 1 ++ u16 0 ++ u32 112 ++ u32 6 ++ u32 1 ++ (u16 4 ++ u16 0 ++ u32 120 ++ u32 64 ++ u32 1) ++
    (u16 5 ++ u16 0 ++ u32 184 ++ u32 8 ++ u32 1)
  heads ++ List.replicate 8 0 ++ task ++ List.replicate 8 0
def imageOf (crc : Nat) : List Byte :=
  [0x46, 0x52, 0x49, 0x4D] ++ u16 2 ++ u16 64 ++ u32 192 ++ u32 9 ++ u32 1 ++ u8 7 ++ u8 0 ++ u16 3 ++ u16 1 ++ u16 1 ++ List.replicate 32 0 ++ u32 crc ++
    imageBody
def expertImage : List Byte := imageOf (crc32c (imageOf 0))
def withImage : State :=
  { live with frond := { live.frond with
      images := [(9, { id := 9, version := 1, bytes := expertImage, code := 0x2000, codeLen := 1, xBase := 0, xLen := 0, yBase := 0, yLen := 0 })]
      tasks := [(0xC005, { oneTask with firstPage := 0xC005, params := 8 })] } }
def fronds (code : Nat) : Cmd := { code := code, reach := .shared, expert := true, needs := some Fn.fronds }
theorem witness_expertPages :
    ok { code := 0x0C01, expert := true } ∧ ok { code := 0x0C02, reach := .shared, expert := true, needs := some Fn.router } ∧
    named live 0x4000 ∧ named live 0 ∧ isSource live 0x4000 = false ∧ isSource live 0 ∧ isHeld live (0x4000 / 256) = false ∧
    shadowConnections live < 65536 ∧ ok { code := 0x0C03, expert := true } ∧ laneRun live 511 2047 1 ∧
    ok { code := 0x0C04, reach := .shared, expert := true, needs := some Fn.bracken } ∧ ok (fronds 0x0C05) withImage ∧
    (Tbl.find withImage.frond.tasks 0xC005).any (fun k => decide (7 + 1 ≤ k.params)) ∧
    ok { code := 0x0C06, expert := true } withImage ∧ (coefWords withImage 0xC005).any (fun ws => decide (0 + 1 ≤ ws.length)) ∧
    ok { code := 0x0C07, expert := true } ∧ pageExists live 0x1001 := by decide
/-- A record of the trim page of input strip 0. -/
theorem witness_pageWrite :
    let c : Cmd := { code := 0x0C08, reach := .shared, expert := true, needs := some (pageFunction 0x1001) }
    ok c ∧ (match recordsOf 1 (recordBytes live 0x1001 (activeRec live 0x1001)) with
      | some ([p], []) => p.whole && decide (p.page = 0x1001) && ascending p.items &&
          gives (takeRecords (entered c rq live) false [p]) (fun x => gives (planRecords x.1 { st := entered c rq live }))
      | _ => false) = true := by decide
theorem witness_images :
    ok (fronds 0x0C09) ∧ ok (fronds 0x0C0A) withImage ∧ Tbl.has withImage.frond.images 9 ∧ imageUsers withImage 9 = [] ∧
    ok { code := 0x0C0B, expert := true } ∧ ok { code := 0x0C0E, expert := true } ∧ ok { code := 0x0C0F, expert := true } ∧
    ok { code := 0x0C10, expert := true } ∧ 4095 + 1 ≤ frondWords 12 := by decide
theorem witness_imageForm : gives (parseImage expertImage) (fun p => decide (p.tasks.length = 1) && decide (p.pins = [{ dir := 0, flags := 0, label := 0 }])) = true := by
  decide +kernel
theorem witness_instances :
    ok (fronds 0x0C0C) withImage ∧ gives (planInstance 9 (entered (fronds 0x0C0C) rq withImage)) ∧ ok (fronds 0x0C0D) withImage ∧
    (Tbl.find withImage.frond.tasks 0xC005).any (fun k => k.live && decide (k.firstPage = 0xC005)) ∧
    gives (planDelete ((withImage.frond.tasks.filter fun e => e.2.firstPage = 0xC005).map (·.1)) (pinsOf withImage 0xC005) false (.instDrop 0xC005)
      (entered (fronds 0x0C0D) rq withImage)) := by decide +kernel
/-- A read of frond 3's program memory waits for its core. -/
def withBell : State :=
  { live with frond := { live.frond with bells := [{ frond := 3, core := 0, m := 12, offset := 0, count := 2, slot := 0, seq := 7 }] } }
def maint0 : State := liveSys fun x => { x with maint := some 0 }
theorem witness_memories :
    (withBell.frond.bells.find? fun b => decide (b.frond = 3) && decide (b.core = 0)).isSome ∧ coreFree withBell 3 0 ∧
    ok { code := 0x0C11, expert := true } ∧ rangeRefusal 0 0x7FFFF8 8 = none ∧ poisoned live 0 0x7FFFF8 8 = false ∧ rangeRefusal 1 8 4 = none ∧
    poisoned live 1 8 4 = false ∧ ok { code := 0x0C12, reach := .here, expert := true, maint := true } maint0 ∧
    ok { code := 0x0C13, reach := .here, expert := true } ∧ ok { code := 0x0C14, expert := true } ∧
    ok { code := 0x0C15, reach := .here, expert := true } ∧ (Tbl.getD (groupOf live 5).slots 255 (63, false)).2 = false ∧
    (defaultPriority (1 / 7) (1 % 7)).isSome := by decide
theorem test_memWrite :
    ((after (exec (.expertMemWrite rq 0 8 4 [1, 2, 3, 4]) maint0)).mem.sram.readBytes 7 6) = [0, 1, 2, 3, 4, 0] := by decide

/-! ### Power, reset and boot -/

def withPwr (f : Power → Power) (s : State := live) : State := { s with pwr := f s.pwr }
/-- The supply is up, the collector has started. -/
def powered : State := withFlt (fun x => { x with started := true }) (withPwr fun p => { p with aon := true, up := true })
theorem witness_power :
    powered.pwr.aon ∧ powered.pwr.feeds.length = 2 ∧ powered.pwr.stages.length = 8 ∧ powered.pwr.up ∧
    (let s := withPwr (fun p => { p with feeds := [{ badSince := some 0 }, { lost := true, goodSince := some 0 }] }) powered
     (feedOf s (Fx.b2n false)).badSince = some 0 ∧ (feedOf s (Fx.b2n false)).lost = false ∧ (feedOf s (Fx.b2n true)).goodSince = some 0 ∧
     (feedOf s (Fx.b2n true)).lost ∧ s.pwr.gasp = none) ∧
    powered.sys.inReset = false ∧ 12500 ≤ (withPwr (fun p => { p with tj := 12500 }) powered).pwr.tj ∧ powered.sys.mladirUp ∧
    (withFlt (fun x => { x with started := true }) setTime).clk.unset = false := by decide
/-- RESET_N low; a boot ROM that has offered host delivery. -/
def resetLow : State := liveSys (fun x => { x with resetLow := true, inReset := true }) (withPwr fun p => { p with aon := true })
def offered : State := withFlt (fun x => { x with started := false }) (withPwr fun p => { p with bootState := 1, bootFirst := true })
theorem witness_boot :
    (liveSys fun x => { x with resetLow := false }).sys.resetLow = false ∧ resetLow.sys.resetLow ∧ resetLow.pwr.aon ∧ resetLow.pwr.gasp = none ∧
    (withPwr fun p => { p with up := true }).clk.pllLocked = false ∧ acceptedXo 24576000 = some 24576000 ∧
    offered.flt.started = false ∧ offered.sys.inReset = false ∧ 1 ≠ offered.pwr.bootAck ∧
    chunkFault offered.pwr 8 0 4 (crc32c [1, 2, 3, 4]) [1, 2, 3, 4] = 0 ∧ offered.pwr.bootAccepted + 4 ≠ 8 ∧
    chunkFault offered.pwr 8 4 4 (crc32c [1, 2, 3, 4]) [1, 2, 3, 4] ≠ 0 ∧ offered.pwr.bootFirst ∧ powered.flt.started ∧
    isReady powered Fn.fronds ∧ 100 ≤ ({ powered with frond := { powered.frond with slackFrames := 100 } } : State).frond.slackFrames ∧
    (let s := withPwr fun p => { p with trialAt := some 4, onTrial := true, running := 1 }
     s.pwr.trialAt = some 4 ∧ s.pwr.onTrial ∧ s.pwr.running ≤ 1) := by decide
theorem witness_powerCommands :
    ok { code := 0x0D01 } ∧ ok { code := 0x0D02, reach := .here } ∧ ok { code := 0x0D03 } ∧ ok { code := 0x0D04 } ∧
    ok { code := 0x0D05, reach := .here, expert := true } ∧ 680000 ≤ 860000 ∧ (860000 - 680000) % 2500 = 0 ∧ ok { code := 0x0E01, reach := .here } ∧
    (slotOf live 0).path ≠ 2 ∧ Tbl.has withObject.mbx.keys 3 ∧ ok { code := 0x0E02, reach := .here } ∧ live.mbx.objects.length < 8 ∧
    ok { code := 0x0E03 } ∧ ok { code := 0x0E04, reach := .here, expert := true } ∧ ok { code := 0x0E05, expert := true } := by decide
/-- A firmware image of a body of four bytes, signed with a key of this test, and its slot. -/
def signedImage : List Byte :=
  let head : List Byte := [0x4D, 0x4C, 0x46, 0x57] ++ u16 1 ++ u8 2 ++ u8 0 ++ List.replicate 12 0 ++ u32 4 ++ List.replicate 8 0 ++ sha384 [1, 2, 3, 4]
  head ++ [0x04] ++ be 48 0xbfc5d6685414961c878eb91d5bf31db70379a09b8593852215918603a536cddc897a22a2f13e9be544ac27bf604c558e ++
    be 48 0x55ec5fc3b45cbfa046d937f90de5dc19e04581c6ad774801b17abc67481048cad25027b00c834cd53df64970809be006 ++ List.replicate 11 0 ++
    be 48 0xb5ee2e5743c5c41b5f52d258bb974a4a63fbdb9eaa816003ba6a77f20fa18e5b078c07bfbd30d42713088e1b1c0cfca3 ++
    be 48 0xe38a0a64aadb20143c718ff09f0d5bf349fe6f6af098d7aee8a6040e0018c8ff10a6b3d2ef0a27e420d4ad50efa74c80 ++ List.replicate 228 0 ++ [1, 2, 3, 4]
theorem witness_imageSelect :
    slotValid { live.pwr with keyHash := some 0xd8d19dc1ffbbe17b0339d2513a785e44e109ef4b233eadd80aabdcf12c252132adcf2f6387bd29ae9c8e48bec8fd7980, slotB := { bytes := signedImage } } 1 = true := by
  decide +kernel
/-- Two of three samples high is high (R522). -/
theorem test_straps : (after (exec (.resetNRelease 6 1 [] []) resetLow)).sys.pairEn = true ∧
    (after (exec (.resetNRelease 6 1 [] []) resetLow)).sys.pairPref = false := by decide

/-! ### Registers, semaphores, the arbiter and DMA -/

def withInt (f : IntState → IntState) (s : State := live) : State := { s with int := f s.int }
def withArb (f : Arb → Arb) (s : State := live) : State := { s with arb := f s.arb }
def msix : State := withInt fun x => { x with msixOn := true, msixEnable := 0x3FFFFF, masked := 2, pba := 2 }
theorem witness_registers :
    live.mbx.isOpen ∧ (slotOf live 1).state = 0 ∧ (∀ d < 1, (slotOf live d).state ≠ 0) ∧ (slotOf live 0).state = 1 ∧ (slotOf live 0).path = 0 ∧
    live.sys.maint ≠ some 0 ∧ (∀ l ∈ live.scene.lists, l.2.slot ≠ 0) ∧ (∀ c < 8, (slotOf State.reset c).state = 0) ∧
    Fx.bit msix.int.status0 21 = false ∧ Fx.bit msix.int.msixEnable 21 = true ∧ msix.int.msixOn ∧ Fx.bit msix.int.masked 21 = false ∧
    Fx.bit msix.int.masked 1 = true ∧ (∀ h ∈ latchedWith 0x10, h < 65536) := by decide
/-- Group 2, whose table begins with requester 3; its queue with one burst; a burst that has waited a second. -/
def group2 (g : Group) : State := withArb (fun x => { x with group := [(2, g)] }) { live with clk := { live.clk with raw := 250000000 } }
def readBurst : Burst := { req := 3, turns := 1, since := 0 }
theorem witness_arbiter :
    (groupOf (group2 { slots := [(0, (3, false))] }) 2).entry = 3 ∧ (groupOf (group2 { slots := [(0, (3, false))] }) 2).running = none ∧
    (groupOf (group2 { slots := [(0, (3, false))] }) 2).queue = [] ∧ (groupOf (group2 { slots := [(0, (3, false))] }) 2).frozen = false ∧
    Memory.wf live.mem.bulk ∧ (groupOf (group2 { frozen := true }) 2).frozen ∧ (groupOf (group2 { queue := [readBurst] }) 2).queue = [readBurst] ∧
    usTicks live.arb.starveUs < (group2 {}).clk.raw - readBurst.since ∧ inMaint maint0 ∧ inMaint live = false := by decide
def withSem (x : Sem) : State := withArb fun a => { a with sem := [(130, x)] }
/-- M3 and M6 ask for the control SRAM, whose target granted M3 last; both have the default priorities of R421. -/
theorem witness_grant :
    (grantNext live 1 [{ master := 4, since := 0 }, { master := 3, since := 0 }]).map (·.master) = some 4 ∧
    (grantNext (onBus 5 4 live) 4 [{ master := 5, since := 0 }, { master := 6, since := 0 }]).map (·.master) = some 6 := by decide
theorem witness_semaphores :
    (semOf (withSem { held := true, master := 2, tag := 9 }) 130).held ∧ (semOf (withSem { held := true, master := 2, tag := 9 }) 130).master = 2 ∧
    (semOf (withSem { held := true, master := 2, tag := 9 }) 130).tag = 9 ∧ (semOf live 255).held = false ∧
    (semOf (withSem { held := true, master := 2, tag := 9 }) 130).tag < 256 := by decide
theorem witness_abandoned : ∀ m x, (m, x) ∈ (withSem { held := true, master := 2, tag := 9 }).arb.sem →
    x = semOf (withSem { held := true, master := 2, tag := 9 }) m := by
  intro m x h
  have e : m = 130 ∧ x = { held := true, master := 2, tag := 9 } := by simpa [withSem, withArb] using h
  obtain ⟨rfl, rfl⟩ := e
  decide
/-- Channel 1 runs a descriptor in control SRAM that copies four bytes into the bulk store. -/
def aDescriptor : List Byte := le 4 (2 ^ 31 + 2 ^ 22) ++ le 4 4 ++ le 8 0x10000100 ++ le 8 0x40 ++ le 4 0 ++ le 4 0
def copies : State :=
  withArb (fun a => { a with dma := [(1, { state := 1, current := 0x10000200 }), (13, { desc := 0x20000020 })] })
    (liveSys (fun x => { x with remap := true })
      { live with mem := { live.mem with sram := (live.mem.sram.writeBytes 0x100 [9, 8, 7, 6]).writeBytes 0x200 aDescriptor } })
theorem witness_channels :
    (dmaOf copies 13).state ≠ 1 ∧ 0x20000000 ≤ (dmaOf copies 13).desc ∧ (dmaOf copies 13).desc < 0x20010000 ∧ (dmaOf copies 13).desc % 32 = 0 ∧
    (dmaOf live 12).desc < 0x20000000 ∧ (dmaOf live 15).state ≠ 1 ∧ (dmaOf copies 1).state = 1 ∧ (dmaOf copies 1).abort = false ∧
    (descOf (descBytes copies 0x10000300)).own = false ∧ copies.sys.remap ∧ copies.mem.poison = [] ∧ Memory.wf copies.mem.sram := by decide
theorem witness_descriptor :
    let d := descOf (descBytes copies 0x10000200)
    (dmaOf copies 1).current = 0x10000200 ∧ d.own = true ∧ d.mode = 0 ∧ d.rev = false ∧ d.chain = false ∧ d.resv = 0 ∧ d.index = 0 ∧ d.src = 0 ∧
    d.dst = 1 ∧ d.esize = 4 ∧ d.count = 4 ∧ 0x10000000 ≤ d.srcA ∧ d.srcA + 4 ≤ 0x10800000 ∧ d.dstA + 4 ≤ 0x0C000000 := by decide
theorem test_copy : (after (exec (.dmaDescriptorEnd 1 [] none 0) copies)).mem.bulk.readBytes 0x40 4 = [9, 8, 7, 6] := by decide
/-- The set alias sets the bytes that the enables name (R434). -/
theorem test_setAlias : ((after (exec (.setAliasWrite 0x101 0xF0F0F0F0 5) copies)).mem.sram.readBytes 0x100 4) = [0xF9, 8, 0xF7, 6] := by decide

/-! ### Messages and requests -/

theorem witness_rings :
    takes live 0 ∧ (slotOf live 0).path ≠ 2 ∧ (slotOf live 0).reqProd = 0 ∧ (slotOf live 0).reqCons = 0 ∧
    ∀ d < 8, d ≠ 0 → (slotOf live d).state ≠ 1 ∨ (slotOf live d).path = 2 ∨ (slotOf live d).reqProd = (slotOf live d).reqCons := by decide
/-- Session 9 of slot 1. -/
theorem witness_datagram :
    (Tbl.find withObject.mbx.sessions 9).any (fun x => decide (x.keyId = 3) && decide (x.ip = 1) && decide (x.port = 2) && decide (x.slot = 1) &&
      counterNew x 1 && counterNew x (2 ^ 64 - 1)) ∧ withObject.mbx.isOpen ∧ withObject.sys.mladirUp := by decide
theorem witness_progress :
    (slotOf (liveMbx fun x => { x with slots := [(0, { state := 1, rights := 15, work := [(5, 0x0B02, none)] })] }) 0).work = [(5, 0x0B02, none)] := by
  decide
/-- A whole clip of two samples in an open object, and a store whose system group has a namespace. -/
def wholeClip : State :=
  let bytes : List Byte := [1, 2, 3, 4, 5, 6]
  let s := liveMbx fun x => { x with objects := [(4, { slot := 0, kind := .clip 7 0, length := 6, data := (List.range 6).map fun i => (i, bytes.getD i 0) })] }
  withPeat (fun x => { x with
    ctrl := [(3, { state := 1, linkUp := true, queues := 4, depth := 64, capacity := 4000000000000 })]
    ns := [(0, { ctrl := 3, group := 0, copy := 0, segCode := 0, base := 0, extents := 4096 })] }) s
theorem witness_commit :
    ok { code := 0x0111, reach := .shared } wholeClip ∧ (Tbl.find wholeClip.mbx.objects 4).isSome ∧ isReady wholeClip Fn.peat ∧
    clipInUse wholeClip 7 = false ∧ Tbl.find wholeClip.peat.clip 7 = none ∧ systemCopies wholeClip ≠ [] ∧ objectRoom wholeClip ∧
    forwards wholeClip = false := by decide
/-- A clip whose one copy has been written and is being read back; what the device returns. -/
def stored : State :=
  withPeat (fun x => { x with
    storing := [{ kind := 1, id := 7, version := 1, tag := 0, body := [1, 2, 3] }], objects := [(0, 1, 7, 1)]
    cmds := [(5, { cls := 2, ctrl := 3, opcode := 2, addr := 0, len := 67, for_ := .object 1 7 1, gen := 1 })] }) wholeClip
def backRead : Completion :=
  { ctrl := 3, cid := 4101, status := 0, badPhase := false, entry := [], bytes := (objectBytes stored 1 7 1).getD [] }
theorem witness_readBack :
    objectBytes stored 1 7 1 = some backRead.bytes ∧ Tbl.find stored.peat.objects 0 = some (1, 7, 1) ∧
    ownsExtent stored 0 0 0 ∧ stored.peat.waiting = [] ∧ stored.peat.waits = [] := by decide +kernel
def readCmd : Cmd := { code := 0x0802 }
/-- Slot 0 with a request seen before; with eight in progress; with reading rights alone. -/
def seen : State :=
  liveMbx fun x => { x with slots := [(0, { state := 1, rights := 15, hist := [{ seq := 7, crc := 1, code := 0x0802, resp := some [1] }] })] }
def crowded : State :=
  liveMbx fun x => { x with slots := [(0, { state := 1, rights := 15, work := (List.range 8).map fun i => (100 + i, 0x0802, none) })] }
theorem witness_requests :
    takes State.reset 0 = false ∧ takes seen 0 ∧ (histOf (slotOf seen 0) 7).any (fun h => decide (h.crc = rq.crc) && h.resp.isSome) ∧
    (histOf (slotOf seen 0) 7).any (fun h => decide (h.crc ≠ 2)) ∧ histOf (slotOf crowded 0) 7 = none ∧ 8 ≤ (slotOf crowded 0).work.length ∧
    (slotOf live 0).work.length < 8 ∧ hasRights (slotOf (liveMbx fun x => { x with slots := [(0, { state := 1 })] }) 0) readCmd = false ∧
    hasRights (slotOf live 0) { readCmd with maint := true } ∧ live.sys.maint = none ∧ isStandby (at_ 3 0) ∧ (at_ 3 0).pair.state ≠ 4 ∧
    hostFails rq = false ∧ isReady (liveSys fun x => { x with ready := [] }) Fn.time = false ∧ active.pair.link.up := by decide
theorem witness_answers :
    (let s := enterHistory rq 0x0802 live
     atWork (slotOf s 0) 7 = true ∧ refOf (slotOf s 0) 7 = none ∧ (slotOf s 0).state = 1 ∧ (slotOf s 0).path ≠ 2 ∧ (slotOf s 0).respProd = 0) ∧
    0 % 2048 + 32 ≤ 2048 ∧ 2016 % 2048 + 32 ≤ 2048 := by decide
/-- A request of a slot without rights is DENIED (R447). -/
theorem test_denied : (let s := liveMbx fun x => { x with slots := [(0, { state := 1 })] }
    ((histOf (slotOf (after (exec (.timeSet rq someTime) s)) 0) 7).bind (·.resp)).isSome) = true := by decide

/-! ### Frames, tasks and terms -/

/-- An engine that runs, at the last sample tick of its first frame, and within a frame. -/
def frameEnd : State := liveSys (fun x => { x with running := true }) { live with clk := { live.clk with sampleJ := 15, boundaryJ := 8 } }
def within : State := { frameEnd with clk := { frameEnd.clk with sampleJ := 10 } }
theorem witness_ticks :
    frameEnd.sys.running ∧ frameEnd.sys.interrupted = none ∧ frameEnd.clk.boundaryJ + frameEnd.sys.b ≤ frameEnd.clk.sampleJ + 1 ∧
    live.sys.running = false ∧ isReady live Fn.time ∧ 0 < live.sys.b ∧ isReady State.reset Fn.time = false ∧ within.sys.running ∧
    within.clk.sampleJ + 1 < within.clk.boundaryJ + within.sys.b ∧ live.pair.partnerIn ≠ true ∧ live.pair.dropDue = false ∧
    live.pair.roleDrop = false ∧ live.pair.switchAt = none ∧ (withPair (fun p => { p with partnerIn := true }) standby).pair.partnerIn ∧
    standby.pair.partnerIn = false ∧ standby.pair.placed ∧ standby.pair.state = 4 ∧ (at_ 3 0).pair.state ≠ 4 ∧ (at_ 3 0).pair.stepAt = none := by decide
/-- A library task placed on frond 2, an expert task there, and what has become of them. -/
def placed (e l : TaskMark) : State :=
  { within with frond := { live.frond with
      mark := [(5, e), (0x1000, l)], placed := [(5, { frond := 2, cost := 0, stage := 0 }), (0x1000, { frond := 2, cost := 0, stage := 0 })]
      tasks := [(5, oneTask)] } }
theorem witness_tasks :
    let l := placed .committed .waiting
    let e := placed .waiting .committed
    let g := placed .committed (.flagged 9)
    framePos within ≠ 0 ∧ Tbl.find l.frond.mark 0x1000 = some .waiting ∧ mayStart l 0x1000 1 ∧ isLibrary l 0x1000 ∧
    Tbl.find e.frond.mark 5 = some .waiting ∧ mayStart e 5 3 ∧ isLibrary e 5 = false ∧ Tbl.find e.frond.tasks (5 % 65536) = some oneTask ∧
    Tbl.find g.frond.mark 0x1000 = some (.flagged 9) ∧ isLibrary g 0x1000 ∧ onCore g 0x1000 = false ∧ g.sys.interrupted = none ∧
    coreFree g (frondOf g 0x1000) 3 := by
  decide +kernel
theorem witness_overrun :
    (coreOf (coreState 0 someBank { instrs := 100000 }) 2 1).run = .task 5 ∧ Tbl.find (coreState 0 someBank).frond.tasks 5 = some oneTask ∧
    pastLimit (coreState 0 someBank { instrs := 100000 }) oneTask (coreOf (coreState 0 someBank { instrs := 100000 }) 2 1) := by decide
/-- Lane 3 with a live term of input 5, whose step has waited. -/
def lane3 (b : Bus) : State :=
  { within with mix := { live.mix with
      bus := [(3, b)], xp := [(xpKey 3 5, { live := true, steps := [7], timeout := 2, wait := 2 })], inp := [(5, {})] } }
theorem witness_terms :
    (busOf (lane3 {}) 3).stored = false ∧ 5 ∈ liveTerms (lane3 {}) 3 ∧ 5 ∉ (busOf (lane3 {}) 3).taken ∧ inputDone (lane3 {}) 5 ∧
    (busOf (lane3 { stored := true }) 3).stored ∧ 6 ∉ liveTerms (lane3 {}) 3 ∧
    (Tbl.find (lane3 {}).mix.xp (xpKey 3 5)).any (fun x => decide (x.steps = [7]) && x.interp.isNone && !x.frozen && decide (x.timeout ≤ x.wait)) := by
  decide +kernel
theorem witness_servo : (withPwr fun p => { p with handed := true }).pwr.handed ∧ (withPwr fun p => { p with handed := true }).pwr.direct = none ∧
    live.pwr.handed = false := by decide
theorem witness_step : ({ live with pending := [.subFrameTick] } : State).pending = .subFrameTick :: [] ∧ live.pending = [] ∧
    live.clk.raw + 1 < 2 ^ 64 := by decide
/-- A frame's end counts the frame and moves the boundary by B samples (R21, R22). -/
theorem test_frame : (after (exec (.frameTick false {} []) frameEnd)).sys.frameNo = 1 ∧
    (after (exec (.frameTick false {} []) frameEnd)).clk.boundaryJ = 16 := by
  decide +kernel
/-- The servo raises VCORE by 2.5 mV while slack is short (R518). -/
theorem test_servo : (after (exec .servoInterval (withPwr (fun p => { p with handed := true, vcore := 700000, target := 300 })
    { live with frond := { live.frond with intervalMin := 100 } }))).pwr.vcore = 702500 := by decide

/-! ### Ill-formed commands are refused -/

theorem wf_request : (Instr.timeNow { slot := 8, seq := 0, crc := 0 }).wellFormed = false ∧ (Instr.timeNow { slot := 7, seq := 2 ^ 32, crc := 0 }).wellFormed = false ∧
    (Instr.timeNow { slot := 7, seq := 2 ^ 32 - 1, crc := 2 ^ 32 }).wellFormed = false ∧
    (Instr.timeNow { slot := 7, seq := 2 ^ 32 - 1, crc := 2 ^ 32 - 1 }).wellFormed = true := by decide
theorem wf_moves : (Instr.nop 32 0 noMove noMove).wellFormed = false ∧ (Instr.nop 0 4 noMove noMove).wellFormed = false ∧
    (Instr.nop 0 0 { noMove with kind := 8 } noMove).wellFormed = false ∧ (Instr.nop 0 0 noMove { noMove with ptr := 8 }).wellFormed = false ∧
    (Instr.nop 0 0 { noMove with reg := 4 } noMove).wellFormed = false ∧ (Instr.nop 0 0 { noMove with post := 4 } noMove).wellFormed = false ∧
    (Instr.nop 0 0 { noMove with shift := 4 } noMove).wellFormed = false := by decide
theorem wf_frondFields : (Instr.ash 0 0 0 64 noMove noMove).wellFormed = false ∧ (Instr.ldi 0 0 32 0).wellFormed = false ∧
    (Instr.br 0 0 16 0).wellFormed = false ∧ (Instr.call 0 0 0 16384).wellFormed = false ∧ (Instr.modp 0 0 0 (-16385)).wellFormed = false ∧
    (Instr.bmovPosted 0 0 { fields := { twoWords with ring := 16 } }).wellFormed = false ∧ (Instr.waitb 0 0 16).wellFormed = false ∧
    (Instr.clr 0 0 4 noMove noMove).wellFormed = false := by decide
theorem wf_products :
    (Instr.mac 0 0 { ad := 4, sa := 0, sb := 0, negate := false, accumulate := false, saUnsigned := false, sbUnsigned := false } noMove noMove).wellFormed =
      false ∧
    (Instr.dmac 0 0 { pair := 2, sharedY := false, sharedIdx := 0, neg0 := false, acc0 := false, neg1 := false, acc1 := false, uns0 := false, uns1 := false }
      noMove noMove).wellFormed = false := by decide
theorem wf_events : (Instr.frameTick false {} [{ src := 0x20000, pos := 0, prev := false, addr := 0, bank := 0, outcome := 0 }]).wellFormed = false ∧ (Instr.laneTerm 512 0 0 { pos := 0, addr := 0, bank := 0, again := false }).wellFormed = false ∧
    (Instr.stepTimeout 0 2048).wellFormed = false ∧ (Instr.portFrameStartEdge 96 0 [] 0 false false).wellFormed = false ∧
    (Instr.markBlock 0 32).wellFormed = false ∧ (Instr.macFrameReceived 5 0 []).wellFormed = false ∧ (Instr.arpRequest 0 (2 ^ 48) 0 0).wellFormed = false ∧
    (Instr.ptpEventMessage 0 (.delayReq (2 ^ 80) 0)).wellFormed = false ∧ (Instr.triggerFire 16).wellFormed = false ∧
    (Instr.linkTrained 16 0).wellFormed = false ∧ (Instr.temperatureRead 0 32768).wellFormed = false ∧ (Instr.lastGasp 4).wellFormed = false ∧
    (Instr.tapInstruction 8).wellFormed = false ∧ (Instr.stageSample [{ ma := 2 ^ 32, temp := 0, fault := false }]).wellFormed = false ∧
    (Instr.nvmeCompletion { ctrl := 64, cid := 0, status := 0, badPhase := false, entry := [], bytes := [] }).wellFormed = false ∧
    (Instr.rootPortLinkUp [{ ctrl := 65536, link := 0 }]).wellFormed = false ∧ (Instr.frondTestDone true [{ part := 13, row := 0 }] 0).wellFormed = false := by
  decide
theorem wf_link : (Instr.linkAck { hdr0 with seq := 65536 }).wellFormed = false ∧ (Instr.linkNak hdr0 65536).wellFormed = false ∧
    (Instr.recon hdr0 0 [{ port := 96, crc := 0 }] 0 []).wellFormed = false ∧ (Instr.recon hdr0 0 [] 16 []).wellFormed = false ∧
    (Instr.fetch hdr0 (.portSection 96 0)).wellFormed = false ∧ (Instr.pktRecon hdr0 [{ item := .block 256 0, here := true, crc := 0 }]).wellFormed = false ∧
    (Instr.command hdr0 0 0 0 [⟨65536, 0, 0⟩] []).wellFormed = false ∧ (Instr.config hdr0 8 [] []).wellFormed = false ∧
    (Instr.config hdr0 0 [] [.rate 6]).wellFormed = false ∧ (Instr.commit hdr0 0 (2 ^ 48)).wellFormed = false := by decide
theorem wf_registers : (Instr.registerWrite 2 0 0 15 []).wellFormed = false ∧ (Instr.registerWrite 0 0 0 16 []).wellFormed = false ∧
    (Instr.semAcquire 0 256 0).wellFormed = false ∧ (Instr.dmaGo 3 0).wellFormed = false ∧ (Instr.latchedRead 3 0).wellFormed = false ∧
    (Instr.mbxClaimWrite 2 0).wellFormed = false ∧ (Instr.arbHogClear false (2 ^ 32)).wellFormed = false ∧ (Instr.sysSessionOpen 0 16 0 0 [] []).wellFormed = false := by
  decide
theorem wf_requestFields :
    (Instr.routeBatch rq 0 [{ op := 256, flags := 0, len := 0, src := 0, sink := 0 }]).wellFormed = false ∧
    (Instr.blockParam rq 0 0 [{ id := 65536, value := 0 }]).wellFormed = false ∧ (Instr.mixGain rq 0 { lane := 0, input := 0, level := 2 ^ 31, flags := 0, prec := 0 }).wellFormed = false ∧
    (Instr.sceneArm rq 0 0 { sec := 2 ^ 64, ns := 0 }).wellFormed = false ∧ (Instr.portConfig rq 0 { slave8 with width := 256 }).wellFormed = false ∧
    (Instr.portProof rq [{ port := 256, slot := 0 }] []).wellFormed = false ∧ (Instr.netConfig rq 0 { port0 with vlan := 65536 }).wellFormed = false ∧
    (Instr.streamTx rq 0 0 { mono with first := 65536 } 0 0 []).wellFormed = false ∧ (Instr.streamTx rq 0 0 mono 0 0 [{ group1 with udp := 65536 }]).wellFormed = false ∧
    (Instr.timePtp rq 0 { ptpSlave with logSync := 128 }).wellFormed = false ∧ (Instr.timeServo rq 0 { servo with bw := [] }).wellFormed = false ∧
    (Instr.timeTrigger rq 0 0 { pulse7 with width := 2 ^ 32 }).wellFormed = false ∧ (Instr.timeReferences rq 0 [{ priority := 256, window := 0, restore := 0 }] 0).wellFormed = false ∧
    (Instr.faultReaction rq 0 [{ kind := 256, value := 0 }]).wellFormed = false ∧ (Instr.faultClear rq [{ source := 65536, kind := 0 }]).wellFormed = false ∧
    (Instr.peatRead rq 0 0 [{ chain := 0, copy := 2, result := 0 }]).wellFormed = false ∧
    (Instr.expertMoverWrite rq 0 [{ sink := 0, src := 0, len := 65536, prev := 0 }]).wellFormed = false := by decide

end Sys2Proof.Tests
end

section
/-!
PROOFS. The frond instruction set: what an instruction of the parallel class and one that works on its core alone come to
once they may be issued, when they stop the run, and from these rules the statements about products, shifts, LOG2 and EXP2
and about the conditions and the flow class.
-/
namespace Sys2Proof.Machine
open Sys2Proof

/-! ### What an issued instruction comes to -/

/-- A parallel instruction whose operation takes the bank to b1: the core goes on with what b1 has in flight, the loads and
flags of the moves behind it, one instruction time later. -/
theorem coreGoes_of_parallel {i : Instr} {s : State} {f c p : Nat} {t : ExpertTask} {k : Core} {x y : Move}
    {op : Bank → Option Bank} {b1 : Bank} {P : Core → State → Prop}
    (hexec : exec i s = .next (atWord f c i (parallel f c x y op) s))
    (hi : Issues s f c .plain false p t k) (hm : MovesAllowed s t k x y) (hop : op k.main.settle = some b1)
    (hP : ∀ (k' : Core) (u : State) loads flags, k'.main.pend = b1.pend ++ loads → k'.main.swPend = b1.swPend ++ flags →
      k'.main.time = b1.time + 1 → k'.instrs = k.instrs + 1 → P k' u) :
    CoreGoes i s f c t P := by
  intro hf
  obtain ⟨loads, flags, hpend, hsw, htime⟩ := moves_adds (fun a => s.frond.read f c false a) (fun a => s.frond.read f c true a)
    x y k.main.settle b1
  exact ⟨_, _, hexec, (congrArg (coreOf · f c) (atWord_issues _ hi hf)).trans (parallel_next hi hm hop),
    hP _ _ loads flags (by simpa using hpend) (by simpa using hsw) (by simpa using htime) (Core.retire_instrs k _ 1)⟩

/-- An instruction on the core alone that is legal under `ok`: the core goes on as its effect gives. -/
theorem actsOnCore_of_issue {i : Instr} {f c : Nat} {cls : Cls} {waits : Bool} {go : ExpertTask → Core → Bank → Option Core}
    {ok : ExpertTask → Core → Bank → Prop} {P : ExpertTask → Core → Bank → Core → Prop}
    (hexec : ∀ s, exec i s = .next (atWord f c i (issue f c cls waits go) s))
    (hgo : ∀ t k b, ok t k b → ∃ k', go t k b = some k' ∧ P t k b k') :
    ActsOnCore i f c cls waits ok P := by
  intro s p t k hi hok hf
  obtain ⟨k', hk', hP⟩ := hgo t k k.main.settle hok
  refine ⟨_, k', hexec s, ?_, hP⟩
  rw [atWord_issues _ hi hf, issue_next hi hk', coreOf_goOn]

/-- Where the effect of the fetched instruction is to stop the run, so does its execution. -/
theorem atWord_stops {s : State} {f c p : Nat} {t : ExpertTask} {k : Core} {i : Instr} {go : State → State}
    (hr : runningOn s f c = some (p, t, k)) (hf : frondFetch s f c i = true) (hgo : go s = stopRun f p K.taskBounds s) :
    atWord f c i go s = stopRun f p K.taskBounds s := by
  rw [atWord_running go hr, hf, hgo]; simp

/-- A parallel instruction without a legal operation stops the run (R221). -/
theorem parallel_stops {s : State} {f c p : Nat} {t : ExpertTask} {k : Core} {x y : Move} {op : Bank → Option Bank}
    (hr : runningOn s f c = some (p, t, k)) (hop : op k.main.settle = none) :
    parallel f c x y op s = stopRun f p K.taskBounds s := by
  simp [parallel, hr, hop]

/-- An instruction on the core alone that is illegal stops the run, wherever it stands (R221). -/
theorem issue_stops {s : State} {f c p : Nat} {t : ExpertTask} {k : Core} {cls : Cls} {waits : Bool}
    {go : ExpertTask → Core → Bank → Option Core}
    (hr : runningOn s f c = some (p, t, k)) (hgo : go t k k.main.settle = none) :
    issue f c cls waits go s = stopRun f p K.taskBounds s := by
  simp [issue, hr, hgo]

/-! ### Results and their values -/

/-- Within the limits of 56 bits an accumulator holds the exact value. -/
theorem acc56_of_inRange {v : Int} (hlo : -(2 ^ 55) ≤ v) (hhi : v ≤ 2 ^ 55 - 1) : acc56 v = BitVec.ofInt 56 v := by
  rw [acc56, min_eq_right hhi, max_eq_right hlo]

/-- An operation whose result is the exact value v writes it as R207 times it. -/
theorem writesAcc_of_opResult {i : Instr} {f c ad : Nat} {x y : Move} {op : Bank → Option Bank} {v : Bank → Int}
    (hexec : ∀ s, exec i s = .next (atWord f c i (parallel f c x y op) s)) (hop : ∀ b, op b = some (b.opResult ad (v b))) :
    WritesAcc i f c ad 1 2 x y v := by
  intro s p t k hi hm
  refine coreGoes_of_parallel (hexec s) hi hm (hop _) fun k' _ loads flags hpend hsw htime hinstrs => ?_
  obtain ⟨av, hflags, hav⟩ := Bank.opResult_swPend k.main.settle ad (v k.main.settle)
  rw [hflags] at hsw
  refine ⟨⟨loads, by simp [hpend]⟩, by simp [hsw], fun hsat => ?_, by simp [htime], hinstrs⟩
  simp [hsw, hav hsat]

/-- A multiply-accumulate writes the product, with its sign, added to the old value or to nothing. -/
theorem Bank.mac_eq (b : Bank) (ad : Nat) (prod : Int) (negate accumulate : Bool) :
    b.mac ad prod negate accumulate =
      b.opResult ad ((if accumulate then (b.fast ad).toInt else 0) + (if negate then -prod else prod)) := by
  unfold Bank.mac
  cases accumulate <;> simp

/-- A result just issued is not yet seen by the next operation of the same instruction. -/
@[simp] theorem Bank.opResult_fast (b : Bank) (i j : Nat) (v : Int) : (b.opResult i v).fast j = b.fast j := by
  simp [Bank.fast, Bank.slow]

/-- A shift acts with its count limited to −56 to 56, left when it is not negative (R203). -/
theorem shiftAcc_eq (v : W56) (count : Int) :
    shiftAcc v count =
      let n := max (-56) (min 56 count)
      if 0 ≤ n then v.toInt * 2 ^ n.toNat else v.toInt / 2 ^ (-n).toNat := by
  have hclamp : Fx.clamp (-56) 56 count = max (-56) (min 56 count) := by unfold Fx.clamp; omega
  simp only [shiftAcc, hclamp]

/-- Seven bits read as a signed count. -/
theorem toSigned_seven (n : Nat) :
    Fx.toSigned 7 (n % 128) = if n % 128 < 64 then ((n % 128 : Nat) : Int) else ((n % 128 : Nat) : Int) - 128 := by
  simp [Fx.toSigned]

/-- LOG2 and EXP2 leave their saturated value in flight for four instructions (R207). -/
theorem Bank.lateResult_pend (b : Bank) (i : Nat) (v : Int) : (b.lateResult i v).pend =
    b.pend ++ [{ target := .acc i, value := (acc56 v).toNat, issued := b.time, fastAt := b.time + 4, slowAt := b.time + 4
                 late := true }] := by
  simp only [Bank.lateResult, satAcc_eq]
  split <;> rfl

/-- LOG2 of zero, whatever its error: −48 exponents (R204). -/
theorem log2Value_zero (err : Int) : log2Value 0 err = -(48 * 2 ^ 41) := by
  simp [log2Value]

/-- EXP2 below its range: zero (R204). -/
theorem exp2Value_below {a : W56} (err : Int) (h : a.toInt < -(3 * 2 ^ 45)) : exp2Value a err = 0 :=
  if_pos h

/-- EXP2 above its range: one past the largest accumulator value, to be saturated (R204). -/
theorem exp2Value_above {a : W56} (err : Int) (h : 2 ^ 44 ≤ a.toInt) : exp2Value a err = 2 ^ 55 := by
  have hlow : ¬a.toInt < -(3 * 2 ^ 45) := by omega
  simp only [exp2Value, hlow, h, if_true, if_false]

/-- LOG2 and EXP2 write the late result of their value. -/
theorem coreGoes_of_lateResult {i : Instr} {s : State} {f c p ad : Nat} {t : ExpertTask} {k : Core} {x y : Move}
    {v : Bank → Int} {Q : Nat → Prop}
    (hexec : exec i s = .next (atWord f c i (parallel f c x y fun b => some (b.lateResult ad (v b))) s))
    (hi : Issues s f c .plain false p t k) (hm : MovesAllowed s t k x y) (hQ : Q (acc56 (v k.main.settle)).toNat) :
    CoreGoes i s f c t fun k' _ =>
      ∃ w loads, k'.main.pend = k.main.settle.pend ++
        { target := .acc ad, value := w, issued := k.main.settle.time, fastAt := k.main.settle.time + 4
          slowAt := k.main.settle.time + 4, late := true } :: loads ∧ Q w :=
  coreGoes_of_parallel hexec hi hm rfl fun _ _ loads _ hpend _ _ _ =>
    ⟨_, loads, by rw [hpend, Bank.lateResult_pend, List.append_assoc, List.singleton_append], hQ⟩

/-! ### Products, shifts, LOG2 and EXP2 -/

/-- Settles O2: MAC, ASH and ASHR write one exact result, DMAC two, the second of which does not see the first, and LOG2 and
EXP2 a late one. -/
theorem frondProductsAndShiftsWriteResult : Obligations.FrondProductsAndShiftsWriteResult := by
  refine ⟨fun f c m x y => ?mac, fun f c m x y s p t k hi hm => ?dmac, fun f c ad rs imm x y => ⟨?ash, ?ashr⟩,
    fun f c ad as x y s p t k hi hm => ⟨?log2, ?exp2⟩⟩
  case mac => exact writesAcc_of_opResult (fun _ => rfl) fun b => congrArg some (Bank.mac_eq ..)
  case dmac =>
    refine coreGoes_of_parallel rfl hi hm rfl fun k' _ loads _ hpend _ _ hinstrs => ⟨⟨loads, ?_⟩, hinstrs⟩
    rw [hpend]
    simp [Bank.mac_eq, product, Bank.dat]
  case ash => exact writesAcc_of_opResult (fun _ => rfl) fun b => by rw [shiftAcc_eq]
  case ashr => exact writesAcc_of_opResult (fun _ => rfl) fun b => by rw [shiftAcc_eq, toSigned_seven]; rfl
  case log2 =>
    refine coreGoes_of_lateResult (v := fun b => log2Value (b.slow as) (Config.log2Error (b.slow as))) rfl hi hm fun hzero => ?_
    rw [hzero, log2Value_zero, acc56_of_inRange (by norm_num) (by norm_num)]
  case exp2 =>
    refine coreGoes_of_lateResult (v := fun b => exp2Value (b.slow as) (Config.exp2Error (b.slow as))) rfl hi hm
      ⟨fun hlow => ?_, fun hhigh => ?_⟩
    · rw [exp2Value_below _ hlow]; decide
    · rw [exp2Value_above _ hhigh]; decide

/-! ### The conditions and the flow class -/

/-- A target inside the image's code is where the flow instruction goes. -/
theorem flowTarget_of_inCode {t : ExpertTask} {b : Bank} {offset : Int} (hlo : (t.codeLo : Int) ≤ b.pc + offset)
    (hhi : b.pc + offset < t.codeLo + t.codeLen) :
    flowTarget b offset = some (b.pc + offset).toNat ∧ inRun (b.pc + offset).toNat t.codeLo t.codeLen = true := by
  constructor
  · exact if_pos (by omega)
  · simp only [inRun, Bool.and_eq_true, decide_eq_true_eq]; omega

/-- The codes 11 to 15 stop the run in every instruction that takes a condition (R205, R221). -/
theorem exec_illegalCondition {f c cond ad as p : Nat} {offset : Int} {x y : Move} {i : Instr} {s : State} {t : ExpertTask}
    {k : Core} (hc : 11 ≤ cond)
    (hi : i = .cmov f c ad as cond x y ∨ i = .br f c cond offset ∨ i = .call f c cond offset ∨ i = .rts f c cond)
    (hr : runningOn s f c = some (p, t, k)) (hf : frondFetch s f c i = true) :
    exec i s = .next (stopRun f p K.taskBounds s) := by
  have hcond : 10 < cond := hc
  obtain rfl | rfl | rfl | rfl := hi
  · exact congrArg Host.Outcome.next (atWord_stops hr hf (parallel_stops hr (if_pos hcond)))
  · exact congrArg Host.Outcome.next (atWord_stops hr hf (issue_stops hr (if_pos hcond)))
  · exact congrArg Host.Outcome.next (atWord_stops hr hf (issue_stops hr (if_pos (Or.inl hcond))))
  · refine congrArg Host.Outcome.next (atWord_stops hr hf (issue_stops hr ?_))
    cases k.main.settle.calls with
    | nil => rfl
    | cons a rest => exact if_pos hcond

/-- Settles O5: the table of conditions by evaluation, the illegal codes by `exec_illegalCondition`, and each flow instruction,
DO and RETE by what its effect on the core gives where it is legal. -/
theorem frondFlowInstructions : Obligations.FrondFlowInstructions := by
  refine ⟨fun b => ⟨rfl, rfl, rfl, rfl, rfl, rfl, rfl, rfl, rfl, rfl, rfl⟩,
    fun _ _ _ _ _ _ _ _ _ _ _ _ _ hc hi hr hf => exec_illegalCondition hc hi hr hf,
    fun f c => ⟨fun cond offset => ?br, fun cond offset => ?call, fun cond => ?rts, fun reg count stop => ?doLoop, ?rete⟩⟩
  case br =>
    refine actsOnCore_of_issue (fun _ => rfl) fun t k b ⟨hcond, hlo, hhi⟩ => ?_
    obtain ⟨htarget, hcode⟩ := flowTarget_of_inCode hlo hhi
    cases hb : b.cond cond <;> simp [show ¬10 < cond by omega, htarget, hcode, Bank.branch]
  case call =>
    refine actsOnCore_of_issue (fun _ => rfl) fun t k b ⟨hcond, hdepth, hlo, hhi⟩ => ?_
    obtain ⟨htarget, hcode⟩ := flowTarget_of_inCode hlo hhi
    cases hb : b.cond cond <;>
      simp [show ¬10 < cond by omega, show ¬4 ≤ b.calls.length by omega, htarget, hcode, Bank.branch]
  case rts =>
    refine actsOnCore_of_issue (fun _ => rfl) fun t k b ⟨hcond, hcalls⟩ => ?_
    obtain ⟨a, rest, hstack⟩ := List.exists_cons_of_ne_nil hcalls
    cases hb : b.cond cond <;> simp [show ¬10 < cond by omega, hstack, Bank.branch]
  case doLoop =>
    refine actsOnCore_of_issue (fun _ => rfl) fun t k b ⟨hone, hmax, hdepth⟩ => ?_
    have hlegal : ¬(stop = 0 ∨ 8191 < stop ∨ 4 ≤ b.loops.length) := by omega
    by_cases hn : (match reg with | some r => (b.data.getD r 0).toNat | none => count) = 0
    · exact ⟨_, (if_neg hlegal).trans (if_pos hn), fun _ => ⟨rfl, rfl⟩, fun h => absurd hn h⟩
    · exact ⟨_, (if_neg hlegal).trans (if_neg hn), fun h => absurd h hn, fun _ => ⟨rfl, rfl, rfl⟩⟩
  case rete => exact actsOnCore_of_issue (fun _ => rfl) fun t k b hhandler => ⟨_, if_pos hhandler, rfl, rfl, rfl⟩

end Sys2Proof.Machine
end

section
/-!
PROOFS. Memories read as little-endian words: each byte of a word is a digit to the base 256, a word written is the word read
back, and the bytes outside it stand.
-/
namespace Sys2Proof

/-- Digit i of a word is the byte i places above its address. -/
theorem Memory.readLE_digit (m : Memory) (a : Nat) {n i : Nat} (hi : i < n) :
    m.readLE a n / 256 ^ i % 256 = (m.read (a + i)).toNat := by
  have hlow := (m.read a).isLt
  induction n generalizing a i with
  | zero => omega
  | succ n ih =>
    cases i with
    | zero => simp only [Memory.readLE, Nat.pow_zero, Nat.div_one, Nat.add_zero]; omega
    | succ i =>
      have hshift : m.readLE a (n + 1) / 256 = m.readLE (a + 1) n := by rw [Memory.readLE]; omega
      rw [Nat.pow_succ', ← Nat.div_div_eq_div_mul, hshift, ih (a + 1) (by omega) (m.read (a + 1)).isLt]
      congr 2; omega

theorem Memory.read_writeLE_outside {m : Memory} {a v n x : Nat} (h : x < a ∨ a + n ≤ x) :
    (m.writeLE a v n).read x = m.read x := by
  induction n generalizing m a v with
  | zero => rfl
  | succ n ih => rw [Memory.writeLE, ih (by omega), Memory.read_write_other _ (by omega)]

theorem Memory.read_writeLE_byte (m : Memory) (a v : Nat) {n i : Nat} (hi : i < n) :
    (m.writeLE a v n).read (a + i) = BitVec.ofNat 8 (v / 256 ^ i) := by
  induction n generalizing m a v i with
  | zero => omega
  | succ n ih =>
    cases i with
    | zero => rw [Memory.writeLE, Memory.read_writeLE_outside (by omega)]; simp
    | succ i =>
      rw [Memory.writeLE, show a + (i + 1) = a + 1 + i by omega, ih _ _ _ (by omega), Nat.pow_succ',
        Nat.div_div_eq_div_mul]

theorem Memory.readLE_congr {m m' : Memory} {a a' n : Nat} (h : ∀ i < n, m.read (a + i) = m'.read (a' + i)) :
    m.readLE a n = m'.readLE a' n := by
  induction n generalizing a a' with
  | zero => rfl
  | succ n ih =>
    have hhead : m.read a = m'.read a' := h 0 (by omega)
    have htail := ih (a := a + 1) (a' := a' + 1) fun i hi => by
      simpa only [Nat.add_assoc, Nat.add_comm 1] using h (i + 1) (by omega)
    rw [Memory.readLE, Memory.readLE, hhead, htail]

theorem Memory.readLE_writeLE_self (m : Memory) (a v n : Nat) : (m.writeLE a v n).readLE a n = v % 256 ^ n := by
  induction n generalizing m a v with
  | zero => simp [Memory.readLE, Nat.mod_one]
  | succ n ih =>
    rw [Memory.writeLE, Memory.readLE, Memory.read_writeLE_outside (by omega), ih, Memory.read_write_self,
      Nat.pow_succ', Nat.mod_mul, BitVec.toNat_ofNat]

theorem Memory.readLE_writeLE_outside {m : Memory} {a v n b k : Nat} (h : b + k ≤ a ∨ a + n ≤ b) :
    (m.writeLE a v n).readLE b k = m.readLE b k :=
  Memory.readLE_congr fun _ _ => Memory.read_writeLE_outside (by omega)

theorem Memory.read_writeBytes_inside (m : Memory) (a : Nat) {bs : List Byte} {i : Nat} (hi : i < bs.length) :
    (m.writeBytes a bs).read (a + i) = bs[i] := by
  induction bs generalizing m a i with
  | nil => simp at hi
  | cons b bs ih =>
    cases i with
    | zero => rw [Memory.writeBytes, Memory.read_writeBytes_outside (by omega)]; simp
    | succ i =>
      rw [Memory.writeBytes, show a + (i + 1) = a + 1 + i by omega, ih _ _ (by simpa using hi)]
      rfl

theorem Memory.writeBytes_concat (m : Memory) (a : Nat) (bs : List Byte) (b : Byte) :
    m.writeBytes a (bs ++ [b]) = (m.writeBytes a bs).write (a + bs.length) b := by
  induction bs generalizing m a with
  | nil => rfl
  | cons c bs ih =>
    rw [List.cons_append, Memory.writeBytes, ih, Memory.writeBytes, List.length_cons,
      show a + 1 + bs.length = a + (bs.length + 1) by omega]

theorem foldl_digits_lt {f : Nat → Nat} (hf : ∀ i, f i < 256) (n : Nat) :
    (List.range n).foldl (fun w j => w + f j * 256 ^ j) 0 < 256 ^ n := by
  induction n with
  | zero => simp
  | succ n ih =>
    have htop : f n * 256 ^ n ≤ 255 * 256 ^ n := Nat.mul_le_mul_right _ (Nat.le_of_lt_succ (hf n))
    rw [List.range_succ, List.foldl_append, List.foldl_cons, List.foldl_nil, Nat.pow_succ]
    omega

/-- A word built from digits has them. -/
theorem foldl_digits_digit {f : Nat → Nat} (hf : ∀ i, f i < 256) {n i : Nat} (hi : i < n) :
    (List.range n).foldl (fun w j => w + f j * 256 ^ j) 0 / 256 ^ i % 256 = f i := by
  have hpos : 0 < 256 ^ i := Nat.pow_pos (by decide)
  induction n with
  | zero => omega
  | succ n ih =>
    rw [List.range_succ, List.foldl_append, List.foldl_cons, List.foldl_nil]
    rcases Nat.lt_succ_iff_lt_or_eq.mp hi with hlt | rfl
    · have hpow : f n * 256 ^ n = 256 ^ i * (256 * (f n * 256 ^ (n - i - 1))) := by
        rw [show n = i + 1 + (n - i - 1) by omega, Nat.pow_add, Nat.pow_succ,
          show i + 1 + (n - i - 1) - i - 1 = n - i - 1 by omega]
        ac_rfl
      rw [hpow, Nat.add_mul_div_left _ _ hpos, Nat.add_mul_mod_self_left, ih hlt]
    · rw [Nat.add_mul_div_right _ _ hpos, Nat.div_eq_of_lt (foldl_digits_lt hf i), Nat.zero_add, Nat.mod_eq_of_lt (hf i)]

end Sys2Proof
end

section
/-!
PROOFS. Control space and the bus matrix: the target's grant, the set and clear aliases, SYS_REMAP, semaphores and the
DMA channels.
-/
namespace Sys2Proof.Machine
open Sys2Proof

/-! ### The collector leaves every memory alone but mailbox memory -/

/-- Every memory but mailbox memory stands. -/
def MailboxOnly (s t : State) : Prop := t.mem = { s.mem with mbx := t.mem.mbx }

theorem MailboxOnly.of_eq {s t : State} (h : t.mem = s.mem) : MailboxOnly s t := by rw [MailboxOnly, h]

theorem MailboxOnly.trans {s t u : State} (h : MailboxOnly s t) (h' : MailboxOnly t u) : MailboxOnly s u := by
  rw [MailboxOnly] at *
  rw [h', h]

theorem MailboxOnly.ite {s : State} {c : Prop} [Decidable c] {a b : State} (ha : MailboxOnly s a) (hb : MailboxOnly s b) :
    MailboxOnly s (if c then a else b) := by split <;> assumption

theorem MailboxOnly.sram {s t : State} (h : MailboxOnly s t) : t.mem.sram = s.mem.sram := by
  rw [MailboxOnly] at h
  rw [h]

@[simp] theorem raiseInt_mem (n : Nat) (s : State) : (raiseInt n s).mem = s.mem := by
  unfold raiseInt; dsimp only; (repeat' split) <;> rfl

@[simp] theorem sendSession_mem (id kind : Nat) (msg : List Byte) (s : State) : (sendSession id kind msg s).mem = s.mem := by
  unfold sendSession sendSeril; dsimp only; (repeat' split) <;> rfl

@[simp] theorem eventInt_mem (s : State) : (eventInt s).mem = s.mem := by
  unfold eventInt; dsimp only; (repeat' split) <;> simp

@[simp] theorem recordOf_mem (source kind sev count index detail : Nat) (s : State) :
    (recordOf source kind sev count index detail s).2.mem = s.mem := by
  unfold recordOf; dsimp only; split <;> split <;> rfl

@[simp] theorem reclassifyAt_mem (key : Nat) (mem : Option Nat) (r : Record) (s : State) :
    (reclassifyAt key mem r s).2.mem = s.mem := by
  unfold reclassifyAt scheduleRepair; dsimp only; (repeat' split) <;> rfl

@[simp] theorem noteDetection_mem (r : Record) (s : State) : (noteDetection r s).mem = s.mem := by
  unfold noteDetection; split <;> rfl

@[simp] theorem logRecord_mem (r : Record) (s : State) : (logRecord r s).2.mem = s.mem := rfl

@[simp] theorem persistRecord_mem (r : Record) (s : State) : (persistRecord r s).mem = s.mem := rfl

@[simp] theorem holdPin_mem (r : Record) (s : State) : (holdPin r s).mem = s.mem := by
  unfold holdPin; split <;> rfl

@[simp] theorem logWithLoss_mem (r : Record) (s : State) : (logWithLoss r s).mem = s.mem := by
  have hkept : (if 2 ≤ r.sev then persistRecord r (logRecord r s).2 else (logRecord r s).2).mem = s.mem := by split <;> simp
  unfold logWithLoss
  dsimp only
  generalize (if 2 ≤ r.sev then persistRecord r (logRecord r s).2 else (logRecord r s).2) = u at hkept ⊢
  (repeat' split) <;> simp [hkept]

@[simp] theorem alterEntry_mem (k : Nat) (f : FaultEntry → FaultEntry) (s : State) : (alterEntry k f s).mem = s.mem := by
  unfold alterEntry; split <;> rfl

@[simp] theorem requestSwitch_mem (s : State) : (requestSwitch s).2.mem = s.mem := by
  unfold requestSwitch; split <;> rfl

@[simp] theorem startReset_mem (src : Nat) (s : State) : (startReset src s).mem = s.mem := by
  unfold startReset; dsimp only; (repeat' split) <;> rfl

@[simp] theorem applyReactions_mem (acts : Nat) (r : Record) (s : State) : (applyReactions acts r s).mem = s.mem := by
  have hswitch : (if Fx.bit acts Act.switch then requestSwitch s else (false, s)).2.mem = s.mem := by split <;> simp
  unfold applyReactions
  dsimp only
  (repeat' split) <;> simp_all

theorem enterRecord_mem {r : Record} {s t : State} (h : enterRecord r s = some t) : t.mem = s.mem := by
  unfold enterRecord at h
  dsimp only at h
  split at h
  · cases h; rfl
  · split at h
    · cases h; rfl
    · cases h

theorem postEvent_mailboxOnly (code : Nat) (client : Option Nat) (related : Nat) (data : List Byte) (s : State) :
    MailboxOnly s (postEvent code client related data s) := by
  have hsend : ∀ (e : List Byte) (l : List Nat) (u : State), (l.foldl (fun s id => sendSession id 3 e s) u).mem = u.mem := by
    intro e l
    induction l with
    | nil => exact fun _ => rfl
    | cons id l ih => exact fun u => (ih _).trans (sendSession_mem id 3 e u)
  unfold postEvent
  dsimp only
  split
  · rfl
  · rw [MailboxOnly, hsend, eventInt_mem]

theorem logAndInterrupt_mailboxOnly (acts : Nat) (r : Record) (s : State) : MailboxOnly s (logAndInterrupt acts r s) := by
  have hlog : (if Fx.bit acts Act.log then logWithLoss r (holdPin r s) else holdPin r s).mem = s.mem := by split <;> simp
  unfold logAndInterrupt
  exact .ite (.trans (.of_eq ((raiseInt_mem _ _).trans hlog)) (postEvent_mailboxOnly ..)) (.of_eq hlog)

theorem tableFull_mailboxOnly (sev : Nat) (s : State) : MailboxOnly s (tableFull sev s) := by
  have hlog : ∀ (acts : Nat) (r : Record) (u : State), u.mem = s.mem → MailboxOnly s (logAndInterrupt acts r u) :=
    fun acts r u hu => .trans (.of_eq hu) (logAndInterrupt_mailboxOnly acts r u)
  unfold tableFull
  dsimp only
  refine .ite (.of_eq rfl) (.ite (.trans (hlog _ _ _ ?_) (.of_eq (requestSwitch_mem _))) (hlog _ _ _ ?_)) <;>
    exact recordOf_mem ..

theorem clearEntry_mailboxOnly (k : Nat) (s : State) : MailboxOnly s (clearEntry k s) := by
  unfold clearEntry tableRoom
  dsimp only
  split
  · refine .ite (.trans (.of_eq ?_) (logAndInterrupt_mailboxOnly ..)) (.of_eq ?_) <;> rfl
  · exact .of_eq rfl

theorem collectAt_mailboxOnly (key : Nat) (mem : Option Nat) (r : Record) (s : State) :
    MailboxOnly s (collectAt key mem r s) := by
  unfold collectAt
  dsimp only
  have hnoted : (noteDetection (reclassifyAt key mem r s).1 (reclassifyAt key mem r s).2).mem = s.mem := by simp
  generalize noteDetection (reclassifyAt key mem r s).1 (reclassifyAt key mem r s).2 = u at hnoted ⊢
  generalize (reclassifyAt key mem r s).1 = q
  have hlog : MailboxOnly s (logAndInterrupt (actionsOf u q.kind q.sev) q u) :=
    .trans (.of_eq hnoted) (logAndInterrupt_mailboxOnly ..)
  refine .ite (.trans hlog (clearEntry_mailboxOnly ..)) ?_
  generalize logAndInterrupt (actionsOf u q.kind q.sev) q u = v at hlog ⊢
  have hentered : ∀ w : State, w.mem = v.mem → ∀ x, enterRecord q w = some x → MailboxOnly s x :=
    fun w hw x hx => hlog.trans (.of_eq ((enterRecord_mem hx).trans hw))
  have hfull : ∀ w : State, w.mem = v.mem → MailboxOnly s (tableFull q.sev w) :=
    fun w hw => (hlog.trans (.of_eq hw)).trans (tableFull_mailboxOnly ..)
  split
  · split
    next x hx =>
      refine (hentered _ ?_ x hx).trans (.of_eq (applyReactions_mem ..))
      (repeat' split) <;> rfl
    next =>
      refine (hfull _ ?_).trans (.of_eq (applyReactions_mem ..))
      (repeat' split) <;> rfl
  · refine hlog.trans (.of_eq ((applyReactions_mem ..).trans ?_))
    (repeat' split) <;> rfl

theorem report_mailboxOnly (source kind sev index detail : Nat) (s : State) :
    MailboxOnly s (report source kind sev index detail s) :=
  .trans (.of_eq (recordOf_mem source kind sev 1 index detail s)) (collectAt_mailboxOnly ..)

/-! ### The bus matrix (R421, R422) -/

/-- A request that a target grants no later than another: the priority is no lower, and of equal ones the turn no later. -/
def BusReq.noLater (s : State) (target : Nat) (r x : BusReq) : Prop :=
  x.priority s target ≤ r.priority s target ∧
    (x.priority s target = r.priority s target →
      turnAfter (lastGrant s target) r.master ≤ turnAfter (lastGrant s target) x.master)

theorem BusReq.noLater_refl (s : State) (target : Nat) (r : BusReq) : r.noLater s target r :=
  ⟨Nat.le_refl _, fun _ => Nat.le_refl _⟩

theorem BusReq.noLater_trans {s : State} {target : Nat} {a b c : BusReq}
    (hab : a.noLater s target b) (hbc : b.noLater s target c) :
    a.noLater s target c := by
  simp only [BusReq.noLater] at *
  omega

theorem BusReq.before_iff (s : State) (target : Nat) (a b : BusReq) :
    a.before s target (lastGrant s target) b = true ↔ ¬ b.noLater s target a := by
  simp only [BusReq.before, BusReq.noLater, Bool.or_eq_true, Bool.and_eq_true, decide_eq_true_eq]
  omega

theorem BusReq.noLater_of_before {s : State} {target : Nat} {a b : BusReq}
    (h : a.before s target (lastGrant s target) b = true) : a.noLater s target b := by
  rw [BusReq.before_iff] at h
  simp only [BusReq.noLater] at *
  omega

/-- A target with requests waiting grants one of them that none outranks. -/
theorem grantNext_noLater (s : State) (target : Nat) {waiting : List BusReq} (h : waiting ≠ []) :
    ∃ r ∈ waiting, grantNext s target waiting = some r ∧ ∀ x ∈ waiting, r.noLater s target x := by
  induction waiting with
  | nil => exact absurd rfl h
  | cons a rest ih =>
    rcases rest.eq_nil_or_concat with rfl | hrest
    · exact ⟨a, by simp, rfl, by simpa using BusReq.noLater_refl s target a⟩
    · obtain ⟨b, hb, hgrant, hbest⟩ := ih (by obtain ⟨_, _, rfl⟩ := hrest; simp)
      by_cases hab : a.before s target (lastGrant s target) b = true
      · have hle := BusReq.noLater_of_before hab
        refine ⟨a, by simp, by simp [grantNext, hgrant, hab], ?_⟩
        simpa using ⟨BusReq.noLater_refl s target a, fun x hx => BusReq.noLater_trans hle (hbest x hx)⟩
      · have hle : b.noLater s target a := by simpa [BusReq.before_iff] using hab
        exact ⟨b, by simp [hb], by simp [grantNext, hgrant, hab], by simpa using ⟨hle, hbest⟩⟩

theorem lastGrant_grantTarget {s : State} {target : Nat} {waiting : List BusReq} {r : BusReq}
    (h : grantNext s target waiting = some r) : lastGrant (grantTarget target waiting s) target = r.master := by
  simp [grantTarget, h, lastGrant]

theorem onBus_eq (master target : Nat) (s : State) : onBus master target s =
    { s with arb := { s.arb with granted := Tbl.put s.arb.granted target (if master = 7 then 2 else master) } } := rfl

@[simp] theorem semOf_onBus (master target n : Nat) (s : State) : semOf (onBus master target s) n = semOf s n := rfl
@[simp] theorem dmaOf_onBus (master target ch : Nat) (s : State) : dmaOf (onBus master target s) ch = dmaOf s ch := rfl
@[simp] theorem onBus_mem (master target : Nat) (s : State) : (onBus master target s).mem = s.mem := rfl
@[simp] theorem onBus_sys (master target : Nat) (s : State) : (onBus master target s).sys = s.sys := rfl

theorem descBytes_onBus (master target a : Nat) (s : State) : descBytes (onBus master target s) a = descBytes s a := rfl

/-! ### The set and clear aliases (R420) -/

/-- The digit that a write through the aliases leaves where a byte b stood and the value has the byte x. -/
def aliasDigit (set enabled : Bool) (b x : Nat) : Nat :=
  if !enabled then b else if set then b ||| x else b &&& (255 - x)

theorem aliasDigit_lt (set enabled : Bool) {b x : Nat} (hb : b < 256) (hx : x < 256) : aliasDigit set enabled b x < 256 := by
  unfold aliasDigit
  split
  · exact hb
  · split
    · exact Nat.or_lt_two_pow (n := 8) hb hx
    · exact Nat.lt_of_le_of_lt Nat.and_le_left hb

/-- The digit as a byte: unchanged where it is not enabled, else by OR or AND NOT. -/
theorem ofNat_aliasDigit (set enabled : Bool) (b : Byte) (v : Nat) :
    BitVec.ofNat 8 (aliasDigit set enabled b.toNat (v % 256)) =
      if enabled then (if set then b ||| BitVec.ofNat 8 v else b &&& ~~~BitVec.ofNat 8 v) else b := by
  have hlt := aliasDigit_lt set enabled b.isLt (Nat.mod_lt v (by decide : 0 < 256))
  apply BitVec.eq_of_toNat_eq
  rw [BitVec.toNat_ofNat, Nat.mod_eq_of_lt hlt]
  cases enabled <;> cases set <;> simp [aliasDigit]

theorem aliasWrite_sram (set : Bool) (off v enables : Nat) (s : State) :
    (aliasWrite set off v enables s).mem.sram = s.mem.sram.writeLE (off / 4 * 4)
      ((List.range 4).foldl (fun w j => w + aliasDigit set (Fx.bit enables j)
        (s.mem.sram.readLE (off / 4 * 4) 4 / 256 ^ j % 256) (v / 256 ^ j % 256) * 256 ^ j) 0) 4 := by
  unfold aliasWrite aliasDigit
  dsimp only

/-- The bytes of the word that a write through the aliases meets. -/
theorem read_aliasWrite_word (set : Bool) (off v enables : Nat) (s : State) {i : Nat} (hi : i < 4) :
    (aliasWrite set off v enables s).mem.sram.read (off / 4 * 4 + i) =
      if Fx.bit enables i then
        (if set then s.mem.sram.read (off / 4 * 4 + i) ||| BitVec.ofNat 8 (v / 256 ^ i)
         else s.mem.sram.read (off / 4 * 4 + i) &&& ~~~BitVec.ofNat 8 (v / 256 ^ i))
      else s.mem.sram.read (off / 4 * 4 + i) := by
  have hdigit := foldl_digits_digit
    (f := fun j => aliasDigit set (Fx.bit enables j) (s.mem.sram.readLE (off / 4 * 4) 4 / 256 ^ j % 256) (v / 256 ^ j % 256))
    (fun j => aliasDigit_lt _ _ (Nat.mod_lt _ (by decide)) (Nat.mod_lt _ (by decide))) hi
  rw [aliasWrite_sram, Memory.read_writeLE_byte _ _ _ hi, ← ofNat_aliasDigit, ← Memory.readLE_digit _ _ hi]
  apply BitVec.eq_of_toNat_eq
  rw [BitVec.toNat_ofNat, BitVec.toNat_ofNat, hdigit]
  exact (Nat.mod_eq_of_lt (aliasDigit_lt _ _ (Nat.mod_lt _ (by decide)) (Nat.mod_lt _ (by decide)))).symm

theorem read_aliasWrite_other (set : Bool) {off a : Nat} (v enables : Nat) (s : State) (h : a / 4 ≠ off / 4) :
    (aliasWrite set off v enables s).mem.sram.read a = s.mem.sram.read a :=
  Memory.read_writeLE_outside (by omega)

theorem aliasWrite_wf (set : Bool) (off v enables : Nat) {s : State} (h : Memory.wf s.mem.sram = true) :
    Memory.wf (aliasWrite set off v enables s).mem.sram = true := Memory.wf_writeLE _ _ _ h

theorem exec_setAliasWrite {off : Nat} (v enables : Nat) (s : State) (h : off < 0x800000) :
    exec (.setAliasWrite off v enables) s = .next (aliasWrite true off v enables (onBus 1 1 s)) :=
  congrArg Host.Outcome.next (if_pos h)

theorem exec_clearAliasWrite {off : Nat} (v enables : Nat) (s : State) (h : off < 0x800000) :
    exec (.clearAliasWrite off v enables) s = .next (aliasWrite false off v enables (onBus 1 1 s)) :=
  congrArg Host.Outcome.next (if_pos h)

theorem exec_setAliasWrite_beyond {off : Nat} (v enables : Nat) (s : State) (h : 0x800000 ≤ off) :
    exec (.setAliasWrite off v enables) s = .next (busError (0x50000000 + off) 1 s) :=
  congrArg Host.Outcome.next (if_neg (Nat.not_lt.mpr h))

theorem exec_clearAliasWrite_beyond {off : Nat} (v enables : Nat) (s : State) (h : 0x800000 ≤ off) :
    exec (.clearAliasWrite off v enables) s = .next (busError (0x60000000 + off) 1 s) :=
  congrArg Host.Outcome.next (if_neg (Nat.not_lt.mpr h))

theorem busError_sram (addr master : Nat) (s : State) : (busError addr master s).mem.sram = s.mem.sram :=
  (report_mailboxOnly ..).sram

/-! ### SYS_REMAP (R418) -/

theorem exec_sysRemapWrite {master : Nat} (v : Nat) (s : State) (h : master ≤ 1) :
    exec (.sysRemapWrite master v) s =
      .next { onBus master 4 s with sys := { s.sys with remap := s.sys.remap || decide (v = 1) } } := by
  refine congrArg Host.Outcome.next ((if_pos h).trans ?_)
  have hstands : ∀ b, s.sys.remap = b → onBus master 4 s = { onBus master 4 s with sys := { s.sys with remap := b } } := by
    rintro _ rfl; rfl
  cases hr : s.sys.remap
  · by_cases hv : v = 1
    · simp [hr, hv]
    · simpa [hr, hv] using hstands false hr
  · simpa [hr] using hstands true hr

theorem exec_sysRemapWrite_host {master : Nat} (v : Nat) (s : State) (h : 2 ≤ master) :
    exec (.sysRemapWrite master v) s = .next (ignoreWrite (onBus master 4 s)) :=
  congrArg Host.Outcome.next (if_neg (by omega))

/-! ### Semaphores (R434, R435, R507) -/

@[simp] theorem semOf_putSem_self (n : Nat) (x : Sem) (s : State) : semOf (putSem n x s) n = x := by
  by_cases hx : x = {}
  · simp [semOf, putSem, Tbl.putD, Tbl.getD, hx]
  · simp [semOf, putSem, Tbl.putD, hx]

theorem semOf_putSem_other {m n : Nat} (h : m ≠ n) (x : Sem) (s : State) : semOf (putSem n x s) m = semOf s m := by
  by_cases hx : x = {}
  · simp [semOf, putSem, Tbl.putD, Tbl.getD, hx, Tbl.find_erase_other h]
  · simp [semOf, putSem, Tbl.putD, hx, Tbl.getD_put_other h]

theorem semHostIgnored_iff (master n : Nat) : semHostIgnored master n = true ↔ (master = 2 ∨ master = 7) ∧ n < 128 := by
  simp [semHostIgnored]

theorem exec_semAcquire_host {master n : Nat} (tag : Nat) (s : State) (h : semHostIgnored master n = true) :
    exec (.semAcquire master n tag) s = .next (ignoreWrite (onBus master 4 s)) :=
  congrArg Host.Outcome.next (if_pos h)

theorem exec_semRelease_host {master n : Nat} (tag : Nat) (s : State) (h : semHostIgnored master n = true) :
    exec (.semRelease master n tag) s = .next (ignoreWrite (onBus master 4 s)) :=
  congrArg Host.Outcome.next (if_pos h)

theorem exec_semAcquire {master n : Nat} (tag : Nat) (s : State) (h : ¬ semHostIgnored master n = true) :
    exec (.semAcquire master n tag) s = .next (if (semOf s n).held then onBus master 4 s
      else putSem n { semOf s n with held := true, master := master, tag := tag } (onBus master 4 s)) :=
  congrArg Host.Outcome.next (if_neg h)

theorem exec_semRelease {master n : Nat} (tag : Nat) (s : State) (h : ¬ semHostIgnored master n = true) :
    exec (.semRelease master n tag) s =
      .next (if (semOf s n).held ∧ (semOf s n).master = master ∧ (semOf s n).tag = tag then putSem n {} (onBus master 4 s)
      else { onBus master 4 s with arb := { (onBus master 4 s).arb with badRelease := (s.arb.badRelease + 1) % 2 ^ 16 } }) :=
  congrArg Host.Outcome.next (if_neg h)

/-- A host path's read of a semaphore answers its read view and latches nothing (R497, R507). -/
theorem exec_latchedRead_sem {path n : Nat} (s : State) (hpath : path < 2) (hn : n < 256) :
    exec (.latchedRead path (0x1400 + 4 * n)) s =
      .next { s with out := s.out ++ [.regRead path (0x1400 + 4 * n) (semReg s (0x1400 + 4 * n))] } := by
  generalize hoff : 0x1400 + 4 * n = off
  have hpaths : pathOnly path off = false := by simp [pathOnly]; omega
  have hplain : isLatched off = false := by
    simp [isLatched]
    omega
  have hlatch : latchedWith off = [] := by
    unfold latchedWith
    split
    case h_9 => exact if_neg (by omega)
    all_goals omega
  have hlive : regLive s path off = semReg s off := by
    unfold regLive
    iterate 5 rw [if_neg (by omega)]
    exact if_pos (by omega)
  have hread : readRegister path off s = (semReg s off, s) := by
    unfold readRegister
    rw [if_neg (by omega), hpaths, hplain, hlatch, hlive]
    rfl
  show execLatchedRead path off s = _
  rw [execLatchedRead, hread]

/-- The fields of a semaphore's read view (R507). -/
theorem semReg_fields {n : Nat} (s : State) (hn : n < 256) (hm : (semOf s n).master < 16) (ht : (semOf s n).tag < 256) :
    Fx.bit (semReg s (0x1400 + 4 * n)) 31 = (semOf s n).held ∧ Fx.bit (semReg s (0x1400 + 4 * n)) 30 = (semOf s n).abandoned ∧
      semReg s (0x1400 + 4 * n) / 256 % 16 = (semOf s n).master ∧ semReg s (0x1400 + 4 * n) % 256 = (semOf s n).tag := by
  have hreg : semReg s (0x1400 + 4 * n) = Fx.b2n (semOf s n).held * 2 ^ 31 + Fx.b2n (semOf s n).abandoned * 2 ^ 30 +
      (semOf s n).master * 2 ^ 8 + (semOf s n).tag := by
    rw [semReg, if_pos (by omega), show (0x1400 + 4 * n - 0x1400) / 4 = n by omega]
  rw [hreg]
  generalize semOf s n = x at hm ht
  obtain ⟨held, abandoned, master, tag⟩ := x
  dsimp only at hm ht ⊢
  cases held <;> cases abandoned <;> simp [Fx.bit, Fx.b2n] <;> omega

/-! ### DMA channels (R436, R441, R508) -/

theorem dmaAllowed_iff (path ch : Nat) : dmaAllowed path ch = true ↔ ch < 16 ∧ (path = 2 ∨ 12 ≤ ch) := by simp [dmaAllowed]

theorem exec_dmaGo_starts {path ch : Nat} {s : State} (hok : dmaAllowed path ch = true) (hidle : (dmaOf s ch).state ≠ 1)
    (hdesc : ch < 12 ∨ (0x20000000 ≤ (dmaOf s ch).desc ∧ (dmaOf s ch).desc < 0x20010000 ∧ (dmaOf s ch).desc % 32 = 0)) :
    exec (.dmaGo path ch) s =
      .next (putDma ch { dmaOf s ch with state := 1, current := (dmaOf s ch).desc, abort := false } s) := by
  refine congrArg Host.Outcome.next ((if_neg (by simp [hok])).trans ((if_neg hidle).trans (if_neg ?_)))
  simp only [Bool.not_eq_true', Bool.and_eq_false_iff, decide_eq_false_iff_not]
  omega

theorem exec_dmaGo_badStart {path ch : Nat} {s : State} (hok : dmaAllowed path ch = true) (hidle : (dmaOf s ch).state ≠ 1)
    (hhost : 12 ≤ ch) (hdesc : (dmaOf s ch).desc < 0x20000000) :
    exec (.dmaGo path ch) s = .next (putDma ch { dmaOf s ch with state := 5 } s) := by
  refine congrArg Host.Outcome.next ((if_neg (by simp [hok])).trans ((if_neg hidle).trans (if_pos ⟨hhost, ?_⟩)))
  simp [Nat.not_le.mpr hdesc]

theorem exec_dmaAbort {path ch : Nat} (s : State) (hok : dmaAllowed path ch = true) :
    exec (.dmaAbort path ch) s = .next (if (dmaOf s ch).state = 1 then putDma ch { dmaOf s ch with abort := true } s
      else putDma ch { dmaOf s ch with state := 3 } s) :=
  congrArg Host.Outcome.next (if_neg (by simp [hok]))

theorem exec_dmaDescriptorEnd {ch : Nat} (host : List (Nat × Byte)) (ecc : Option Nat) (done : Nat) (s : State) (h : ch < 16) :
    exec (.dmaDescriptorEnd ch host ecc done) s = .next (dmaDescriptor ch host ecc done (onBus 3 1 s)) :=
  congrArg Host.Outcome.next (if_pos h)

/-- A descriptor that the engine does not own ends the channel, without a write-back. -/
theorem dmaDescriptor_notOwned {ch : Nat} (host : List (Nat × Byte)) (ecc : Option Nat) (done : Nat) {s : State}
    (hrun : (dmaOf s ch).state = 1) (hown : (descOf (descBytes s (dmaOf s ch).current)).own = false) :
    dmaDescriptor ch host ecc done s =
      putDma ch { dmaOf s ch with state := if (dmaOf s ch).abort then 3 else 2, abort := false } s := by
  unfold dmaDescriptor
  rw [if_neg (by simp [hrun])]
  exact if_pos (by simp [hown])

/-! ### A descriptor in control SRAM -/

/-- Control SRAM stands at its address for every value of SYS_REMAP (R417). -/
theorem regionOf_sram (remap : Bool) {o : Nat} (h : o < 0x800000) : regionOf remap (0x10000000 + o) = .sram o := by
  rw [regionOf, if_neg (by omega), if_neg (by omega), if_pos (by omega), Nat.add_sub_cancel_left]

theorem dmaRead_sram (s : State) (host : List (Nat × Byte)) {o : Nat} (h : o < 0x800000) :
    dmaRead s host 0 (0x10000000 + o) = some (s.mem.sram.read o) := by
  simp [dmaRead, regionOf_sram _ h]

theorem dmaWrite_sram (s : State) {o : Nat} (b : Byte) (h : o < 0x800000) :
    dmaWrite s 0 (0x10000000 + o) b = some { s with mem := { s.mem with sram := s.mem.sram.write o b } } := by
  simp [dmaWrite, regionOf_sram _ h]

/-- A word put at a descriptor in control SRAM. -/
theorem descPut_sram {o : Nat} (v : Nat) (s : State) (h : o + 4 ≤ 0x800000) :
    descPut (0x10000000 + o) v s = { s with mem := { s.mem with sram := s.mem.sram.writeLE o v 4 } } := by
  have hput : ∀ i < 4, ∀ u : State, (dmaWrite u 0 (0x10000000 + o + i) (BitVec.ofNat 8 (v / 256 ^ i))).getD u =
      { u with mem := { u.mem with sram := u.mem.sram.write (o + i) (BitVec.ofNat 8 (v / 256 ^ i)) } } := by
    intro i hi u
    rw [Nat.add_assoc, dmaWrite_sram u _ (by omega), Option.getD_some]
  have hbytes : s.mem.sram.writeLE o v 4 = (((s.mem.sram.write (o + 0) (BitVec.ofNat 8 (v / 256 ^ 0))).write (o + 1)
      (BitVec.ofNat 8 (v / 256 ^ 1))).write (o + 2) (BitVec.ofNat 8 (v / 256 ^ 2))).write (o + 3)
      (BitVec.ofNat 8 (v / 256 ^ 3)) := by
    simp [Memory.writeLE, Nat.div_div_eq_div_mul, Nat.add_assoc]
  rw [descPut, show List.range 4 = [0, 1, 2, 3] from rfl, hbytes]
  simp only [List.foldl_cons, List.foldl_nil, hput 0 (by decide), hput 1 (by decide), hput 2 (by decide), hput 3 (by decide)]

/-- OWN of a descriptor in control SRAM is bit 31 of its first word. -/
theorem own_descBytes_sram {o : Nat} (s : State) (h : o + 32 ≤ 0x800000) :
    (descOf (descBytes s (0x10000000 + o))).own = Fx.bit (s.mem.sram.readLE o 4) 31 := by
  have hbytes : descBytes s (0x10000000 + o) = (List.range 32).map fun i => s.mem.sram.read (o + i) := by
    refine List.map_congr_left fun i hi => ?_
    rw [Nat.add_assoc, dmaRead_sram s [] (by have := List.mem_range.mp hi; omega), Option.getD_some]
  have hword : fromLE ((descBytes s (0x10000000 + o)).take 4) = s.mem.sram.readLE o 4 := by
    rw [hbytes, ← List.map_take, List.take_range]
    simp [List.range_succ, fromLE, Memory.readLE, Nat.add_assoc]
  rw [descOf, hword]

/-! ### A descriptor that copies a word from control SRAM to the bulk store (R437 to R440) -/

theorem healWords_of_clean (space a n : Nat) {s : State} (h : s.mem.poison = []) : healWords space a n s = s := by
  have hstands : ∀ p, p = s.mem.poison → { s with mem := { s.mem with poison := p } } = s := by rintro _ rfl; rfl
  exact hstands _ (by simp [h])

theorem foldl_dmaWrite_bulk (s : State) (a : Nat) {n : Nat} (g : Nat → Byte) (h : a + n ≤ 0x0C000000) :
    (List.range n).foldl (fun (o : Option State) j => o.bind fun s => dmaWrite s 1 (a + j) (g j)) (some s) =
      some { s with mem := { s.mem with bulk := s.mem.bulk.writeBytes a ((List.range n).map g) } } := by
  induction n with
  | zero => rfl
  | succ n ih =>
    rw [List.range_succ, List.foldl_append, ih (by omega), List.map_append, List.map_singleton, Memory.writeBytes_concat]
    simp [dmaWrite, show a + n < 0x0C000000 by omega]

/-- A linear descriptor, owned by the engine, of one element of four bytes from control SRAM to the bulk store. -/
structure Desc.CopiesWord (d : Desc) : Prop where
  own : d.own = true
  mode : d.mode = 0
  rev : d.rev = false
  chain : d.chain = false
  resv : d.resv = 0
  index : d.index = 0
  src : d.src = 0
  dst : d.dst = 1
  esize : d.esize = 4
  count : d.count = 4
  srcLo : 0x10000000 ≤ d.srcA
  srcHi : d.srcA + 4 ≤ 0x10800000
  dstHi : d.dstA + 4 ≤ 0x0C000000

/-- The four bytes that such a descriptor moves. -/
def Desc.word (d : Desc) (s : State) : List Byte := (List.range 4).map fun j => s.mem.sram.read (d.srcA - 0x10000000 + j)

/-- The state with the four bytes moved. -/
def Desc.copied (d : Desc) (s : State) : State :=
  { s with mem := { s.mem with bulk := s.mem.bulk.writeBytes d.dstA (d.word s) } }

theorem Desc.read_copied_moved (d : Desc) (s : State) {i : Nat} (hi : i < 4) :
    (d.copied s).mem.bulk.read (d.dstA + i) = s.mem.sram.read (d.srcA - 0x10000000 + i) := by
  have hlen : i < (d.word s).length := by simpa [Desc.word] using hi
  rw [Desc.copied, Memory.read_writeBytes_inside _ _ hlen]
  simp [Desc.word]

theorem Desc.read_copied_other (d : Desc) (s : State) {b : Nat} (hb : b < d.dstA ∨ d.dstA + 4 ≤ b) :
    (d.copied s).mem.bulk.read b = s.mem.bulk.read b :=
  Memory.read_writeBytes_outside (by simpa [Desc.word] using hb)

namespace Desc.CopiesWord

variable {d : Desc} (h : d.CopiesWord)
include h

theorem elements : d.elements = 1 := by simp [Desc.elements, h.mode, h.count, h.esize]

theorem ok : d.ok = true := by
  have := h.srcHi
  have := h.dstHi
  have hsrc : d.srcA < 4503599627370496 := by omega
  have hdst : d.dstA < 4503599627370496 := by omega
  simp [Desc.ok, isProgram, h.resv, h.mode, h.rev, hsrc, hdst, h.index, h.count, h.esize, h.src, h.dst]

/-- The word is read in full, no limit of R437 stands against it, and it is written. -/
theorem moveElement (host : List (Nat × Byte)) {s : State} (hclean : s.mem.poison = []) :
    Machine.moveElement host .firmware d 0 s = (d.copied s, 0x01) := by
  obtain ⟨o, ho⟩ := Nat.exists_eq_add_of_le h.srcLo
  have hfit : o + 4 ≤ 0x800000 := by have := h.srcHi; omega
  have hbytes : (List.range 4).map (fun j => dmaRead s host 0 (d.srcA + j)) = (d.word s).map some := by
    rw [Desc.word, List.map_map]
    refine List.map_congr_left fun j hj => ?_
    rw [Function.comp, ho, Nat.add_assoc, Nat.add_sub_cancel_left, dmaRead_sram s host (by have := List.mem_range.mp hj; omega)]
  have hword : (List.range 4).map (fun j => (((d.word s).map some).getD j none).getD 0) = d.word s := by
    simp [Desc.word, List.range_succ]
  have hmoved := foldl_dmaWrite_bulk s d.dstA (fun j => (((d.word s).map some).getD j none).getD 0) h.dstHi
  rw [hword] at hmoved
  have hplace : dmaPlace s 0 d.srcA = some (0, o) := by simp [ho, dmaPlace, regionOf_sram _ (show o < 0x800000 by omega)]
  have hread : dmaDenied s .firmware false 0 d.srcA = false := by
    simp [ho, dmaDenied, regionOf_sram _ (show o < 0x800000 by omega)]
  have hwrite : dmaDenied s .firmware true 1 d.dstA = false := by simp [dmaDenied]
  have hsound : ∀ space a n, poisoned s space a n = false := fun space a n => by simp [poisoned, hclean]
  unfold Machine.moveElement
  simp only [h.mode, h.rev, h.src, h.dst, h.esize, Bool.false_eq_true, if_false, if_true, Nat.zero_mul, Nat.add_zero, ite_self,
    hbytes, hread, hwrite, hplace, hsound, hmoved]
  simp [dmaPlace, healWords_of_clean, hclean, Desc.copied]

theorem moveElements (host : List (Nat × Byte)) {s : State} (hclean : s.mem.poison = []) :
    Machine.moveElements host .firmware d none 1 0 s = (d.copied s, 1, 0x01) := by
  simp [Machine.moveElements, h.moveElement host hclean]

end Desc.CopiesWord

/-- The three words that the end of a descriptor puts there. -/
theorem descPut_thrice {o : Nat} (r v w : Nat) (s : State) (h : o + 8 ≤ 0x800000) :
    descPut (0x10000000 + o) w (descPut (0x10000000 + o) v (descPut (0x10000000 + o + 4) r s)) =
      { s with mem := { s.mem with sram := ((s.mem.sram.writeLE (o + 4) r 4).writeLE o v 4).writeLE o w 4 } } := by
  rw [Nat.add_assoc, descPut_sram r s (by omega), descPut_sram v _ (by omega), descPut_sram w _ (by omega)]

/-- Control SRAM after a descriptor at offset o ended with residue r: the residue, the status w with OWN set, then cleared. -/
def descEnded (m : Memory) (o r w : Nat) : Memory :=
  ((m.writeLE (o + 4) r 4).writeLE o (w % 2 ^ 31 + 2 ^ 31) 4).writeLE o (w % 2 ^ 31) 4

theorem descEnded_status (m : Memory) (o r w : Nat) : (descEnded m o r w).read o = BitVec.ofNat 8 w := by
  have hbyte := Memory.read_writeLE_byte ((m.writeLE (o + 4) r 4).writeLE o (w % 2 ^ 31 + 2 ^ 31) 4) o (w % 2 ^ 31)
    (show 0 < 4 by decide)
  refine hbyte.trans (BitVec.eq_of_toNat_eq ?_)
  simp only [BitVec.toNat_ofNat]
  omega

theorem descEnded_residue (m : Memory) (o r w : Nat) : (descEnded m o r w).readLE (o + 4) 4 = r % 256 ^ 4 := by
  rw [descEnded, Memory.readLE_writeLE_outside (by omega), Memory.readLE_writeLE_outside (by omega), Memory.readLE_writeLE_self]

theorem descEnded_own (m : Memory) (o r w : Nat) : Fx.bit ((descEnded m o r w).readLE o 4) 31 = false := by
  rw [descEnded, Memory.readLE_writeLE_self]
  simp only [Fx.bit, decide_eq_false_iff_not]
  omega

/-- A channel of the firmware whose descriptor in control SRAM completes and does not chain goes idle. -/
theorem descEnd_complete {ch o : Nat} {d : Desc} (ctl r : Nat) (s : State) (hch : ch < 12) (hchain : d.chain = false)
    (hfit : o + 32 ≤ 0x800000) :
    descEnd ch d (0x10000000 + o) ctl r 0x01 s =
      putDma ch { dmaOf s ch with last := 1, count := ((dmaOf s ch).count + 1) % 2 ^ 32, abort := false,
                                  current := 0x10000000 + o, state := 0 }
        { s with mem := { s.mem with sram := descEnded s.mem.sram o r (ctl / 256 * 256 + 1) } } := by
  have hputs := descPut_thrice r ((ctl / 256 * 256 + 1) % 2 ^ 31 + 2 ^ 31) ((ctl / 256 * 256 + 1) % 2 ^ 31) s (o := o) (by omega)
  unfold descEnd
  dsimp only
  rw [hputs, ← descEnded]
  generalize descEnded s.mem.sram o r (ctl / 256 * 256 + 1) = m
  generalize 0x10000000 + o = a
  have hchannel : dmaOf { s with mem := { s.mem with sram := m } } ch = dmaOf s ch := rfl
  simp [hchain, dmaSeverity, hchannel, show ¬ 12 ≤ ch by omega]

/-- The whole of a descriptor of a firmware channel that copies a word: the word is moved, and the descriptor ends. -/
theorem dmaDescriptor_copiesWord {ch o : Nat} {s : State} (hch : ch < 12) (hrun : (dmaOf s ch).state = 1)
    (habort : (dmaOf s ch).abort = false) (hat : (dmaOf s ch).current = 0x10000000 + o) (hfit : o + 32 ≤ 0x800000)
    (hclean : s.mem.poison = []) {d : Desc} (hd : descOf (descBytes s (0x10000000 + o)) = d) (h : d.CopiesWord) :
    ∃ w, dmaDescriptor ch [] none 0 s =
      putDma ch { dmaOf s ch with last := 1, count := ((dmaOf s ch).count + 1) % 2 ^ 32, abort := false,
                                  current := 0x10000000 + o, state := 0 }
        { d.copied s with mem := { (d.copied s).mem with sram := descEnded s.mem.sram o 0 (w * 256 + 1) } } := by
  refine ⟨fromLE ((descBytes s (0x10000000 + o)).take 4) / 256,
    Eq.trans ?_ (descEnd_complete _ 0 (d.copied s) hch h.chain hfit)⟩
  unfold dmaDescriptor
  rw [if_neg (by simp [hrun])]
  simp [hat, hd, h.own, h.ok, habort, h.elements, show ¬ 12 ≤ ch by omega, h.moveElements [] hclean, h.mode, h.count, h.esize]

/-- Settles O54, part by part: the target's grant, the set and clear aliases, SYS_REMAP, the semaphores and the DMA channels,
each from what `exec` of its command comes to. -/
theorem controlSpaceCommands : Obligations.ControlSpaceCommands := by
  refine ⟨?grant, onBus_eq, ?aliases, ?beyond, ?remap, ?remapHost, ?sems, ?semsHost, ?semRead, ?start, ?abort,
    ?notOwned, ?copy⟩
  case grant =>
    intro target waiting s hne
    obtain ⟨r, hr, hgrant, hbest⟩ := grantNext_noLater s target hne
    exact ⟨r, hr, hgrant, lastGrant_grantTarget hgrant, hbest⟩
  case aliases =>
    intro off v enables s hoff hwf
    refine ⟨_, _, exec_setAliasWrite v enables s hoff, exec_clearAliasWrite v enables s hoff, aliasWrite_wf _ _ _ _ hwf,
      aliasWrite_wf _ _ _ _ hwf, fun i hi => ?_, fun i hi => ?_, fun a ha => ?_, rfl, rfl⟩
    · simpa using read_aliasWrite_word true off v enables (onBus 1 1 s) hi
    · simpa using read_aliasWrite_word false off v enables (onBus 1 1 s) hi
    · exact ⟨read_aliasWrite_other true v enables _ ha, read_aliasWrite_other false v enables _ ha⟩
  case beyond =>
    intro off v enables s hoff
    exact ⟨_, exec_setAliasWrite_beyond v enables s hoff, busError_sram ..,
      _, exec_clearAliasWrite_beyond v enables s hoff, busError_sram ..⟩
  case remap => exact fun master v s hm => ⟨_, exec_sysRemapWrite v s hm, rfl⟩
  case remapHost => exact fun master v s hm => ⟨_, exec_sysRemapWrite_host v s hm, rfl⟩
  case sems =>
    intro master n tag s hfree
    have hown : ¬ semHostIgnored master n = true := by rw [semHostIgnored_iff]; omega
    rw [exec_semAcquire tag s hown, exec_semRelease tag s hown]
    refine ⟨fun hx => ⟨_, congrArg _ (if_neg (by simp [hx])), ?_, fun m hm => semOf_putSem_other hm _ _⟩,
      fun hx => congrArg _ (if_pos hx),
      fun hx hmaster htag => ⟨_, congrArg _ (if_pos ⟨hx, hmaster, htag⟩), semOf_putSem_self ..,
        fun m hm => semOf_putSem_other hm _ _⟩,
      fun hx => congrArg _ (if_neg ?_)⟩
    · simp
    · rintro ⟨hheld, hmaster, htag⟩
      simp [hheld, hmaster, htag] at hx
  case semsHost =>
    intro master n tag s hm hn
    have hhost := (semHostIgnored_iff master n).mpr ⟨hm, hn⟩
    exact ⟨exec_semAcquire_host tag s hhost, exec_semRelease_host tag s hhost⟩
  case semRead => exact fun path n s hp hn hm ht => ⟨_, exec_latchedRead_sem s hp hn, semReg_fields s hn hm ht⟩
  case start =>
    intro path ch s hch hpath hidle
    have hok := (dmaAllowed_iff path ch).mpr ⟨hch, hpath⟩
    refine ⟨fun hdesc => ⟨_, exec_dmaGo_starts hok hidle hdesc, ?_, ?_, fun d hd => dmaOf_putDma_other hd _ _⟩,
      fun hhost hdesc => ⟨_, exec_dmaGo_badStart hok hidle hhost hdesc, dmaOf_putDma_self ..⟩,
      _, (exec_dmaAbort s hok).trans (congrArg _ (if_neg hidle)), dmaOf_putDma_self ..⟩ <;> simp
  case abort =>
    intro path ch s hch hpath hrun
    refine ⟨_, (exec_dmaAbort s ((dmaAllowed_iff path ch).mpr ⟨hch, hpath⟩)).trans (congrArg _ (if_pos hrun)), ?_⟩
    simp [hrun]
  case notOwned =>
    intro ch done host ecc s hch hrun hown
    refine ⟨_, exec_dmaDescriptorEnd host ecc done s hch, ?_⟩
    rw [dmaDescriptor_notOwned host ecc done (s := onBus 3 1 s) hrun hown]
    exact ⟨rfl, congrArg Dma.state (dmaOf_putDma_self ..)⟩
  case copy =>
    intro ch a s hch hrun habort hat _ hclean hlo _ hhi _ d hown hmode hrev hchain hresv hindex hsrc hdst hesize hcount hsrcLo
      hsrcHi hdstHi
    have hd : d.CopiesWord :=
      ⟨hown, hmode, hrev, hchain, hresv, hindex, hsrc, hdst, hesize, hcount, hsrcLo, hsrcHi, hdstHi⟩
    obtain ⟨o, rfl⟩ := Nat.exists_eq_add_of_le hlo
    have hfit : o + 32 ≤ 0x800000 := by omega
    obtain ⟨w, hdone⟩ := dmaDescriptor_copiesWord (s := onBus 3 1 s) hch hrun habort hat hfit hclean
      (congrArg descOf (descBytes_onBus ..)) hd
    rw [Nat.add_sub_cancel_left, exec_dmaDescriptorEnd [] none 0 s (by omega), hdone]
    refine ⟨_, rfl, fun i hi => d.read_copied_moved (onBus 3 1 s) hi,
      fun b hb => d.read_copied_other (onBus 3 1 s) hb, ?_, ?_, ?_, ?_⟩
    · refine (descEnded_status ..).trans (BitVec.eq_of_toNat_eq ?_)
      simp
    · exact descEnded_residue ..
    · rw [own_descBytes_sram _ hfit]
      exact descEnded_own ..
    · simp

end Sys2Proof.Machine
end

section
/-!
PROOFS. Words as bits: what setting, clearing and listing bits does to each bit of a word, and folds whose steps overwrite.
-/
namespace Sys2Proof

theorem Fx.bit_eq_testBit (v i : Nat) : Fx.bit v i = v.testBit i := Nat.testBit_eq_decide_div_mod_eq.symm

theorem Fx.bit_of_lt {v k i : Nat} (hv : v < 2 ^ k) (hi : k ≤ i) : Fx.bit v i = false := by
  rw [Fx.bit_eq_testBit]
  exact Nat.testBit_lt_two_pow (hv.trans_le (Nat.pow_le_pow_right (by decide) hi))

theorem testBit_two_pow_add_other {v i j : Nat} (hclear : v.testBit i = false) (hj : j ≠ i) :
    (2 ^ i + v).testBit j = v.testBit j := by
  rcases Nat.lt_or_gt_of_ne hj with hlt | hgt
  · exact Nat.testBit_two_pow_add_gt hlt v
  · obtain ⟨m, rfl⟩ := Nat.exists_eq_add_of_lt hgt
    have heven : v / 2 ^ i % 2 = 0 := by simpa [Nat.testBit_eq_decide_div_mod_eq] using hclear
    have hhigh : (2 ^ i + v) / 2 ^ (i + 1) = v / 2 ^ (i + 1) := by
      rw [Nat.pow_succ, ← Nat.div_div_eq_div_mul, ← Nat.div_div_eq_div_mul, Nat.add_div_left _ (Nat.two_pow_pos i)]
      omega
    rw [show i + m + 1 = m + (i + 1) by omega, Nat.testBit_add, Nat.testBit_add, hhigh]

theorem Fx.bit_setBit (v i j : Nat) (b : Bool) : Fx.bit (Fx.setBit v i b) j = if i = j then b else Fx.bit v j := by
  have hset : ∀ w, w.testBit i = false → (2 ^ i + w).testBit j = if i = j then true else w.testBit j := by
    intro w hw
    split
    next h => rw [← h, Nat.testBit_two_pow_add_eq, hw]; rfl
    next h => exact testBit_two_pow_add_other hw (Ne.symm h)
  simp only [Fx.setBit, Fx.bit_eq_testBit]
  have hsame : ∀ c, v.testBit i = c → v.testBit j = if i = j then c else v.testBit j := by
    rintro _ rfl
    split
    next h => rw [h]
    next => rfl
  cases hbit : v.testBit i <;> cases b
  · exact hsame _ hbit
  · simpa [Nat.add_comm v] using hset v hbit
  · obtain ⟨w, rfl⟩ := Nat.exists_eq_add_of_le (Nat.ge_two_pow_of_testBit hbit)
    have hw : w.testBit i = false := by simpa [Nat.testBit_two_pow_add_eq] using hbit
    by_cases h : i = j
    · simp [← h, hw]
    · simp [hset w hw, h]
  · exact hsame _ hbit

theorem mem_bitsOf {k v n : Nat} : n ∈ bitsOf k v ↔ n < k ∧ Fx.bit v n = true := by simp [bitsOf]

/-- A fold each of whose steps either overwrites a part of the state with b or leaves it. -/
theorem foldl_overwrite {σ α β : Type} {f : σ → α → σ} {g : σ → β} {c : α → Bool} {b : β} {l : List α}
    (h : ∀ i ∈ l, ∀ s, g (f s i) = if c i then b else g s) (s : σ) : g (l.foldl f s) = if l.any c then b else g s := by
  induction l generalizing s with
  | nil => rfl
  | cons i l ih =>
    rw [List.foldl_cons, ih (fun j hj => h j (List.mem_cons_of_mem i hj)), h i List.mem_cons_self, List.any_cons]
    cases c i <;> cases l.any c <;> rfl

/-- A fold over the listed bits of a word v whose step i overwrites bit i of what g shows. -/
theorem foldl_bitsOf {σ : Type} {f : σ → Nat → σ} {g : σ → Nat} {b : Bool} (h : ∀ s i, g (f s i) = Fx.setBit (g s) i b)
    {k v n : Nat} (hn : n < k ∨ v < 2 ^ k) (s : σ) :
    Fx.bit (g ((bitsOf k v).foldl f s)) n = if Fx.bit v n then b else Fx.bit (g s) n := by
  have hlisted : (bitsOf k v).any (fun i => decide (i = n)) = Fx.bit v n := by
    rw [Bool.eq_iff_iff]
    simp only [List.any_eq_true, mem_bitsOf, decide_eq_true_eq, exists_eq_right]
    refine and_iff_right_of_imp fun hbit => hn.elim id fun hv => ?_
    by_contra hle
    exact absurd hbit (by simp [Fx.bit_of_lt hv (Nat.le_of_not_lt hle)])
  rw [← hlisted]
  exact foldl_overwrite (g := fun s => Fx.bit (g s) n) (fun i _ s => by simp [h, Fx.bit_setBit]) s

theorem Tbl.mem_of_find {α : Type} {t : Tbl α} {k : Nat} {v : α} (h : Tbl.find t k = some v) : (k, v) ∈ t := by
  induction t with
  | nil => cases h
  | cons e t ih =>
    obtain ⟨j, a⟩ := e
    by_cases hj : j = k
    · simp_all [Tbl.find]
    · exact List.mem_cons_of_mem _ (ih (by simpa [Tbl.find, hj] using h))

end Sys2Proof
end

section
/-!
PROOFS. The registers as a host reads and writes them: ignored writes, latched reads, status bits, MSI-X, claims, releases and
the reset of the PCIe endpoint.
-/
namespace Sys2Proof.Machine
open Sys2Proof

/-! ### Writes that are ignored (R495) -/

/-- Outside the offsets that a host path may write, a full write is ignored. -/
theorem writeRegister_unwritable (path v : Nat) (host : List (Nat × Byte)) {off : Nat} (s : State)
    (h : off = 0 ∨ off = 0x10 ∨ off = 0x30 ∨ (0x1804 ≤ off ∧ off < 0x2000) ∨ (0x3000 ≤ off ∧ off < 0xF000)) :
    writeRegister path off v host s = .next (ignoreWrite s) := by
  have hsem : ¬(0x1400 ≤ off ∧ off < 0x1800) := by omega
  have hdma : ¬(0x2000 ≤ off ∧ off < 0x2200) := by omega
  have hstarve : ¬(0x2C10 ≤ off ∧ off < 0x2C40) := by omega
  have hmsix : ¬(0xF000 ≤ off ∧ off < 0xF200) := by omega
  unfold writeRegister
  split
  case h_15 => rw [if_neg hsem, if_neg hdma, if_neg hstarve, if_neg hmsix]
  all_goals omega

theorem exec_registerWrite_ignored (path v : Nat) (host : List (Nat × Byte)) {off enables : Nat} (s : State)
    (h : enables ≠ 15 ∨ off % 4 ≠ 0 ∨ 0x10000 ≤ off ∨ off = 0 ∨ off = 0x10 ∨ off = 0x30 ∨ (0x1804 ≤ off ∧ off < 0x2000) ∨
      (0x3000 ≤ off ∧ off < 0xF000)) :
    exec (.registerWrite path off v enables host) s = .next (ignoreWrite s) := by
  show (if enables ≠ 15 ∨ off % 4 ≠ 0 ∨ 0x10000 ≤ off then _ else writeRegister path off v host s) = _
  split
  next => rfl
  next hfull => exact writeRegister_unwritable path v host s (by omega)

/-! ### Latched reads (R497) -/

/-- The latches after a path's read of an offset. -/
def takeLatches (path off : Nat) (s : State) : Tbl Nat :=
  (latchedWith off).foldl (fun t h => Tbl.put t (latchKey path h) (regLive s path h)) s.int.latch

theorem exec_latchedRead_live {path off : Nat} (s : State) (hpath : path < 2) (hword : off % 4 = 0) (hin : off < 0x10000)
    (hlive : isLatched off = false) :
    exec (.latchedRead path off) s = .next { s with int := { s.int with latch := takeLatches path off s }
                                                    out := s.out ++ [.regRead path off (regLive s path off)] } := by
  have hread : readRegister path off s = (regLive s path off, { s with int := { s.int with latch := takeLatches path off s } }) := by
    unfold readRegister
    rw [if_neg (by omega), if_neg (by simp [pathOnly]; omega), if_neg (by simp [hlive])]
    rfl
  show execLatchedRead path off s = _
  rw [execLatchedRead, hread]

theorem exec_latchedRead_latched {path off : Nat} (s : State) (hpath : path < 2) (hword : off % 4 = 0) (hin : off < 0x10000)
    (hlatched : isLatched off = true) :
    exec (.latchedRead path off) s =
      .next { s with out := s.out ++ [.regRead path off (Tbl.getD s.int.latch (latchKey path off) 0)] } := by
  have hread : readRegister path off s = (Tbl.getD s.int.latch (latchKey path off) 0, s) := by
    unfold readRegister
    rw [if_neg (by omega), if_neg (by simp [pathOnly]; omega), if_pos hlatched]
  show execLatchedRead path off s = _
  rw [execLatchedRead, hread]

/-- A read latches, for the path that reads, what the words read with it hold. -/
theorem find_takeLatches_self {path off h : Nat} (s : State) (hh : h ∈ latchedWith off) :
    Tbl.find (takeLatches path off s) (latchKey path h) = some (regLive s path h) := by
  unfold takeLatches
  rw [foldl_overwrite (g := fun t => Tbl.find t (latchKey path h)) (c := fun h' => decide (h' = h)) (b := some (regLive s path h))]
  · rw [if_pos (List.any_eq_true.mpr ⟨h, hh, by simp⟩)]
  · intro h' _ t
    by_cases he : h' = h
    · simp [he]
    · simp only [he, decide_false, Bool.false_eq_true, if_false]
      exact Tbl.find_put_other (by simp only [latchKey]; omega) _ _

/-- Another master's latches stand. -/
theorem find_takeLatches_other {path other off h : Nat} (s : State) (hoff : ∀ h' ∈ latchedWith off, h' < 65536)
    (hne : other ≠ path) (hh : h < 65536) :
    Tbl.find (takeLatches path off s) (latchKey other h) = Tbl.find s.int.latch (latchKey other h) := by
  unfold takeLatches
  refine (foldl_overwrite (g := fun t => Tbl.find t (latchKey other h)) (c := fun _ => false) (b := none) ?_ _).trans (by simp)
  intro h' hmem t
  have hlt := hoff h' hmem
  exact Tbl.find_put_other (by simp only [latchKey]; omega) _ _

/-- The first words of R497 are read as they are, and the words read with them through their latches. -/
theorem latchedWith_words : ∀ off ∈ [0x10, 0xC00, 0xC10, 0xC18, 0xC20, 0x1010, 0x2404, 0x2C08],
    off % 4 = 0 ∧ off < 0x10000 ∧ isLatched off = false ∧
      ∀ h ∈ latchedWith off, h % 4 = 0 ∧ h < 0x10000 ∧ isLatched h = true := by decide

/-! ### Status bits, written one to clear and one to set (R498, R502) -/

theorem bit_clearBits {m : Nat} (v n : Nat) (hm : m < 2 ^ 32) : Fx.bit (clearBits v m) n = (Fx.bit v n && !Fx.bit m n) := by
  refine (foldl_bitsOf (f := fun v i => Fx.setBit v i false) (g := id) (fun _ _ => rfl) (.inr hm) v).trans ?_
  cases Fx.bit m n <;> simp

theorem raiseInt_status0 (n : Nat) (s : State) : (raiseInt n s).int.status0 = Fx.setBit s.int.status0 n true := by
  unfold raiseInt; dsimp only; (repeat' split) <;> rfl

theorem raiseInt_status1 (n : Nat) (s : State) : (raiseInt n s).int.status1 = Fx.setBit s.int.status1 n true := by
  unfold raiseInt; dsimp only; (repeat' split) <;> rfl

theorem bit_status0_raised (fired : Nat) {n : Nat} (hn : n < 22) (s : State) :
    Fx.bit ((bitsOf 22 fired).foldl (fun s n => raiseInt n s) s).int.status0 n = (Fx.bit s.int.status0 n || Fx.bit fired n) := by
  rw [foldl_bitsOf (g := fun s : State => s.int.status0) (fun s i => raiseInt_status0 i s) (.inl hn)]
  cases Fx.bit fired n <;> simp

theorem bit_status1_raised (fired : Nat) {n : Nat} (hn : n < 22) (s : State) :
    Fx.bit ((bitsOf 22 fired).foldl (fun s n => raiseInt n s) s).int.status1 n = (Fx.bit s.int.status1 n || Fx.bit fired n) := by
  rw [foldl_bitsOf (g := fun s : State => s.int.status1) (fun s i => raiseInt_status1 i s) (.inl hn)]
  cases Fx.bit fired n <;> simp

theorem bit_status0_clearStatus {path m : Nat} (s : State) (n : Nat) (hm : m < 2 ^ 32) :
    Fx.bit (clearStatus path m s).int.status0 n = (Fx.bit s.int.status0 n && !(decide (path = 0) && Fx.bit m n)) := by
  by_cases h : path = 0 <;> simp [clearStatus, h, bit_clearBits _ _ hm]

theorem bit_status1_clearStatus {path m : Nat} (s : State) (n : Nat) (hpath : path < 2) (hm : m < 2 ^ 32) :
    Fx.bit (clearStatus path m s).int.status1 n = (Fx.bit s.int.status1 n && !(decide (path = 1) && Fx.bit m n)) := by
  obtain rfl | rfl : path = 0 ∨ path = 1 := by omega
  · simp [clearStatus]
  · simp [clearStatus, bit_clearBits _ _ hm]

theorem exec_intStatusClear {path v : Nat} (fired : Nat) (s : State) (hv : v < 2 ^ 22) :
    exec (.intStatusClear path v fired) s = .next ((bitsOf 22 fired).foldl (fun s n => raiseInt n s) (clearStatus path v s)) := by
  show execIntStatusClear path v fired s = _
  unfold execIntStatusClear
  rw [if_neg (Nat.not_le.mpr hv)]

theorem setStatusBit_status0 (path n : Nat) (s : State) :
    (setStatusBit path n s).int.status0 = if path = 0 then Fx.setBit s.int.status0 n true else s.int.status0 := by
  unfold setStatusBit; dsimp only; (repeat' split) <;> rfl

theorem setStatusBit_status1 (path n : Nat) (s : State) :
    (setStatusBit path n s).int.status1 = if path = 0 then s.int.status1 else Fx.setBit s.int.status1 n true := by
  unfold setStatusBit; dsimp only; (repeat' split) <;> rfl

theorem exec_intSetWrite {path v : Nat} (s : State) (hv : v < 2 ^ 22) :
    exec (.intSetWrite path v) s = .next ((bitsOf 22 v).foldl (fun s n => setStatusBit path n s) s) :=
  congrArg Host.Outcome.next (if_neg (Nat.not_le.mpr hv))

/-- INT_SET of the PCIe path sets the bits of its copy; the SPI copy stands. -/
theorem bits_statusSet_pcie (v : Nat) {n : Nat} (hn : n < 22) (s : State) :
    let t := (bitsOf 22 v).foldl (fun s n => setStatusBit 0 n s) s
    Fx.bit t.int.status0 n = (Fx.bit s.int.status0 n || Fx.bit v n) ∧ t.int.status1 = s.int.status1 := by
  constructor
  · rw [foldl_bitsOf (g := fun s : State => s.int.status0) (fun s i => setStatusBit_status0 0 i s) (.inl hn)]
    cases Fx.bit v n <;> simp
  · exact List.foldlRecOn (motive := fun t : State => t.int.status1 = s.int.status1) _ _ rfl
      fun t ht i _ => (setStatusBit_status1 0 i t).trans ht

/-- INT_SET of the SPI path sets the bits of its copy; the PCIe copy stands. -/
theorem bits_statusSet_spi (v : Nat) {n : Nat} (hn : n < 22) (s : State) :
    let t := (bitsOf 22 v).foldl (fun s n => setStatusBit 1 n s) s
    t.int.status0 = s.int.status0 ∧ Fx.bit t.int.status1 n = (Fx.bit s.int.status1 n || Fx.bit v n) := by
  constructor
  · exact List.foldlRecOn (motive := fun t : State => t.int.status0 = s.int.status0) _ _ rfl
      fun t ht i _ => (setStatusBit_status0 1 i t).trans ht
  · rw [foldl_bitsOf (g := fun s : State => s.int.status1) (fun s i => setStatusBit_status1 1 i s) (.inl hn)]
    cases Fx.bit v n <;> simp

/-! ### MSI-X (R504) -/

theorem bitsOf_two_pow {k n : Nat} (hn : n < k) : bitsOf k (2 ^ n) = [n] := by
  have hbit : Fx.bit (2 ^ n) = fun i => i == n := by
    funext i
    rw [Fx.bit_eq_testBit, Nat.testBit_two_pow, Bool.eq_iff_iff]
    simpa using eq_comm
  rw [bitsOf, hbit, List.filter_beq, List.count_eq_one_of_mem List.nodup_range (List.mem_range.mpr hn), List.replicate_one]

/-- A status bit that becomes set with its vector enabled sends the message, or holds it pending where the vector is masked. -/
theorem setStatusBit_pcie_fires {n : Nat} {s : State} (hclear : Fx.bit s.int.status0 n = false)
    (hen : Fx.bit s.int.msixEnable n = true) (hon : s.int.msixOn = true) :
    (Fx.bit s.int.masked n = false → (setStatusBit 0 n s).out = s.out ++ [.msix n]) ∧
      (Fx.bit s.int.masked n = true → (setStatusBit 0 n s).out = s.out ∧ Fx.bit (setStatusBit 0 n s).int.pba n = true) := by
  constructor <;> intro hmask <;> simp [setStatusBit, hclear, hen, hon, hmask, Fx.bit_setBit]

/-- A pending message whose vector is now enabled and unmasked is no longer pending, and leaves if its status bit is set. -/
def releaseVector (enable : Bool) (masks : Nat) (s : State) (n : Nat) : State :=
  if Fx.bit s.int.pba n && enable && !Fx.bit masks n then
    let s := { s with int := { s.int with pba := Fx.setBit s.int.pba n false } }
    if Fx.bit s.int.status0 n then { s with out := s.out ++ [.msix n] } else s
  else s

theorem setMsix_eq (enable : Bool) (masks : Nat) (s : State) : setMsix enable masks s =
    (List.range 22).foldl (releaseVector enable masks) { s with int := { s.int with msixOn := enable, masked := masks } } := rfl

theorem releaseVector_int (enable : Bool) (masks : Nat) (s : State) (n : Nat) :
    (releaseVector enable masks s n).int = { s.int with pba := (releaseVector enable masks s n).int.pba } := by
  unfold releaseVector; dsimp only; (repeat' split) <;> rfl

theorem bit_pba_releaseVector (enable : Bool) (masks : Nat) (s : State) (i n : Nat) :
    Fx.bit (releaseVector enable masks s i).int.pba n =
      if decide (i = n) && (enable && !Fx.bit masks n) then false else Fx.bit s.int.pba n := by
  have hpba : (releaseVector enable masks s i).int.pba =
      if Fx.bit s.int.pba i && enable && !Fx.bit masks i then Fx.setBit s.int.pba i false else s.int.pba := by
    unfold releaseVector; dsimp only; (repeat' split) <;> rfl
  rw [hpba]
  by_cases h : i = n
  · subst h
    cases hp : Fx.bit s.int.pba i <;> cases enable <;> cases Fx.bit masks i <;> simp [Fx.bit_setBit, hp]
  · simp [h, apply_ite (Fx.bit · n), Fx.bit_setBit]

theorem setMsix_int (enable : Bool) (masks : Nat) (s : State) :
    (setMsix enable masks s).int = { s.int with msixOn := enable, masked := masks, pba := (setMsix enable masks s).int.pba } := by
  rw [setMsix_eq]
  refine List.foldlRecOn (motive := fun t : State => t.int = { s.int with msixOn := enable, masked := masks, pba := t.int.pba }) _ _
    rfl fun t ht n _ => ?_
  rw [releaseVector_int, ht]

theorem bit_pba_setMsix (enable : Bool) (masks : Nat) (s : State) {n : Nat} (hn : n < 22) :
    Fx.bit (setMsix enable masks s).int.pba n = (Fx.bit s.int.pba n && !(enable && !Fx.bit masks n)) := by
  rw [setMsix_eq, foldl_overwrite (g := fun s : State => Fx.bit s.int.pba n) (fun i _ s => bit_pba_releaseVector enable masks s i n)]
  have hany : ((List.range 22).any fun i => decide (i = n) && (enable && !Fx.bit masks n)) = (enable && !Fx.bit masks n) := by
    rw [Bool.eq_iff_iff]
    simp [List.any_eq_true, hn]
  rw [hany]
  cases enable && !Fx.bit masks n <;> simp

/-- The message of a set status bit has left or is still pending. -/
def SentOrPending (n : Nat) (s : State) : Prop :=
  Fx.bit s.int.status0 n = true ∧ (.msix n ∈ s.out ∨ Fx.bit s.int.pba n = true)

theorem SentOrPending.releaseVector {n : Nat} {s : State} (h : SentOrPending n s) (enable : Bool) (masks i : Nat) :
    SentOrPending n (releaseVector enable masks s i) := by
  obtain ⟨hset, hdue⟩ := h
  unfold Machine.releaseVector
  split
  · by_cases hi : i = n
    · subst hi
      simp [SentOrPending, hset]
    · have hkeep : Fx.bit (Fx.setBit s.int.pba i false) n = Fx.bit s.int.pba n := by simp [Fx.bit_setBit, hi]
      dsimp only
      split
      · exact ⟨hset, hdue.imp (List.mem_append_left _) hkeep.trans⟩
      · exact ⟨hset, hdue.imp_right hkeep.trans⟩
  · exact ⟨hset, hdue⟩

/-- A pending message whose vector is enabled and unmasked leaves where its status bit is set. -/
theorem msix_mem_out_setMsix {masks n : Nat} {s : State} (hn : n < 22) (hmask : Fx.bit masks n = false)
    (hpend : Fx.bit s.int.pba n = true) (hset : Fx.bit s.int.status0 n = true) : .msix n ∈ (setMsix true masks s).out := by
  have hdue : SentOrPending n (setMsix true masks s) :=
    List.foldlRecOn _ _ ⟨hset, .inr hpend⟩ fun t ht i _ => ht.releaseVector true masks i
  have hgone : Fx.bit (setMsix true masks s).int.pba n = false := by simp [bit_pba_setMsix _ _ _ hn, hmask]
  exact hdue.2.resolve_right (by simp [hgone])

/-! ### Claims and releases (R447, R448, R501) -/

theorem exec_mbxClaimWrite {path tag c : Nat} {s : State} (hopen : s.mbx.isOpen = true) (hc : c < 8)
    (hfree : (slotOf s c).state = 0) (hlow : ∀ d < c, (slotOf s d).state ≠ 0) :
    exec (.mbxClaimWrite path tag) s =
      .next (claimSlot c path 0xF tag { s with mbx := { s.mbx with claim := Tbl.put s.mbx.claim path c } }) := by
  have hslot : freeSlot s = some c := by
    rw [freeSlot, if_pos hopen, List.find?_range_eq_some]
    simpa [hc, hfree] using hlow
  show execMbxClaimWrite path tag s = _
  rw [execMbxClaimWrite, hslot]

/-- A slot that owns neither the maintenance state nor a commit list, and is not SPI's, leaves its objects, its sessions and
its rings. -/
theorem releaseSlot_own {c : Nat} {s : State} (hclaimed : (slotOf s c).state = 1) (hmaint : s.sys.maint ≠ some c)
    (hpath : (slotOf s c).path ≠ 1) (hlists : ∀ l ∈ s.scene.lists, l.2.slot ≠ c) :
    releaseSlot c true s = putSlot c {}
      { s with mbx := { s.mbx with objects := Tbl.keep (fun _ (o : Object) => o.slot != c) s.mbx.objects
                                   sessions := Tbl.keep (fun _ (x : Session) => x.slot != c) s.mbx.sessions }
               mem := { s.mem with mbx := s.mem.mbx.clear (0x0200 + c * 0x1000) 0x1000 } } := by
  have hnone : (s.scene.lists.filter fun l => decide (l.2.slot = c)) = [] := by simpa using hlists
  unfold releaseSlot
  simp [hclaimed, hnone, hmaint, hpath]

theorem exec_mbxReleaseWrite {path c : Nat} {s : State} (hc : c < 8) (hclaimed : (slotOf s c).state = 1)
    (hpath : (slotOf s c).path = path) : exec (.mbxReleaseWrite path c) s = .next (releaseSlot c true s) :=
  congrArg Host.Outcome.next (if_pos ⟨hc, by simp [holdsSlot, hclaimed, hpath]⟩)

/-! ### The PCIe endpoint's reset (R435, R448) -/

theorem semOf_of_arb {s t : State} (h : t.arb = s.arb) (n : Nat) : semOf t n = semOf s n := by rw [semOf, semOf, h]

/-- Every held semaphore of the owner is FREE and marked ABANDONED. -/
theorem semOf_abandonSems {owner : Sem → Bool} {n : Nat} {s : State} (hheld : (semOf s n).held = true)
    (howner : owner (semOf s n) = true) :
    semOf (abandonSems owner s) n = { held := false, abandoned := true, master := 0, tag := 0 } := by
  obtain ⟨x, hx⟩ : ∃ x, Tbl.find s.arb.sem n = some x := by
    cases hfind : Tbl.find s.arb.sem n with
    | none => simp [semOf, Tbl.getD, hfind] at hheld
    | some x => exact ⟨x, rfl⟩
  have hsem : semOf s n = x := by simp [semOf, Tbl.getD, hx]
  rw [hsem] at hheld howner
  unfold abandonSems
  rw [foldl_overwrite (g := fun s => semOf s n) (c := fun p => decide (p.1 = n))
    (b := { held := false, abandoned := true, master := 0, tag := 0 })]
  · exact if_pos (List.any_eq_true.mpr ⟨(n, x), by simp [Tbl.mem_of_find hx, hheld, howner], by simp⟩)
  · intro p _ u
    have hput : semOf (putSem p.1 { held := false, abandoned := true, master := 0, tag := 0 } u) n =
        if decide (p.1 = n) then { held := false, abandoned := true, master := 0, tag := 0 } else semOf u n := by
      by_cases hp : p.1 = n
      · subst hp; simp
      · simpa [hp] using semOf_putSem_other (Ne.symm hp) _ u
    rw [← hput]
    dsimp only
    split
    · exact (semOf_of_arb (raiseInt_arb ..) n).trans (semOf_of_arb (report_arb ..) n)
    · exact semOf_of_arb (report_arb ..) n

theorem exec_pcieReset_unclaimed {s : State} (h : ∀ c < 8, (slotOf s c).state = 0) :
    exec .pcieReset s = .next
      { abandonSems (fun x => decide (x.master = 2)) s with
        int := { (abandonSems (fun x => decide (x.master = 2)) s).int with msixOn := false, masked := 0xFFFFFFFF, pba := 0, table := [] } } := by
  have hslots : (List.range 8).foldl (fun s c => if holdsSlot s 0 c then releaseSlot c false s else s) s = s := by
    refine List.foldlRecOn (motive := (· = s)) _ _ rfl ?_
    rintro _ rfl c hc
    exact if_neg (by simp [holdsSlot, h c (List.mem_range.mp hc)])
  show execPcieReset s = _
  unfold execPcieReset
  rw [hslots]

/-- Settles O52, part by part: the writes, the latched reads, the status bits, MSI-X, the flags, the slots and the reset of
the PCIe endpoint, each from what `exec` of its command comes to. -/
theorem hostRegisters : Obligations.HostRegisters := by
  refine ⟨?own, ?ignored, ?latched, fun _ _ => ⟨rfl, rfl, rfl⟩, ?clear, ?set, ?fires, ?msix, ?trig, ?pwr, ?claim, ?release, ?reset⟩
  case own => exact fun path v host s => ⟨rfl, rfl, rfl, rfl, rfl, rfl, rfl⟩
  case ignored => exact fun path off v enables host s h => exec_registerWrite_ignored path v host s h
  case latched =>
    intro path off s hoff hpath
    obtain ⟨hword, hin, hlive, hwith⟩ := latchedWith_words off hoff
    have hwithin : ∀ h ∈ latchedWith off, h < 65536 := fun h hh => by
      obtain ⟨_, hhin, _⟩ := hwith h hh
      exact hhin
    refine ⟨_, exec_latchedRead_live s hpath hword hin hlive, rfl, fun h hh u hu => ?_,
      fun other h hne hlt => find_takeLatches_other s hwithin hne hlt⟩
    obtain ⟨hhword, hhin, hhlatched⟩ := hwith h hh
    have hval : Tbl.getD u.int.latch (latchKey path h) 0 = regLive s path h := by
      rw [hu, Tbl.getD, find_takeLatches_self s hh, Option.getD_some]
    rw [exec_latchedRead_latched u hpath hhword hhin hhlatched, hval]
  case clear =>
    intro path v fired s hv _ hpath
    have hword : v < 2 ^ 32 := by omega
    refine ⟨_, exec_intStatusClear fired s hv, fun n hn => ?_⟩
    rw [bit_status0_raised fired hn, bit_status1_raised fired hn, bit_status0_clearStatus s n hword,
      bit_status1_clearStatus s n hpath hword]
    exact ⟨rfl, rfl⟩
  case set =>
    intro path v s hv hpath
    refine ⟨_, exec_intSetWrite s hv, fun n hn => ?_⟩
    obtain rfl | rfl : path = 0 ∨ path = 1 := by omega
    · obtain ⟨hown, hother⟩ := bits_statusSet_pcie v hn s
      simp [hown, hother]
    · obtain ⟨hother, hown⟩ := bits_statusSet_spi v hn s
      simp [hown, hother]
  case fires =>
    intro n s hn hclear hen hon
    refine ⟨_, exec_intSetWrite s (Nat.pow_lt_pow_right (by decide) hn), ?_⟩
    rw [bitsOf_two_pow hn]
    exact setStatusBit_pcie_fires hclear hen hon
  case msix =>
    intro enable masks s
    refine ⟨setMsix enable masks s, rfl, by rw [setMsix_int], by rw [setMsix_int], fun n hn => ⟨bit_pba_setMsix _ _ _ hn, ?_⟩⟩
    rintro rfl hmask hpend hset
    exact msix_mem_out_setMsix hn hmask hpend hset
  case trig =>
    intro path v s hv
    exact ⟨_, congrArg Host.Outcome.next (if_neg (Nat.not_le.mpr hv)), fun n => bit_clearBits _ n (by omega), rfl⟩
  case pwr =>
    intro path v s hv
    refine ⟨_, congrArg Host.Outcome.next (if_neg (by omega)), fun n => ?_, rfl⟩
    rw [← bit_clearBits _ _ (show v < 2 ^ 32 by omega)]
    simp only [Nat.mod_eq_of_lt hv]
  case claim =>
    intro path tag c s hopen hc hfree hlow
    refine ⟨_, exec_mbxClaimWrite hopen hc hfree hlow, Tbl.getD_put_self .., slotOf_putSlot_self .., fun d hd => ?_⟩
    exact slotOf_putSlot_other hd ..
  case release =>
    intro path c s hc hclaimed hpath hmaint hspi hlists
    refine ⟨_, exec_mbxReleaseWrite hc hclaimed hpath, ?_⟩
    rw [releaseSlot_own hclaimed hmaint (hpath ▸ hspi) hlists]
    exact ⟨slotOf_putSlot_self .., fun d hd => slotOf_putSlot_other hd .., rfl, rfl⟩
  case reset =>
    intro s hfree
    refine ⟨_, exec_pcieReset_unclaimed hfree, rfl, rfl, fun n hheld hmaster _ => ?_⟩
    exact (semOf_of_arb rfl n).trans (semOf_abandonSems hheld (by simp [hmaster]))

end Sys2Proof.Machine
end
